-- ==== Sys2Proof/Word.lean ====
section
/-! DEFINITION. The word types of the ZH-940 (R9, R16, R21, R35) and the addresses built from them. -/

namespace Sys2Proof

/-- One byte of memory (R9). -/
abbrev Byte := BitVec 8

/-- A 32-bit register value or instruction word (R16, R21, R39). -/
abbrev Word := BitVec 32

/-- A 64-bit pair, CSR or virtual address (R18, R35, R325). -/
abbrev DWord := BitVec 64

end Sys2Proof
end

