-- ==== Sys2Proof/Config.lean ====
section
/-! DEFINITION. What the spec leaves to the implementation: free values and functions that no proof can evaluate. Each is
an opaque constant with no body; the assumption log names each one. -/

namespace Sys2Proof.Config

/-- A fresh 64-bit free value for each draw number (keys, BOOTID, error data; log entry 8). -/
opaque freeDWord : Nat → BitVec 64

/-- Cycles that pass at a step beyond the first (CYCLE only rises, R38; log entry 7). -/
opaque elapsed : Nat → Nat

/-- SFU results within the bounds of R106, where R107 fixes no value (R108; log entry 9). -/
opaque sfuRcp : BitVec 32 → BitVec 32
opaque sfuRsq : BitVec 32 → BitVec 32
opaque sfuExp2 : BitVec 32 → BitVec 32
opaque sfuLog2 : BitVec 32 → BitVec 32
opaque sfuSin : BitVec 32 → BitVec 32
opaque sfuCos : BitVec 32 → BitVec 32
opaque sfuTanh : BitVec 32 → BitVec 32

/-- The MAU's 2^(s − m), within 1 ulp (R286; log entry 10). -/
opaque mauExp2 : BitVec 32 → BitVec 32 → BitVec 32

/-- The MAU's compensated FP32 sum of terms in order (R286, R287; log entry 10). -/
opaque mauSum : List (BitVec 32) → BitVec 32

/-- AES-256 of a 128-bit block under a key (R340; log entry 11). -/
opaque aes256 : BitVec 256 → BitVec 128 → BitVec 128

/-- AES-CMAC under a key over a message (R342; log entry 11). -/
opaque aesCmac : BitVec 256 → List (BitVec 8) → BitVec 128

/-- The slots, less one, that the memory-side cache's line compressor makes of a line's bytes (R338; log entry 8). -/
opaque lineSlots : List (BitVec 8) → BitVec 2

/-- HMAC-SHA-384 (R370) and SHA-384 (R430), over a message (log entry 11). -/
opaque hmacSha384 : BitVec 384 → List (BitVec 8) → BitVec 384
opaque sha384 : List (BitVec 8) → BitVec 384

/-- The SPDM identity key of each die, made at manufacture and never destroyed (R425; log entry 11). -/
opaque identityKey : Nat → BitVec 384

/-- The measurement of Deck's ROM recovery image (R422; log entry 12). -/
opaque recoveryHash : BitVec 384

/-- The spare rows of a stack (R433, R435; log entry 80). -/
opaque spareRows : Nat

/-- The signature Helm puts on a measurement with an identity key over a nonce (R430; log entry 11). -/
opaque spdmSign : BitVec 384 → BitVec 64 → List (BitVec 8) → BitVec 768

end Sys2Proof.Config
end

