-- ==== Sys2Proof/Syntax.lean ====
section
/-! DEFINITION. The instructions of the ZH-940: one constructor for each row of spec/opcode_table.json. The first 252 are
instruction words (R39-R48): every body field under the table's name for it. The switch marker and the guard, which every word has,
stand beside the instruction in a header (Hdr). The rest are the table's events: what a unit of the device, or a party
outside it, does in one indivisible step; `Ev` says which unit moves and what comes in from outside. (Lean compiles no
constructor with fields beyond the 245th, which is why header and event arguments stand beside Instr.) -/

namespace Sys2Proof

/-- The fields every instruction word has (R39): the switch marker S and the GUARD. -/
structure Hdr where
  m : Bool
  g : BitVec 3
deriving DecidableEq, Repr

/-- What a fetch can meet (R222). -/
inductive FetchCause
  | page
  | genStale
  | berthRevoked
deriving DecidableEq, Repr

/-- What befalls a bridge's line beside the requests it serves (R335, R338, R341, R342): the home slice reads it or gives it up early, a sector or a
page's counters meet an error that nothing repairs, one is repaired, or the spare rows of the bridge's stack fall below an eighth (R433). -/
inductive BridgeOp
  | fill
  | writeBack
  | sectorFail
  | counterFail
  | repair
  | rowFail (row : Nat)
deriving DecidableEq, Repr

/-- A unit that stops for a switch or the all-stop line (R379, R407, R408). -/
inductive UnitId
  | core (c : Nat)
  | matrix (c : Nat)
  | barge (c ch : Nat)
  | umx
  | mau (stack : Nat)
deriving DecidableEq, Repr

/-- The operations of an atomic (R166). -/
inductive AtomOp
  | add | minS | maxS | minN | maxN | and | or | xor | exch | addF32 | cas | read
deriving DecidableEq, Repr

/-- The PCIe AtomicOps a port completes (R354). -/
inductive HostAtomic
  | fetchAdd
  | swap
  | cas
deriving DecidableEq, Repr

/-- Who writes a management register (R418): a host requester by PBR identifier and arrival port, Helm or Deck. -/
inductive Req
  | host (pbr port : Nat)
  | helm
  | deck
deriving DecidableEq, Repr

/-- A session between two Helms (R366, R370): the local die, the partner's port, whether this package sends or receives, and for a
receiver its target context and priority and the address of its manifest slots (R372); the die whose CXL port or station leads to the partner, and for a
partner over UALink its package and die. -/
structure SessionSpec where
  die : Nat
  tport : Nat
  sender : Bool
  ctx : Nat
  prio : Nat
  slots : DWord
  via : Nat := 0
  peer : Option (Nat × Nat) := none
deriving DecidableEq, Repr

/-- An admission entry (R366): a 1 GiB range of the target die's memory, the source package and die, and whether it is a lease. -/
structure AdmissionSpec where
  gib : Nat
  pkg : Nat
  sdie : Nat
  lease : Bool
deriving DecidableEq, Repr

/-- How a boot goes (R422): the security version of the patch, and the step that fails, if one does. -/
structure BootRun where
  version : Nat
  failing : Option Nat
  deckOk : Bool := true
  deckHash : BitVec 384 := 0
  cut : Option (Nat × Bool) := none
deriving DecidableEq, Repr

/-- The instructions and events of spec/opcode_table.json, one constructor a row. -/
inductive Instr
  /-- ADD_B32 (R87). -/
  | addB32 (d a b : BitVec 7)
  /-- SUB_B32 (R87). -/
  | subB32 (d a b : BitVec 7)
  /-- ADD_B64 (R87). -/
  | addB64 (d a b : BitVec 7)
  /-- MUL_B32 (R87). -/
  | mulB32 (d a b : BitVec 7)
  /-- MULH_S32 (R87). -/
  | mulhS32 (d a b : BitVec 7)
  /-- MULH_N32 (R87). -/
  | mulhN32 (d a b : BitVec 7)
  /-- MAC_B32 (R87). -/
  | macB32 (d a b : BitVec 7)
  /-- MIN_S32 (R87). -/
  | minS32 (d a b : BitVec 7)
  /-- MAX_S32 (R87). -/
  | maxS32 (d a b : BitVec 7)
  /-- AND (R87). -/
  | and (d a b : BitVec 7)
  /-- OR (R87). -/
  | or (d a b : BitVec 7)
  /-- XOR (R87). -/
  | xor (d a b : BitVec 7)
  /-- SHL (R87). -/
  | shl (d a b : BitVec 7)
  /-- SHR_N32 (R87). -/
  | shrN32 (d a b : BitVec 7)
  /-- SHR_S32 (R87). -/
  | shrS32 (d a b : BitVec 7)
  /-- FSH (R87). -/
  | fsh (d a b : BitVec 7)
  /-- BFE (R88). -/
  | bfe (d a b : BitVec 7)
  /-- BFI (R88). -/
  | bfi (d a b : BitVec 7)
  /-- MOV (R89). -/
  | mov (d a : BitVec 7)
  /-- SHL_IMM (R89). -/
  | shlImm (d a : BitVec 7) (n : BitVec 5)
  /-- NOT (R89). -/
  | not (d a : BitVec 7)
  /-- SHR_N32_IMM (R89). -/
  | shrN32Imm (d a : BitVec 7) (n : BitVec 5)
  /-- NEG (R89). -/
  | neg (d a : BitVec 7)
  /-- SHR_S32_IMM (R89). -/
  | shrS32Imm (d a : BitVec 7) (n : BitVec 5)
  /-- ABS_S32 (R89). -/
  | absS32 (d a : BitVec 7)
  /-- POPC (R89). -/
  | popc (d a : BitVec 7)
  /-- CLZ (R89). -/
  | clz (d a : BitVec 7)
  /-- BREV (R89). -/
  | brev (d a : BitVec 7)
  /-- MOV_SPECIAL (R89). -/
  | movSpecial (d : BitVec 7) (i : BitVec 6)
  /-- ROT_IMM (R89). -/
  | rotImm (d a : BitVec 7) (k : BitVec 2)
  /-- LEA (R90). -/
  | lea (d a : BitVec 7) (s : BitVec 6)
  /-- LEA_X4 (R90). -/
  | leaX4 (d a : BitVec 7) (s : BitVec 6)
  /-- MOVI (R91). -/
  | movi (d : BitVec 7) (i : BitVec 14)
  /-- ADDI (R91). -/
  | addi (d : BitVec 7) (i : BitVec 14)
  /-- CMPI (R93). -/
  | cmpi (e : BitVec 3) (a b : BitVec 7) (k : BitVec 4)
  /-- PLOP (R94). -/
  | plop (e f h : BitVec 3) (t : BitVec 4)
  /-- VOTE_ANY (R95). -/
  | voteAny (e f : BitVec 3)
  /-- VOTE_ALL (R95). -/
  | voteAll (e f : BitVec 3)
  /-- VOTE_BALLOT (R95). -/
  | voteBallot (f : BitVec 3) (s : BitVec 6)
  /-- VOTE_EQ (R95). -/
  | voteEq (e f : BitVec 3)
  /-- FADD_F32 (R96). -/
  | faddF32 (d a b : BitVec 7)
  /-- FSUB_F32 (R96). -/
  | fsubF32 (d a b : BitVec 7)
  /-- FMUL_F32 (R96). -/
  | fmulF32 (d a b : BitVec 7)
  /-- FMAC_F32 (R96). -/
  | fmacF32 (d a b : BitVec 7)
  /-- FMA_F32 (R96). -/
  | fmaF32 (d a : BitVec 7) (s : BitVec 6)
  /-- FMA_F32_NEG (R96). -/
  | fmaF32Neg (d a : BitVec 7) (s : BitVec 6)
  /-- FMIN_F32 (R96). -/
  | fminF32 (d a b : BitVec 7)
  /-- FMAX_F32 (R96). -/
  | fmaxF32 (d a b : BitVec 7)
  /-- CMPF (R97). -/
  | cmpf (e : BitVec 3) (a b : BitVec 7) (k : BitVec 4)
  /-- FABS_F32 (R98). -/
  | fabsF32 (d a : BitVec 7)
  /-- FNEG_F32 (R98). -/
  | fnegF32 (d a : BitVec 7)
  /-- FCLASS_F32 (R98). -/
  | fclassF32 (d a : BitVec 7)
  /-- FRND_F32 (R98). -/
  | frndF32 (d a : BitVec 7) (r : BitVec 3)
  /-- HADD2_BF16 (R99). -/
  | hadd2Bf16 (d a b : BitVec 7)
  /-- HMUL2_BF16 (R99). -/
  | hmul2Bf16 (d a b : BitVec 7)
  /-- HFMA2_BF16 (R99). -/
  | hfma2Bf16 (d a b : BitVec 7)
  /-- HADD2_F16 (R99). -/
  | hadd2F16 (d a b : BitVec 7)
  /-- HMUL2_F16 (R99). -/
  | hmul2F16 (d a b : BitVec 7)
  /-- HFMA2_F16 (R99). -/
  | hfma2F16 (d a b : BitVec 7)
  /-- DOT4_E4M3 (R101). -/
  | dot4E4m3 (d a b : BitVec 7)
  /-- FADD_F32_2A (R100). -/
  | faddF322a (d a : BitVec 7) (r : BitVec 3) (z : BitVec 1)
  /-- FSUB_F32_2A (R100). -/
  | fsubF322a (d a : BitVec 7) (r : BitVec 3) (z : BitVec 1)
  /-- FMUL_F32_2A (R100). -/
  | fmulF322a (d a : BitVec 7) (r : BitVec 3) (z : BitVec 1)
  /-- HADD2_BF16_2A (R100). -/
  | hadd2Bf162a (d a : BitVec 7) (r : BitVec 3) (z : BitVec 1)
  /-- HMUL2_BF16_2A (R100). -/
  | hmul2Bf162a (d a : BitVec 7) (r : BitVec 3) (z : BitVec 1)
  /-- HADD2_F16_2A (R100). -/
  | hadd2F162a (d a : BitVec 7) (r : BitVec 3) (z : BitVec 1)
  /-- HMUL2_F16_2A (R100). -/
  | hmul2F162a (d a : BitVec 7) (r : BitVec 3) (z : BitVec 1)
  /-- CVT_ENC_F16 (R102). -/
  | cvtEncF16 (d a : BitVec 7) (r : BitVec 3)
  /-- CVT_ENC_BF16 (R102). -/
  | cvtEncBf16 (d a : BitVec 7) (r : BitVec 3)
  /-- CVT_ENC_E4M3 (R102). -/
  | cvtEncE4m3 (d a : BitVec 7) (r : BitVec 3)
  /-- CVT_ENC_E5M2 (R102). -/
  | cvtEncE5m2 (d a : BitVec 7) (r : BitVec 3)
  /-- CVT_ENC_S32 (R102). -/
  | cvtEncS32 (d a : BitVec 7) (r : BitVec 3)
  /-- CVT_ENC_N32 (R102). -/
  | cvtEncN32 (d a : BitVec 7) (r : BitVec 3)
  /-- CVT_DEC_F16 (R102). -/
  | cvtDecF16 (d a : BitVec 7)
  /-- CVT_DEC_BF16 (R102). -/
  | cvtDecBf16 (d a : BitVec 7)
  /-- CVT_DEC_E4M3 (R102). -/
  | cvtDecE4m3 (d a : BitVec 7)
  /-- CVT_DEC_E5M2 (R102). -/
  | cvtDecE5m2 (d a : BitVec 7)
  /-- CVT_DEC_S32 (R102). -/
  | cvtDecS32 (d a : BitVec 7) (r : BitVec 3)
  /-- CVT_DEC_N32 (R102). -/
  | cvtDecN32 (d a : BitVec 7) (r : BitVec 3)
  /-- CVT_PK_BF16 (R102). -/
  | cvtPkBf16 (d a : BitVec 7) (r : BitVec 3)
  /-- CVT_PK_F16 (R102). -/
  | cvtPkF16 (d a : BitVec 7) (r : BitVec 3)
  /-- CVT_PK2_E4M3 (R102). -/
  | cvtPk2E4m3 (d a : BitVec 7) (r : BitVec 3)
  /-- CVT_PK2_E5M2 (R102). -/
  | cvtPk2E5m2 (d a : BitVec 7) (r : BitVec 3)
  /-- CVT_BLK_PK (R104). -/
  | cvtBlkPk (d a : BitVec 7) (r : BitVec 1)
  /-- CVT_BLK_ENC (R104). -/
  | cvtBlkEnc (d a : BitVec 7) (r : BitVec 1)
  /-- CVT_BLK_DEC (R104). -/
  | cvtBlkDec (d a : BitVec 7) (k : BitVec 2)
  /-- BSCALE (R105). -/
  | bscale (d a : BitVec 7)
  /-- BSCALE_KEEPX (R105). -/
  | bscaleKeepx (d a : BitVec 7)
  /-- RCP (R106). -/
  | rcp (d a : BitVec 7)
  /-- RSQ (R106). -/
  | rsq (d a : BitVec 7)
  /-- SQRT (R106). -/
  | sqrt (d a : BitVec 7)
  /-- EXP2 (R106). -/
  | exp2 (d a : BitVec 7)
  /-- LOG2 (R106). -/
  | log2 (d a : BitVec 7)
  /-- SIN (R106). -/
  | sin (d a : BitVec 7)
  /-- COS (R106). -/
  | cos (d a : BitVec 7)
  /-- SINCOS (R106). -/
  | sincos (d a : BitVec 7)
  /-- TANH (R106). -/
  | tanh (d a : BitVec 7)
  /-- QXCH_PAIR (R109). -/
  | qxchPair (d a : BitVec 7)
  /-- QXCH_HALF (R109). -/
  | qxchHalf (d a : BitVec 7)
  /-- QXCH_DIAG (R109). -/
  | qxchDiag (d a : BitVec 7)
  /-- QXCH_BC (R109). -/
  | qxchBc (d a : BitVec 7) (k : BitVec 2)
  /-- QRED (R110). -/
  | qred (d a : BitVec 7) (o : BitVec 3)
  /-- SHFL_UP (R111). -/
  | shflUp (d a : BitVec 7) (n : BitVec 5)
  /-- SHFL_DOWN (R111). -/
  | shflDown (d a : BitVec 7) (n : BitVec 5)
  /-- SHFL_XOR (R111). -/
  | shflXor (d a : BitVec 7) (n : BitVec 5)
  /-- PERM (R112). -/
  | perm (d a b : BitVec 7)
  /-- TOPK_MAX (R113). -/
  | topkMax (d a : BitVec 7) (s : BitVec 6)
  /-- TOPK_MIN (R113). -/
  | topkMin (d a : BitVec 7) (s : BitVec 6)
  /-- VX (R114). -/
  | vx (d i : BitVec 7) (s : BitVec 6)
  /-- VXW (R114). -/
  | vxw (d i : BitVec 7) (s : BitVec 6)
  /-- LD_B32 (R159). -/
  | ldB32 (d a : BitVec 7) (s : BitVec 5)
  /-- LD_B64 (R159). -/
  | ldB64 (d a : BitVec 7) (s : BitVec 5)
  /-- ST_B32 (R159). -/
  | stB32 (d a : BitVec 7) (s : BitVec 5)
  /-- ST_B64 (R159). -/
  | stB64 (d a : BitVec 7) (s : BitVec 5)
  /-- LDS_B32 (R159). -/
  | ldsB32 (d a : BitVec 7) (s : BitVec 5)
  /-- LDS_B64 (R159). -/
  | ldsB64 (d a : BitVec 7) (s : BitVec 5)
  /-- STS_B32 (R159). -/
  | stsB32 (d a : BitVec 7) (s : BitVec 5)
  /-- STS_B64 (R159). -/
  | stsB64 (d a : BitVec 7) (s : BitVec 5)
  /-- LD_B128 (R159). -/
  | ldB128 (d a : BitVec 7) (s : BitVec 5)
  /-- LDS_B128 (R159). -/
  | ldsB128 (d a : BitVec 7) (s : BitVec 5)
  /-- ST_B128 (R159). -/
  | stB128 (d a : BitVec 7) (s : BitVec 5)
  /-- STS_B128 (R159). -/
  | stsB128 (d a : BitVec 7) (s : BitVec 5)
  /-- LD_N8 (R160). -/
  | ldN8 (d a : BitVec 7) (s : BitVec 3)
  /-- LD_S8 (R160). -/
  | ldS8 (d a : BitVec 7) (s : BitVec 3)
  /-- LD_N16 (R160). -/
  | ldN16 (d a : BitVec 7) (s : BitVec 3)
  /-- LD_S16 (R160). -/
  | ldS16 (d a : BitVec 7) (s : BitVec 3)
  /-- ST_B8 (R160). -/
  | stB8 (d a : BitVec 7) (s : BitVec 3)
  /-- ST_B16 (R160). -/
  | stB16 (d a : BitVec 7) (s : BitVec 3)
  /-- LDS_N8 (R160). -/
  | ldsN8 (d a : BitVec 7) (s : BitVec 3)
  /-- LDS_N16 (R160). -/
  | ldsN16 (d a : BitVec 7) (s : BitVec 3)
  /-- STS_B8 (R160). -/
  | stsB8 (d a : BitVec 7) (s : BitVec 3)
  /-- STS_B16 (R160). -/
  | stsB16 (d a : BitVec 7) (s : BitVec 3)
  /-- LDY_B32 (R163). -/
  | ldyB32 (d a : BitVec 7) (s : BitVec 3)
  /-- PREF (R162). -/
  | pref (l : BitVec 1) (a : BitVec 7) (s : BitVec 3)
  /-- LDKV (R164). -/
  | ldkv (d a : BitVec 7) (s : BitVec 3)
  /-- LDKV_TRAP (R164). -/
  | ldkvTrap (d a : BitVec 7) (s : BitVec 3)
  /-- DLD_B32 (R161). -/
  | dldB32 (n a : BitVec 7) (s : BitVec 3)
  /-- DST_B32 (R161). -/
  | dstB32 (n a : BitVec 7) (s : BitVec 3)
  /-- ACCRD (R165). -/
  | accrd (d a : BitVec 7) (t f : BitVec 2) (r : BitVec 3)
  /-- ACCWR (R165). -/
  | accwr (d a : BitVec 7) (t : BitVec 2)
  /-- ATOM (R168). -/
  | atom (d a : BitVec 7) (o : BitVec 4) (p : BitVec 2) (w : BitVec 1)
  /-- CAS (R168). -/
  | cas (d a : BitVec 7) (p : BitVec 2) (w : BitVec 1)
  /-- ATOM_PUB (R169). -/
  | atomPub (d a : BitVec 7) (o : BitVec 4) (p : BitVec 2) (w : BitVec 1)
  /-- CAS_PUB (R169). -/
  | casPub (d a : BitVec 7) (p : BitVec 2) (w : BitVec 1)
  /-- RED (R168). -/
  | red (d a : BitVec 7) (o : BitVec 4) (p : BitVec 2) (w : BitVec 1)
  /-- LD_SUB (R169). -/
  | ldSub (d a : BitVec 7) (p : BitVec 2) (w : BitVec 1)
  /-- MIN_N32 (R92). -/
  | minN32 (d a : BitVec 7)
  /-- MAX_N32 (R92). -/
  | maxN32 (d a : BitVec 7)
  /-- ROT (R92). -/
  | rot (d a : BitVec 7)
  /-- ROTR (R92). -/
  | rotr (d a : BitVec 7)
  /-- ADD_S32_SAT (R92). -/
  | addS32Sat (d a : BitVec 7)
  /-- SUB_S32_SAT (R92). -/
  | subS32Sat (d a : BitVec 7)
  /-- SEL (R92). -/
  | sel (d a : BitVec 7) (n : BitVec 3)
  /-- SEL_NOT (R92). -/
  | selNot (d a : BitVec 7) (n : BitVec 3)
  /-- SADD (R119). -/
  | sadd (d a b : BitVec 6)
  /-- SSUB (R119). -/
  | ssub (d a b : BitVec 6)
  /-- SAND (R119). -/
  | sand (d a b : BitVec 6)
  /-- SOR (R119). -/
  | sor (d a b : BitVec 6)
  /-- SXOR (R119). -/
  | sxor (d a b : BitVec 6)
  /-- SSHL (R119). -/
  | sshl (d a b : BitVec 6)
  /-- SSHR_N32 (R119). -/
  | sshrN32 (d a b : BitVec 6)
  /-- SSHR_S32 (R119). -/
  | sshrS32 (d a b : BitVec 6)
  /-- SMUL (R119). -/
  | smul (d a b : BitVec 6)
  /-- SMULH_S32 (R119). -/
  | smulhS32 (d a b : BitVec 6)
  /-- SMULH_N32 (R119). -/
  | smulhN32 (d a b : BitVec 6)
  /-- SMIN_S32 (R119). -/
  | sminS32 (d a b : BitVec 6)
  /-- SMAX_S32 (R119). -/
  | smaxS32 (d a b : BitVec 6)
  /-- SMIN_N32 (R119). -/
  | sminN32 (d a b : BitVec 6)
  /-- SMAX_N32 (R119). -/
  | smaxN32 (d a b : BitVec 6)
  /-- SROT (R119). -/
  | srot (d a b : BitVec 6)
  /-- SADD_B64 (R120). -/
  | saddB64 (d a b : BitVec 6)
  /-- SSUB_B64 (R120). -/
  | ssubB64 (d a b : BitVec 6)
  /-- SAND_B64 (R120). -/
  | sandB64 (d a b : BitVec 6)
  /-- SOR_B64 (R120). -/
  | sorB64 (d a b : BitVec 6)
  /-- SXOR_B64 (R120). -/
  | sxorB64 (d a b : BitVec 6)
  /-- SSHL_B64 (R120). -/
  | sshlB64 (d a b : BitVec 6)
  /-- SSHR_N64 (R120). -/
  | sshrN64 (d a b : BitVec 6)
  /-- SSHR_S64 (R120). -/
  | sshrS64 (d a b : BitVec 6)
  /-- SMOV (R121). -/
  | smov (d a : BitVec 6)
  /-- SNOT (R121). -/
  | snot (d a : BitVec 6)
  /-- SPOPC (R121). -/
  | spopc (d a : BitVec 6)
  /-- SCLZ (R121). -/
  | sclz (d a : BitVec 6)
  /-- SBREV (R121). -/
  | sbrev (d a : BitVec 6)
  /-- SBFE_N32 (R121). -/
  | sbfeN32 (d a b : BitVec 6)
  /-- SBFE_S32 (R121). -/
  | sbfeS32 (d a b : BitVec 6)
  /-- SBFI (R121). -/
  | sbfi (d a b : BitVec 6)
  /-- SSET (R122). -/
  | sset (e : BitVec 3) (a b : BitVec 6) (k : BitVec 3)
  /-- SSEL (R123). -/
  | ssel (d a b : BitVec 6) (n : BitVec 3)
  /-- SADDI (R124). -/
  | saddi (d : BitVec 6) (i : BitVec 15)
  /-- SMOVI (R124). -/
  | smovi (d : BitVec 6) (i : BitVec 15)
  /-- SLIT (R45). -/
  | slit (d : BitVec 6) (lit : Word)
  /-- SLIT_ADD (R48). -/
  | slitAdd (d : BitVec 6) (lit : Word)
  /-- SLIT_AND (R48). -/
  | slitAnd (d : BitVec 6) (lit : Word)
  /-- SLIT_OR (R48). -/
  | slitOr (d : BitVec 6) (lit : Word)
  /-- SLIT_XOR (R48). -/
  | slitXor (d : BitVec 6) (lit : Word)
  /-- SREG (R125). -/
  | sreg (d i : BitVec 6)
  /-- SANDI (R124). -/
  | sandi (d : BitVec 6) (i : BitVec 15)
  /-- SORI (R124). -/
  | sori (d : BitVec 6) (i : BitVec 15)
  /-- SXORI (R124). -/
  | sxori (d : BitVec 6) (i : BitVec 15)
  /-- QLOP (R126). -/
  | qlop (e f h : BitVec 3) (t : BitVec 4)
  /-- BRA (R127). -/
  | bra (o : BitVec 21)
  /-- CALL (R127). -/
  | call (o : BitVec 21)
  /-- JMP (R129). -/
  | jmp (a : BitVec 6)
  /-- JMP_CALL (R129). -/
  | jmpCall (a : BitVec 6)
  /-- JMP_T (R129). -/
  | jmpT (n : BitVec 3) (o : BitVec 15)
  /-- JMP_F (R129). -/
  | jmpF (n : BitVec 3) (o : BitVec 15)
  /-- CONV (R132). -/
  | conv (a : BitVec 6)
  /-- LOOP (R131). -/
  | loop (d : BitVec 6) (i : BitVec 15)
  /-- SPAWN_L (R138). -/
  | spawnL (a b : BitVec 6) (n : BitVec 3)
  /-- SPAWN_G (R139). -/
  | spawnG (a b : BitVec 6)
  /-- SPAWN_B (R139). -/
  | spawnB (a b : BitVec 6)
  /-- BAR_ARRIVE (R143). -/
  | barArrive (i : BitVec 4) (a b : BitVec 6)
  /-- BAR_WAIT (R143). -/
  | barWait (i : BitVec 4) (b : BitVec 6)
  /-- BAR_SYNC (R143). -/
  | barSync (i : BitVec 4) (a : BitVec 6)
  /-- BAR_ARRIVE_CLU (R143). -/
  | barArriveClu (i : BitVec 3) (a b : BitVec 6)
  /-- BAR_WAIT_CLU (R143). -/
  | barWaitClu (i : BitVec 3) (b : BitVec 6)
  /-- BAR_SYNC_CLU (R143). -/
  | barSyncClu (i : BitVec 3) (a : BitVec 6)
  /-- WAITGE (R145). -/
  | waitge (a b : BitVec 6)
  /-- WAITGE_SYS (R145). -/
  | waitgeSys (a b : BitVec 6)
  /-- SLD (R170). -/
  | sld (d a b : BitVec 6) (k : BitVec 3)
  /-- SST (R170). -/
  | sst (d a b : BitVec 6) (k : BitVec 3)
  /-- SATOM (R171). -/
  | satom (o : BitVec 4) (a b : BitVec 6) (p : BitVec 2) (w : BitVec 1)
  /-- SATOM_PUB (R171). -/
  | satomPub (o : BitVec 4) (a b : BitVec 6) (p : BitVec 2) (w : BitVec 1)
  /-- CHAIN (R182). -/
  | chain (c : BitVec 1) (a : BitVec 6)
  /-- MCMD (R174). -/
  | mcmd (a : BitVec 6)
  /-- ATTN (R174). -/
  | attn (a : BitVec 6)
  /-- UNMASK (R174). -/
  | unmask (a : BitVec 6)
  /-- COLL (R174). -/
  | coll (a : BitVec 6)
  /-- SHIP (R209). -/
  | ship (a : BitVec 6)
  /-- REPLAY (R210). -/
  | replay (a b : BitVec 6)
  /-- CSRR (R147). -/
  | csrr (d : BitVec 6) (c : BitVec 12)
  /-- CSRW (R147). -/
  | csrw (d : BitVec 6) (c : BitVec 12)
  /-- TRAP (R148). -/
  | trap (a : BitVec 6) (r : BitVec 3)
  /-- ASGEN (R149). -/
  | asgen (a b : BitVec 6)
  /-- TLBI_ASID (R150). -/
  | tlbiAsid (a : BitVec 6)
  /-- TLBI_PAGE (R150). -/
  | tlbiPage (a b : BitVec 6)
  /-- CTXSV_STOP (R378). -/
  | ctxsvStop (a b : BitVec 6)
  /-- CTXSV_PART (R391). -/
  | ctxsvPart (b : BitVec 6) (k : BitVec 3)
  /-- CTXLD_PLACE (R391). -/
  | ctxldPlace (a b : BitVec 6)
  /-- CTXLD_PART (R391). -/
  | ctxldPart (b : BitVec 6) (k : BitVec 3)
  /-- RET (R130). -/
  | ret
  /-- CONV_ALL (R132). -/
  | convAll
  /-- EXIT (R134). -/
  | exit
  /-- FRAME_OPEN (R136). -/
  | frameOpen
  /-- AWAIT (R140). -/
  | await
  /-- YIELD (R146). -/
  | yield
  /-- NOP (R48). -/
  | nop
  /-- ERET (R402). -/
  | eret
  /-- BRK (R148). -/
  | brk
  /-- TLBI_ALL (R150). -/
  | tlbiAll
  /-- CTXSV_RELEASE (R391). -/
  | ctxsvRelease
  /-- CTXLD_RESUME (R391). -/
  | ctxldResume
  /-- UNASSIGNED_WORD (R49), an event. -/
  | unassignedWord
  /-- VAR_RESULT_WRITEBACK (R224), an event. -/
  | varResultWriteback
  /-- STORE_REJECTION (R154), an event. -/
  | storeRejection
  /-- FETCH_FAULT (R222), an event. -/
  | fetchFault
  /-- END_EVENT (R134), an event. -/
  | endEvent
  /-- GROUP_END (R135), an event. -/
  | groupEnd
  /-- CHILD_PLACE (R137), an event. -/
  | childPlace
  /-- CONTINUATION_RESUME (R268), an event. -/
  | continuationResume
  /-- PENDING_AGING_EXCHANGE (R233), an event. -/
  | pendingAgingExchange
  /-- LDY_BACKOFF_EXPIRY (R163), an event. -/
  | ldyBackoffExpiry
  /-- LOAD_LIMIT_WINDOW (R234), an event. -/
  | loadLimitWindow
  /-- HOME_SLICE_ACCESS (R246), an event. -/
  | homeSliceAccess
  /-- HOME_SLICE_ATOMIC (R247), an event. -/
  | homeSliceAtomic
  /-- OWNERSHIP_NOTICE (R260), an event. -/
  | ownershipNotice
  /-- OWNERSHIP_CLAIM (R261), an event. -/
  | ownershipClaim
  /-- ASGEN_IN_FORCE (R329), an event. -/
  | asgenInForce
  /-- TLBI_COMPLETE (R150), an event. -/
  | tlbiComplete
  /-- BRIDGE_ACCESS (R335), an event. -/
  | bridgeAccess
  /-- LINK_FLIT_FAILURE (R344), an event. -/
  | linkFlitFailure
  /-- ENGINE_COMPLETION (R176), an event. -/
  | engineCompletion
  /-- MCMD_START (R197), an event. -/
  | mcmdStart
  /-- KBLOCK_APPLY (R277), an event. -/
  | kblockApply
  /-- BARGE_RECORD_TAKE (R185), an event. -/
  | bargeRecordTake
  /-- BARGE_DATA_LAND (R188), an event. -/
  | bargeDataLand
  /-- SLIPFILL_ROOM (R189), an event. -/
  | slipfillRoom
  /-- BARGE_WRITEBACK (R185), an event. -/
  | bargeWriteback
  /-- ATTN_SWEEP_START (R200), an event. -/
  | attnSweepStart
  /-- ATTN_TILE (R285), an event. -/
  | attnTile
  /-- UNMASK_ROUND (R204), an event. -/
  | unmaskRound
  /-- COLL_END (R207), an event. -/
  | collEnd
  /-- COLL_MEMBER_LOST (R208), an event. -/
  | collMemberLost
  /-- HELM_MANIFEST_SEND (R370), an event. -/
  | helmManifestSend
  /-- MANIFEST_CHECK (R371), an event. -/
  | manifestCheck
  /-- MANIFEST_ANSWER (R370), an event. -/
  | manifestAnswer
  /-- MANIFEST_GRID_END (R372), an event. -/
  | manifestGridEnd
  /-- REPLAY_START (R323), an event. -/
  | replayStart
  /-- GRAPH_NODE_LAUNCH (R323), an event. -/
  | graphNodeLaunch
  /-- GRAPH_INSTANCE_END (R323), an event. -/
  | graphInstanceEnd
  /-- LAUNCH_TAKE (R316), an event. -/
  | launchTake
  /-- LAUNCH_FRAME_RESERVE (R316), an event. -/
  | launchFrameReserve
  /-- LAUNCH_END (R316), an event. -/
  | launchEnd
  /-- BLOCK_PLACE (R319), an event. -/
  | blockPlace
  /-- GANG_PLACE (R320), an event. -/
  | gangPlace
  /-- DISTRIBUTOR_PREEMPT_REQUEST (R321), an event. -/
  | distributorPreemptRequest
  /-- PREEMPT (R376), an event. -/
  | preempt
  /-- PREEMPT_BACKOFF_EXPIRY (R380), an event. -/
  | preemptBackoffExpiry
  /-- ENGINE_PREEMPT_STOP (R379), an event. -/
  | enginePreemptStop
  /-- SAVE_ENGINE_SAVE (R376), an event. -/
  | saveEngineSave
  /-- SAVE_ENGINE_RESTORE (R392), an event. -/
  | saveEngineRestore
  /-- TRAP_DELIVERY (R401), an event. -/
  | trapDelivery
  /-- HANDLER_TIMEOUT (R404), an event. -/
  | handlerTimeout
  /-- ALLSTOP_ARRIVAL (R407), an event. -/
  | allstopArrival
  /-- STOP_RECORD_WRITE (R408), an event. -/
  | stopRecordWrite
  /-- ALLSTOP_DELIVERY (R408), an event. -/
  | allstopDelivery
  /-- DBGCTL_HALT (R414), an event. -/
  | dbgctlHalt
  /-- DBGCMD_READ (R416), an event. -/
  | dbgcmdRead
  /-- DBGCMD_WRITE (R416), an event. -/
  | dbgcmdWrite
  /-- DBGCMD_RESUME (R415), an event. -/
  | dbgcmdResume
  /-- DBGCMD_STEP (R415), an event. -/
  | dbgcmdStep
  /-- DBGCMD_INVALID (R414), an event. -/
  | dbgcmdInvalid
  /-- HOST_ACCESS (R356), an event. -/
  | hostAccess
  /-- HOST_ATOMICOP (R356), an event. -/
  | hostAtomicop
  /-- CXL_UNSUPPORTED_REQUEST (R354), an event. -/
  | cxlUnsupportedRequest
  /-- BISNP_RECEIVED (R358), an event. -/
  | bisnpReceived
  /-- HOST_SNOOP (R357), an event. -/
  | hostSnoop
  /-- LINK_LOSS (R365), an event. -/
  | linkLoss
  /-- SURPRISE_REMOVAL (R365), an event. -/
  | surpriseRemoval
  /-- VIRAL_INDICATION (R365), an event. -/
  | viralIndication
  /-- EXTENT_GRANT (R362), an event. -/
  | extentGrant
  /-- EXTENT_RELEASE (R362), an event. -/
  | extentRelease
  /-- EXPANDER_REQUEST (R363), an event. -/
  | expanderRequest
  /-- STATION_REQUEST (R366), an event. -/
  | stationRequest
  /-- SPDM_SESSION_SETUP (R370), an event. -/
  | spdmSessionSetup
  /-- BERTH_ACCESS (R349), an event. -/
  | berthAccess
  /-- REVOCATION_NOTICE (R351), an event. -/
  | revocationNotice
  /-- DRAIN_WINDOW_CLOSE (R351), an event. -/
  | drainWindowClose
  /-- LEASE_REVOKE (R367), an event. -/
  | leaseRevoke
  /-- LENDER_SERVICE_END (R367), an event. -/
  | lenderServiceEnd
  /-- MGMT_REG_WRITE (R418), an event. -/
  | mgmtRegWrite
  /-- CTXBIND_BIND (R310), an event. -/
  | ctxbindBind
  /-- CTXBIND_DESTROY (R410), an event. -/
  | ctxbindDestroy
  /-- HSTATE_STEP (R421), an event. -/
  | hstateStep
  /-- HYPID_WRITE (R418), an event. -/
  | hypidWrite
  /-- WORLD_LATCH (R423), an event. -/
  | worldLatch
  /-- PCAP_WRITE (R420), an event. -/
  | pcapWrite
  /-- MOORING_WRITE (R348), an event. -/
  | mooringWrite
  /-- FWIN_WRITE (R359), an event. -/
  | fwinWrite
  /-- ASIDMAP_WRITE (R439), an event. -/
  | asidmapWrite
  /-- GET_MEASUREMENTS_CURRENT (R430), an event. -/
  | getMeasurementsCurrent
  /-- GET_MEASUREMENTS_FINAL (R430), an event. -/
  | getMeasurementsFinal
  /-- TOLL_SNAPSHOT (R430), an event. -/
  | tollSnapshot
  /-- POWER_GOOD (R422), an event. -/
  | powerGood
  /-- PACKAGE_RESET (R421), an event. -/
  | packageReset
  /-- POWER_LOSS (R427), an event. -/
  | powerLoss
  /-- DECK_THROTTLE (R432), an event. -/
  | deckThrottle
  /-- THERMAL_TRIP (R432), an event. -/
  | thermalTrip
  /-- CORE_CHECK_FAILURE (R434), an event. -/
  | coreCheckFailure
  /-- ADMISSION_TABLE_WRITE (R366), an event. -/
  | admissionTableWrite
  /-- SPDM_SESSION_END (R425), an event. -/
  | spdmSessionEnd
  /-- DIE_LEVEL_UNIT_FAILURE (R434), an event. -/
  | dieLevelUnitFailure
deriving DecidableEq, Repr

/-- An event with what it takes: the unit that moves and what comes in from outside. -/
inductive Ev
  /-- UNASSIGNED_WORD (R49): Issuing an unassigned word raises UNDEF at the group rung with no other effect. -/
  | unassignedWord (w : Word)
  /-- VAR_RESULT_WRITEBACK (R224): A variable-latency result is written back, or faults and parks its lane, releasing any S wait. -/
  | varResultWriteback (gid k : Nat)
  /-- STORE_REJECTION (R154): A rejection of a store returns and parks its lane with the store's record. -/
  | storeRejection (gid k : Nat)
  /-- FETCH_FAULT (R222): An instruction fetch meeting PAGE, GEN_STALE or BERTH_REVOKED parks every lane that fetched it. -/
  | fetchFault (c : FetchCause) (va : DWord)
  /-- END_EVENT (R134): A stopped lane's deferred end event occurs once the group has no open frame or engine operation. -/
  | endEvent (gid l : Nat)
  /-- GROUP_END (R135): A group with no live non-helper lane awaits its frames and engine operations and ends. -/
  | groupEnd (gid : Nat)
  /-- CHILD_PLACE (R137): The spawn unit places a held child on the spawning group's die. -/
  | childPlace (cids : List Nat) (core : Nat)
  /-- CONTINUATION_RESUME (R268): A parked group whose frame closed resumes as a stolen continuation on an allowed core. -/
  | continuationResume (gid core : Nat)
  /-- PENDING_AGING_EXCHANGE (R233): A pending group ready for 1,024 cycles replaces the earliest-entered active group. -/
  | pendingAgingExchange (gid : Nat)
  /-- LDY_BACKOFF_EXPIRY (R163): A group's LDY back-off period ends and it becomes a candidate for issue again. -/
  | ldyBackoffExpiry (gid : Nat)
  /-- LOAD_LIMIT_WINDOW (R234): At each 1,024-cycle window end the quarters' load limits move by lost-hit ratio. -/
  | loadLimitWindow (die core : Nat)
  /-- HOME_SLICE_ACCESS (R246): A plain access arrives at an L2 slice and is served from its line or memory. -/
  | homeSliceAccess (k : Nat)
  /-- HOME_SLICE_ACCESS (R362, R366): from now on the far side of the fabric window answers a die's requests for a line with an error, or serves
  them. -/
  | farRefusal (die pa : Nat) (shut : Bool)
  /-- HOME_SLICE_ACCESS (R362, R366, R424): the refusal of a write-back reaches the context that wrote the bytes. -/
  | writeBackRefused (k : Nat)
  /-- HOME_SLICE_ATOMIC (R247): The slice ALU performs an atomic, RED or counter add in the location's order. -/
  | homeSliceAtomic (k : Nat)
  /-- OWNERSHIP_NOTICE (R260): A die receives a notice naming a new owner of a coherence object. -/
  | ownershipNotice (k : Nat)
  /-- OWNERSHIP_CLAIM (R261): An L2 needing a line of an OWNED object makes the owner write back and clean it. -/
  | ownershipClaim (die ctx obj : Nat)
  /-- ASGEN_IN_FORCE (R329): The new generation is in force everywhere and the ASGEN completes. -/
  | asgenInForce (gid : Nat)
  /-- TLBI_COMPLETE (R150): Every TLB of the virtual function has dropped the entries and the TLBI completes. -/
  | tlbiComplete (gid : Nat)
  /-- BRIDGE_ACCESS (R335): A bridge serves one line access through decryption, memory-side cache and DRAM. -/
  | bridgeAccess (pa : Nat) (op : BridgeOp)
  /-- LINK_FLIT_FAILURE (R344): A link flit whose tag fails is resent, and a fourth failure poisons and logs. -/
  | linkFlitFailure (pa : Nat) (wr : Bool) (count : Nat)
  /-- LINK_FLIT_FAILURE (R344, R366): A flit of a UALink station is lost and retried in the same manner. -/
  | stationFlitFailure (die pa : Nat) (wr : Bool) (count : Nat)
  /-- BRIDGE_ACCESS (R342, R350): an error comes over a berth's line in its lender's frame, to be found when the station next reads it. -/
  | berthTagFailure (die pa : Nat)
  /-- ENGINE_COMPLETION (R176): After an operation's writes are acknowledged, INC is added at CNT as a publish. -/
  | engineCompletion (op : Nat)
  /-- MCMD_START (R197): A queued matrix command starts after earlier commands on its tile. -/
  | mcmdStart (die core : Nat)
  /-- KBLOCK_APPLY (R277): The matrix engine drains, decodes and applies one K-block to the tile. -/
  | kblockApply (die core : Nat)
  /-- BARGE_RECORD_TAKE (R185): A channel takes the next record of a chain and checks it. -/
  | bargeRecordTake (die core ch : Nat)
  /-- BARGE_DATA_LAND (R188): Transfer bytes land at the destination and set presence bits of finished lines; `ahead` when the
  channel also reads the next record ahead (R182). -/
  | bargeDataLand (die core ch : Nat) (ahead : Bool)
  /-- SLIPFILL_ROOM (R189): A SLIPFILL waiting for slip room resumes pushing. -/
  | slipfillRoom (die core ch : Nat)
  /-- BARGE_WRITEBACK (R185): A finished record's status, UNDELIV and PROG are written back. -/
  | bargeWriteback (die core ch : Nat)
  /-- ATTN_SWEEP_START (R200): An MAU starts a queued attention sweep. -/
  | attnSweepStart (op : Nat)
  /-- ATTN_TILE (R285): The MAU reads one tile's entry and block and folds its positions into the segment. -/
  | attnTile (op : Nat)
  /-- UNMASK_ROUND (R204): The UMX ranks masked positions, commits tokens and marks affected tiles STALE. -/
  | unmaskRound (die : Nat)
  /-- COLL_END (R207): A collective ends at a member with its results or MISMATCH; `remote` are the sources of the members on other
  packages, each with the numbers of its poisoned elements. -/
  | collEnd (op : Nat) (mismatch : Bool) (remote : List (List Byte × List Nat))
  /-- COLL_MEMBER_LOST (R208): A lost member ends the collective at every survivor with PEERLOST. -/
  | collMemberLost (op lost : Nat) (remote : List (List Byte × List Nat)) (landed : List Nat)
  /-- HELM_MANIFEST_SEND (R370): Helm signs a queued manifest and sends it to the target die. -/
  | helmManifestSend (die : Nat)
  /-- MANIFEST_CHECK (R371): The target Helm checks a manifest packet, answers, and on acceptance takes it as a launch. -/
  | manifestCheck (die sess : Nat) (seq : DWord) (pkt : List Byte) (tag : BitVec 384)
  /-- MANIFEST_ANSWER (R370): The sender receives the answer and writes ARES and adds at ACNT. -/
  | manifestAnswer (op : Nat) (status : Byte)
  /-- MANIFEST_GRID_END (R372): An accepted manifest's grid ends, adds at CNT and frees its slot. -/
  | manifestGridEnd (launch : Nat)
  /-- REPLAY_START (R323): A graph instance takes a slot, copies and patches its nodes and launches its roots. -/
  | replayStart (op : Nat)
  /-- GRAPH_NODE_LAUNCH (R323): A non-root node launches when its parent's launch ends. -/
  | graphNodeLaunch (inst node : Nat)
  /-- GRAPH_INSTANCE_END (R323): The last node's end adds the instance counter and frees the slot. -/
  | graphInstanceEnd (inst : Nat)
  /-- LAUNCH_TAKE (R316): The launch unit reads a READY line, checks it, registers objects and writes STATE. -/
  | launchTake (die ctx line : Nat)
  /-- LAUNCH_FRAME_RESERVE (R316): Once enough frame records are free a taken launch reserves them and hands its grid over. -/
  | launchFrameReserve (launch : Nat)
  /-- LAUNCH_END (R316): A launch whose blocks have all ended returns its records and adds at CNT. -/
  | launchEnd (launch : Nat)
  /-- BLOCK_PLACE (R319): A die's distributor places the next block of the highest-priority pending launch. -/
  | blockPlace (die : Nat) (cores : List Nat)
  /-- GANG_PLACE (R320): A gang share is placed in consecutive cycles once every die has room. -/
  | gangPlace (launch : Nat) (cores : List Nat)
  /-- DISTRIBUTOR_PREEMPT_REQUEST (R321): A head launch waiting 8,192 cycles makes the distributor request pre-emption of a context. -/
  | distributorPreemptRequest (die : Nat)
  /-- PREEMPT (R376): A write to PREEMPT requests the save engine to pre-empt a context. -/
  | preempt (die ctx : Nat) (req : Req)
  /-- PREEMPT_BACKOFF_EXPIRY (R380): The 8,192-cycle pause after a dropped request ends. -/
  | preemptBackoffExpiry (die ctx : Nat)
  /-- ENGINE_PREEMPT_STOP (R379): An engine reaches its stop boundary for a switch. -/
  | enginePreemptStop (die ctx : Nat) (u : UnitId)
  /-- SAVE_ENGINE_SAVE (R376): After the stop, the save engine writes every part and releases the context. -/
  | saveEngineSave (die ctx : Nat)
  /-- SAVE_ENGINE_RESTORE (R392): When the die has room, or a retry time passes, the save engine restores a saved context. -/
  | saveEngineRestore (die ctx : Nat) (cores : List Nat)
  /-- TRAP_DELIVERY (R401): A trap takes a slot and a handler group is placed at its rung. -/
  | trapDelivery (k : Nat)
  /-- HANDLER_TIMEOUT (R404): A handler that has not returned within TRAPTMO.LIMIT is stopped and TIMEOUT raised above. -/
  | handlerTimeout (gid : Nat)
  /-- ALLSTOP_ARRIVAL (R407): The all-stop line reaches a die and its units begin to stop. -/
  | allstopArrival (die ctx : Nat)
  /-- STOP_RECORD_WRITE (R408): A unit whose skid ends writes its stop record. -/
  | stopRecordWrite (die ctx : Nat) (u : UnitId) (skid : Word)
  /-- ALLSTOP_DELIVERY (R408): When every die has written its records, ALLSTOP slots go to rung C. -/
  | allstopDelivery (die ctx : Nat)
  /-- DBGCTL_HALT (R414): A write of HALT debug-stops every group of the context on the die. -/
  | dbgctlHalt (die ctx : Nat) (req : Req)
  /-- DBGCMD_READ (R416): Returns the selected register of a debug-stopped group. -/
  | dbgcmdRead (die ctx : Nat) (req : Req)
  /-- DBGCMD_WRITE (R416): Writes DATA to the selected register, refused if pending unless FORCE. -/
  | dbgcmdWrite (die ctx : Nat) (req : Req)
  /-- DBGCMD_RESUME (R415): Continues a debug-stopped group. -/
  | dbgcmdResume (die ctx : Nat) (req : Req)
  /-- DBGCMD_STEP (R415): Lets a debug-stopped group make one issue and stop again. -/
  | dbgcmdStep (die ctx : Nat) (req : Req)
  /-- DBGCMD_INVALID (R414): A DBGCMD write with another command value gives BADSEL. -/
  | dbgcmdInvalid (die ctx cmd : Nat) (req : Req)
  /-- HOST_ACCESS (R356): A host plain access to package memory is performed at the home slice if host access is enabled. -/
  | hostAccess (pa n : Nat) (wr : Option (List Byte))
  /-- HOST_ATOMICOP (R356): A host PCIe AtomicOp is performed at the home slice as a .sys publish. -/
  | hostAtomicop (op : HostAtomic) (pa : Nat) (wide : Bool) (val cmp : DWord)
  /-- CXL_UNSUPPORTED_REQUEST (R354): A request for an unsupported CXL part is answered unsupported and logged. -/
  | cxlUnsupportedRequest (port code : Nat)
  /-- BISNP_RECEIVED (R358): A BISnp removes the whole 128-byte line and retests a WAITGE.sys holding it. -/
  | bisnpReceived (die pa : Nat)
  /-- HOST_SNOOP (R357): A host snoop of a cached host line is answered before later accesses. -/
  | hostSnoop (die pa : Nat)
  /-- LINK_LOSS (R365): Loss of link at a port makes matching fabric window entries lost and notifies contexts. -/
  | linkLoss (die : Nat)
  /-- SURPRISE_REMOVAL (R365): Surprise removal at a port makes matching entries lost and notifies contexts. -/
  | surpriseRemoval (die : Nat)
  /-- VIRAL_INDICATION (R365): A CXL viral indication makes matching entries lost and raises VIRAL. -/
  | viralIndication (die : Nat)
  /-- EXTENT_GRANT (R362): A dynamic capacity add grants a zeroed extent to the latched tenant. -/
  | extentGrant (die ext tenant : Nat) (reqs : List (Nat × Bool)) (c : Bool)
  /-- EXTENT_RELEASE (R362): An extent is released after its snoop-filter entries are recalled. -/
  | extentRelease (die ext : Nat)
  /-- EXPANDER_REQUEST (R363): An expander die checks a requester and serves its access with snoop-filter upkeep. -/
  | expanderRequest (die pbr pa n : Nat) (wr : Option (List Byte))
  /-- EXPANDER_REQUEST (R247, R361): A .sys atomic or counter add arrives from a requester. -/
  | expanderAtomic (die pbr pa : Nat) (op : AtomOp) (wide : Bool) (x y : DWord)
  /-- STATION_REQUEST (R366): A UALink request is served or refused by the target's admission table. -/
  | stationRequest (die stn pkg sdie pa n : Nat) (wr : Option (List Byte))
  /-- STATION_REQUEST (R247, R361): A .sys atomic or counter add arrives from a peer package. -/
  | stationAtomic (die stn pkg sdie pa : Nat) (op : AtomOp) (wide : Bool) (x y : DWord)
  /-- SPDM_SESSION_SETUP (R370): Two Helms establish a session with its keys and SEQ counters. -/
  | spdmSessionSetup (sess : SessionSpec)
  /-- BERTH_ACCESS (R349): A berth access is served at its station by its mooring entry's STATE. -/
  | berthAccess (k : Nat)
  /-- REVOCATION_NOTICE (R351): A revocation notice puts a berth in DRAINING and opens its drain window. -/
  | revocationNotice (die berth : Nat)
  /-- DRAIN_WINDOW_CLOSE (R351): The drain window closes, STATE becomes REVOKED and copies are dropped. -/
  | drainWindowClose (die berth : Nat)
  /-- LEASE_REVOKE (R367): The lender's Helm marks a lease REVOKING and its station sends the notice. -/
  | leaseRevoke (die entry : Nat)
  /-- LENDER_SERVICE_END (R367): The lender stops serving at the window-close report or its cycle limit and removes the entry. -/
  | lenderServiceEnd (die entry : Nat) (reported : Bool)
  /-- MGMT_REG_WRITE (R418): A write to a management register without behaviour of its own, with requester and lock checks. -/
  | mgmtRegWrite (die off : Nat) (val : DWord) (req : Req)
  /-- MGMT_REG_WRITE (R355, R414, R417, R419): A read of n bytes of a management register, or a write of n bytes, fewer than eight, to one. -/
  | mgmtRegAccess (die off n : Nat) (wr : Bool) (req : Req)
  /-- CTXBIND_BIND (R310): A CTXBIND bind checks a descriptor and creates the context on every die of DIES. -/
  | ctxbindBind (die : Nat) (val : DWord) (req : Req)
  /-- CTXBIND_DESTROY (R410): A CTXBIND destroy destroys the context on every die of its DIES. -/
  | ctxbindDestroy (die : Nat) (val : DWord) (req : Req)
  /-- HSTATE_STEP (R421): A STEP write moves the package to the next configuration state. -/
  | hstateStep (die : Nat) (req : Req)
  /-- HYPID_WRITE (R418): A write to HYPID sets it on every die and records the arrival port. -/
  | hypidWrite (die : Nat) (val : DWord) (req : Req)
  /-- WORLD_LATCH (R423): Helm latches a die to a new world, destroying, scrubbing and rekeying. -/
  | worldLatch (die : Nat) (val : DWord) (req : Req)
  /-- PCAP_WRITE (R420): A write to PCAP stores the cap clamped to 100–330 W. -/
  | pcapWrite (die : Nat) (val : DWord) (req : Req)
  /-- MOORING_WRITE (R348): A write to a mooring entry, refused if invalid, generating berth keys on ACTIVE. -/
  | mooringWrite (die off : Nat) (val : DWord) (req : Req)
  /-- FWIN_WRITE (R359): A write to a fabric window entry, refused if the result is invalid. -/
  | fwinWrite (die off : Nat) (val : DWord) (req : Req)
  /-- ASIDMAP_WRITE (R439): A write to the ASID map sets the entry on every die unless refused. -/
  | asidmapWrite (die asid : Nat) (val : DWord) (req : Req)
  /-- GET_MEASUREMENTS_CURRENT (R430): Helm takes a snapshot and returns the signed current toll record. -/
  | getMeasurementsCurrent (die : Nat) (nonce : DWord)
  /-- GET_MEASUREMENTS_FINAL (R430): Helm returns the signed final record of the previous world. -/
  | getMeasurementsFinal (die : Nat) (nonce : DWord)
  /-- TOLL_SNAPSHOT (R430): Every 2^30 cycles Helm extends the toll-counter chain. -/
  | tollSnapshot (die : Nat)
  /-- POWER_GOOD (R422): Power good starts boot from HELM_INIT to CONFIG_OPEN or BOOTFAIL. -/
  | powerGood (boot : BootRun)
  /-- PACKAGE_RESET (R421): A package reset returns the package to HELM_INIT and reboots. -/
  | packageReset (boot : BootRun)
  /-- POWER_LOSS (R427): Loss of power ends every context and key, leaving the fuse count no lower. -/
  | powerLoss
  /-- DECK_THROTTLE (R432): Deck withholds issue cycles when power or temperature limits are exceeded. -/
  | deckThrottle (die step : Nat)
  /-- THERMAL_TRIP (R432): At 115 °C Deck removes package power and logs the trip. -/
  | thermalTrip (temp : Byte)
  /-- CORE_CHECK_FAILURE (R434): A core failing a hardware check is fenced and its contexts take POISON. -/
  | coreCheckFailure (die core : Nat)
  /-- ADMISSION_TABLE_WRITE (R366): At the request of the target's hypervisor, Helm writes an admission-table entry that names a range, a source package and die, and a mode. -/
  | admissionTableWrite (die : Nat) (e : AdmissionSpec)
  /-- SPDM_SESSION_END (R425): An SPDM session ends, which destroys its station and manifest keys. -/
  | spdmSessionEnd (sess : Nat)
  /-- DIE_LEVEL_UNIT_FAILURE (R434): A die's bridge or a die-level unit fails, and Helm retires or fences the die. -/
  | dieLevelUnitFailure (die : Nat)
deriving DecidableEq, Repr

/-- The row of the opcode table that an event is. -/
def Ev.instr : Ev → Instr
  | .unassignedWord _ => .unassignedWord
  | .varResultWriteback _ _ => .varResultWriteback
  | .storeRejection _ _ => .storeRejection
  | .fetchFault _ _ => .fetchFault
  | .endEvent _ _ => .endEvent
  | .groupEnd _ => .groupEnd
  | .childPlace _ _ => .childPlace
  | .continuationResume _ _ => .continuationResume
  | .pendingAgingExchange _ => .pendingAgingExchange
  | .ldyBackoffExpiry _ => .ldyBackoffExpiry
  | .loadLimitWindow _ _ => .loadLimitWindow
  | .homeSliceAccess _ => .homeSliceAccess
  | .farRefusal _ _ _ => .homeSliceAccess
  | .writeBackRefused _ => .homeSliceAccess
  | .homeSliceAtomic _ => .homeSliceAtomic
  | .ownershipNotice _ => .ownershipNotice
  | .ownershipClaim _ _ _ => .ownershipClaim
  | .asgenInForce _ => .asgenInForce
  | .tlbiComplete _ => .tlbiComplete
  | .bridgeAccess _ _ => .bridgeAccess
  | .linkFlitFailure _ _ _ => .linkFlitFailure
  | .stationFlitFailure _ _ _ _ => .linkFlitFailure
  | .berthTagFailure _ _ => .bridgeAccess
  | .engineCompletion _ => .engineCompletion
  | .mcmdStart _ _ => .mcmdStart
  | .kblockApply _ _ => .kblockApply
  | .bargeRecordTake _ _ _ => .bargeRecordTake
  | .bargeDataLand _ _ _ _ => .bargeDataLand
  | .slipfillRoom _ _ _ => .slipfillRoom
  | .bargeWriteback _ _ _ => .bargeWriteback
  | .attnSweepStart _ => .attnSweepStart
  | .attnTile _ => .attnTile
  | .unmaskRound _ => .unmaskRound
  | .collEnd _ _ _ => .collEnd
  | .collMemberLost _ _ _ _ => .collMemberLost
  | .helmManifestSend _ => .helmManifestSend
  | .manifestCheck _ _ _ _ _ => .manifestCheck
  | .manifestAnswer _ _ => .manifestAnswer
  | .manifestGridEnd _ => .manifestGridEnd
  | .replayStart _ => .replayStart
  | .graphNodeLaunch _ _ => .graphNodeLaunch
  | .graphInstanceEnd _ => .graphInstanceEnd
  | .launchTake _ _ _ => .launchTake
  | .launchFrameReserve _ => .launchFrameReserve
  | .launchEnd _ => .launchEnd
  | .blockPlace _ _ => .blockPlace
  | .gangPlace _ _ => .gangPlace
  | .distributorPreemptRequest _ => .distributorPreemptRequest
  | .preempt _ _ _ => .preempt
  | .preemptBackoffExpiry _ _ => .preemptBackoffExpiry
  | .enginePreemptStop _ _ _ => .enginePreemptStop
  | .saveEngineSave _ _ => .saveEngineSave
  | .saveEngineRestore _ _ _ => .saveEngineRestore
  | .trapDelivery _ => .trapDelivery
  | .handlerTimeout _ => .handlerTimeout
  | .allstopArrival _ _ => .allstopArrival
  | .stopRecordWrite _ _ _ _ => .stopRecordWrite
  | .allstopDelivery _ _ => .allstopDelivery
  | .dbgctlHalt _ _ _ => .dbgctlHalt
  | .dbgcmdRead _ _ _ => .dbgcmdRead
  | .dbgcmdWrite _ _ _ => .dbgcmdWrite
  | .dbgcmdResume _ _ _ => .dbgcmdResume
  | .dbgcmdStep _ _ _ => .dbgcmdStep
  | .dbgcmdInvalid _ _ _ _ => .dbgcmdInvalid
  | .hostAccess _ _ _ => .hostAccess
  | .hostAtomicop _ _ _ _ _ => .hostAtomicop
  | .cxlUnsupportedRequest _ _ => .cxlUnsupportedRequest
  | .bisnpReceived _ _ => .bisnpReceived
  | .hostSnoop _ _ => .hostSnoop
  | .linkLoss _ => .linkLoss
  | .surpriseRemoval _ => .surpriseRemoval
  | .viralIndication _ => .viralIndication
  | .extentGrant _ _ _ _ _ => .extentGrant
  | .extentRelease _ _ => .extentRelease
  | .expanderRequest _ _ _ _ _ => .expanderRequest
  | .expanderAtomic _ _ _ _ _ _ _ => .expanderRequest
  | .stationRequest _ _ _ _ _ _ _ => .stationRequest
  | .stationAtomic _ _ _ _ _ _ _ _ _ => .stationRequest
  | .spdmSessionSetup _ => .spdmSessionSetup
  | .berthAccess _ => .berthAccess
  | .revocationNotice _ _ => .revocationNotice
  | .drainWindowClose _ _ => .drainWindowClose
  | .leaseRevoke _ _ => .leaseRevoke
  | .lenderServiceEnd _ _ _ => .lenderServiceEnd
  | .mgmtRegWrite _ _ _ _ => .mgmtRegWrite
  | .mgmtRegAccess _ _ _ _ _ => .mgmtRegWrite
  | .ctxbindBind _ _ _ => .ctxbindBind
  | .ctxbindDestroy _ _ _ => .ctxbindDestroy
  | .hstateStep _ _ => .hstateStep
  | .hypidWrite _ _ _ => .hypidWrite
  | .worldLatch _ _ _ => .worldLatch
  | .pcapWrite _ _ _ => .pcapWrite
  | .mooringWrite _ _ _ _ => .mooringWrite
  | .fwinWrite _ _ _ _ => .fwinWrite
  | .asidmapWrite _ _ _ _ => .asidmapWrite
  | .getMeasurementsCurrent _ _ => .getMeasurementsCurrent
  | .getMeasurementsFinal _ _ => .getMeasurementsFinal
  | .tollSnapshot _ => .tollSnapshot
  | .powerGood _ => .powerGood
  | .packageReset _ => .packageReset
  | .powerLoss => .powerLoss
  | .deckThrottle _ _ => .deckThrottle
  | .thermalTrip _ => .thermalTrip
  | .coreCheckFailure _ _ => .coreCheckFailure
  | .admissionTableWrite _ _ => .admissionTableWrite
  | .spdmSessionEnd _ => .spdmSessionEnd
  | .dieLevelUnitFailure _ => .dieLevelUnitFailure

end Sys2Proof
end

