-- ==== Sys2Proof/WellFormed.lean ====
section
/-! DEFINITION. Well-formed instructions: the register pairs, quadruples and selector values that R18, R21, R27, R36, R44
and the sections of the instructions admit, and the unit numbers that exist for events. The decoder gives no other. -/

namespace Sys2Proof

/-- A pair field holds an even register (R18, R21). -/
def evenReg {n : Nat} (r : BitVec n) : Bool := !r.getLsbD 0

/-- A quadruple field is a multiple of 4 (R159, R167). -/
def quadReg {n : Nat} (r : BitVec n) : Bool := !r.getLsbD 0 && !r.getLsbD 1

/-- The CSR addresses that R36 assigns. -/
def assignedCsr (c : BitVec 12) : Bool :=
  [0x000, 0x400, 0x401, 0x402, 0x403, 0x404, 0x410, 0x411, 0x412, 0x418, 0x419, 0x41A, 0x800, 0x801, 0x802, 0x803, 0x813,
    0x81B, 0xC14, 0xC1C].contains c.toNat

/-- What an instruction's fields must satisfy beyond their widths (R49). A 64-bit SATOM CAS takes its two pairs from a multiple of 4 (log entry 75). -/
def Instr.wf : Instr → Bool
  | .addB32 _ _ _ => true
  | .subB32 _ _ _ => true
  | .addB64 d a b => evenReg d && evenReg a && evenReg b
  | .mulB32 _ _ _ => true
  | .mulhS32 _ _ _ => true
  | .mulhN32 _ _ _ => true
  | .macB32 _ _ _ => true
  | .minS32 _ _ _ => true
  | .maxS32 _ _ _ => true
  | .and _ _ _ => true
  | .or _ _ _ => true
  | .xor _ _ _ => true
  | .shl _ _ _ => true
  | .shrN32 _ _ _ => true
  | .shrS32 _ _ _ => true
  | .fsh _ _ _ => true
  | .bfe _ _ _ => true
  | .bfi _ _ _ => true
  | .mov _ _ => true
  | .shlImm _ _ n => decide (n ≠ 0)
  | .not _ _ => true
  | .shrN32Imm _ _ n => decide (n ≠ 0)
  | .neg _ _ => true
  | .shrS32Imm _ _ n => decide (n ≠ 0)
  | .absS32 _ _ => true
  | .popc _ _ => true
  | .clz _ _ => true
  | .brev _ _ => true
  | .movSpecial _ i => decide (i.toNat < 16)
  | .rotImm _ _ k => decide (k ≠ 0)
  | .lea d _ s => evenReg d && evenReg s
  | .leaX4 d _ s => evenReg d && evenReg s
  | .movi _ _ => true
  | .addi _ _ => true
  | .cmpi _ _ _ k => decide (k.toNat < 12)
  | .plop _ _ _ _ => true
  | .voteAny _ _ => true
  | .voteAll _ _ => true
  | .voteBallot _ _ => true
  | .voteEq _ _ => true
  | .faddF32 _ _ _ => true
  | .fsubF32 _ _ _ => true
  | .fmulF32 _ _ _ => true
  | .fmacF32 _ _ _ => true
  | .fmaF32 _ _ _ => true
  | .fmaF32Neg _ _ _ => true
  | .fminF32 _ _ _ => true
  | .fmaxF32 _ _ _ => true
  | .cmpf _ _ _ k => decide (k.toNat < 14)
  | .fabsF32 _ _ => true
  | .fnegF32 _ _ => true
  | .fclassF32 _ _ => true
  | .frndF32 _ _ r => decide (r.toNat < 5)
  | .hadd2Bf16 _ _ _ => true
  | .hmul2Bf16 _ _ _ => true
  | .hfma2Bf16 _ _ _ => true
  | .hadd2F16 _ _ _ => true
  | .hmul2F16 _ _ _ => true
  | .hfma2F16 _ _ _ => true
  | .dot4E4m3 _ _ _ => true
  | .faddF322a _ _ r _ => decide (r.toNat < 5)
  | .fsubF322a _ _ r _ => decide (r.toNat < 5)
  | .fmulF322a _ _ r _ => decide (r.toNat < 5)
  | .hadd2Bf162a _ _ r _ => decide (r.toNat < 5)
  | .hmul2Bf162a _ _ r _ => decide (r.toNat < 5)
  | .hadd2F162a _ _ r _ => decide (r.toNat < 5)
  | .hmul2F162a _ _ r _ => decide (r.toNat < 5)
  | .cvtEncF16 _ _ r => decide (r.toNat < 6)
  | .cvtEncBf16 _ _ r => decide (r.toNat < 6)
  | .cvtEncE4m3 _ _ r => decide (r.toNat < 6)
  | .cvtEncE5m2 _ _ r => decide (r.toNat < 6)
  | .cvtEncS32 _ _ r => decide (r.toNat < 6)
  | .cvtEncN32 _ _ r => decide (r.toNat < 6)
  | .cvtDecF16 _ _ => true
  | .cvtDecBf16 _ _ => true
  | .cvtDecE4m3 _ _ => true
  | .cvtDecE5m2 _ _ => true
  | .cvtDecS32 _ _ r => decide (r.toNat < 6)
  | .cvtDecN32 _ _ r => decide (r.toNat < 6)
  | .cvtPkBf16 _ _ r => decide (r.toNat < 6)
  | .cvtPkF16 _ _ r => decide (r.toNat < 6)
  | .cvtPk2E4m3 _ _ r => decide (r.toNat < 6)
  | .cvtPk2E5m2 _ _ r => decide (r.toNat < 6)
  | .cvtBlkPk _ a _ => evenReg a
  | .cvtBlkEnc _ a _ => evenReg a
  | .cvtBlkDec _ a _ => evenReg a
  | .bscale _ _ => true
  | .bscaleKeepx _ _ => true
  | .rcp _ _ => true
  | .rsq _ _ => true
  | .sqrt _ _ => true
  | .exp2 _ _ => true
  | .log2 _ _ => true
  | .sin _ _ => true
  | .cos _ _ => true
  | .sincos d _ => evenReg d
  | .tanh _ _ => true
  | .qxchPair _ _ => true
  | .qxchHalf _ _ => true
  | .qxchDiag _ _ => true
  | .qxchBc _ _ _ => true
  | .qred _ _ _ => true
  | .shflUp _ _ _ => true
  | .shflDown _ _ _ => true
  | .shflXor _ _ _ => true
  | .perm _ _ _ => true
  | .topkMax d _ _ => evenReg d
  | .topkMin d _ _ => evenReg d
  | .vx _ _ _ => true
  | .vxw _ _ _ => true
  | .ldB32 _ _ _ => true
  | .ldB64 d _ _ => evenReg d
  | .stB32 _ _ _ => true
  | .stB64 d _ _ => evenReg d
  | .ldsB32 _ _ _ => true
  | .ldsB64 d _ _ => evenReg d
  | .stsB32 _ _ _ => true
  | .stsB64 d _ _ => evenReg d
  | .ldB128 d _ _ => quadReg d
  | .ldsB128 d _ _ => quadReg d
  | .stB128 d _ _ => quadReg d
  | .stsB128 d _ _ => quadReg d
  | .ldN8 _ _ _ => true
  | .ldS8 _ _ _ => true
  | .ldN16 _ _ _ => true
  | .ldS16 _ _ _ => true
  | .stB8 _ _ _ => true
  | .stB16 _ _ _ => true
  | .ldsN8 _ _ _ => true
  | .ldsN16 _ _ _ => true
  | .stsB8 _ _ _ => true
  | .stsB16 _ _ _ => true
  | .ldyB32 _ _ _ => true
  | .pref _ _ _ => true
  | .ldkv d _ _ => evenReg d
  | .ldkvTrap d _ _ => evenReg d
  | .dldB32 _ _ _ => true
  | .dstB32 _ _ _ => true
  | .accrd _ _ _ _ r => decide (r.toNat < 5)
  | .accwr _ _ _ => true
  | .atom d a o _ w => evenReg a && decide (o.toNat < 10) && (o != 9#4 || w == 0#1) && (w == 0#1 || evenReg d)
  | .cas d a _ w => evenReg a && (if w = 0#1 then evenReg d else quadReg d)
  | .atomPub d a o _ w => evenReg a && decide (o.toNat < 10) && (o != 9#4 || w == 0#1) && (w == 0#1 || evenReg d)
  | .casPub d a _ w => evenReg a && (if w = 0#1 then evenReg d else quadReg d)
  | .red d a o _ w => evenReg a && decide (o.toNat < 10) && o != 8#4 && (o != 9#4 || w == 0#1) && (w == 0#1 || evenReg d)
  | .ldSub d a _ w => evenReg a && (w == 0#1 || evenReg d)
  | .minN32 _ _ => true
  | .maxN32 _ _ => true
  | .rot _ _ => true
  | .rotr _ _ => true
  | .addS32Sat _ _ => true
  | .subS32Sat _ _ => true
  | .sel _ _ _ => true
  | .selNot _ _ _ => true
  | .sadd _ _ _ => true
  | .ssub _ _ _ => true
  | .sand _ _ _ => true
  | .sor _ _ _ => true
  | .sxor _ _ _ => true
  | .sshl _ _ _ => true
  | .sshrN32 _ _ _ => true
  | .sshrS32 _ _ _ => true
  | .smul _ _ _ => true
  | .smulhS32 _ _ _ => true
  | .smulhN32 _ _ _ => true
  | .sminS32 _ _ _ => true
  | .smaxS32 _ _ _ => true
  | .sminN32 _ _ _ => true
  | .smaxN32 _ _ _ => true
  | .srot _ _ _ => true
  | .saddB64 d a b => evenReg d && evenReg a && evenReg b
  | .ssubB64 d a b => evenReg d && evenReg a && evenReg b
  | .sandB64 d a b => evenReg d && evenReg a && evenReg b
  | .sorB64 d a b => evenReg d && evenReg a && evenReg b
  | .sxorB64 d a b => evenReg d && evenReg a && evenReg b
  | .sshlB64 d a b => evenReg d && evenReg a && evenReg b
  | .sshrN64 d a b => evenReg d && evenReg a && evenReg b
  | .sshrS64 d a b => evenReg d && evenReg a && evenReg b
  | .smov _ _ => true
  | .snot _ _ => true
  | .spopc _ _ => true
  | .sclz _ _ => true
  | .sbrev _ _ => true
  | .sbfeN32 _ _ _ => true
  | .sbfeS32 _ _ _ => true
  | .sbfi _ _ _ => true
  | .sset _ _ _ _ => true
  | .ssel _ _ _ _ => true
  | .saddi _ _ => true
  | .smovi _ _ => true
  | .slit _ _ => true
  | .slitAdd _ _ => true
  | .slitAnd _ _ => true
  | .slitOr _ _ => true
  | .slitXor _ _ => true
  | .sreg _ i => decide (i.toNat < 16) && decide (i ≠ 0x00#6) && decide (i ≠ 0x01#6) && decide (i ≠ 0x0C#6)
  | .sandi _ _ => true
  | .sori _ _ => true
  | .sxori _ _ => true
  | .qlop _ _ _ _ => true
  | .bra _ => true
  | .call _ => true
  | .jmp a => evenReg a
  | .jmpCall a => evenReg a
  | .jmpT _ _ => true
  | .jmpF _ _ => true
  | .conv _ => true
  | .loop _ _ => true
  | .spawnL a _ _ => evenReg a
  | .spawnG a b => evenReg a && evenReg b
  | .spawnB a b => evenReg a && evenReg b
  | .barArrive _ _ _ => true
  | .barWait _ _ => true
  | .barSync _ _ => true
  | .barArriveClu _ _ _ => true
  | .barWaitClu _ _ => true
  | .barSyncClu _ _ => true
  | .waitge a b => evenReg a && evenReg b
  | .waitgeSys a b => evenReg a && evenReg b
  | .sld d a _ k => (!k.getLsbD 0 || evenReg d) && (k.getLsbD 2 || evenReg a)
  | .sst d a _ k => (!k.getLsbD 0 || evenReg d) && (k.getLsbD 2 || evenReg a)
  | .satom o a b p w => decide (o.toNat < 11) && (o != 9#4 || w == 0#1) && (!p.getLsbD 1 || evenReg a) && (if o = 10#4 then (if w = 0#1 then evenReg b else quadReg b) else (w == 0#1 || evenReg b))
  | .satomPub o a b p w => decide (o.toNat < 11) && (o != 9#4 || w == 0#1) && (!p.getLsbD 1 || evenReg a) && (if o = 10#4 then (if w = 0#1 then evenReg b else quadReg b) else (w == 0#1 || evenReg b))
  | .chain _ a => evenReg a
  | .mcmd a => evenReg a
  | .attn a => evenReg a
  | .unmask a => evenReg a
  | .coll a => evenReg a
  | .ship a => evenReg a
  | .replay a b => evenReg a && evenReg b
  | .csrr d c => evenReg d && assignedCsr c
  | .csrw d c => evenReg d && assignedCsr c
  | .trap _ r => decide (r.toNat < 5)
  | .asgen _ _ => true
  | .tlbiAsid _ => true
  | .tlbiPage a _ => evenReg a
  | .ctxsvStop a _ => evenReg a
  | .ctxsvPart _ k => decide (k.toNat < 6)
  | .ctxldPlace a _ => evenReg a
  | .ctxldPart _ k => decide (k.toNat < 6)
  | .ret => true
  | .convAll => true
  | .exit => true
  | .frameOpen => true
  | .await => true
  | .yield => true
  | .nop => true
  | .eret => true
  | .brk => true
  | .tlbiAll => true
  | .ctxsvRelease => true
  | .ctxldResume => true
  | .unassignedWord => true
  | .varResultWriteback => true
  | .storeRejection => true
  | .fetchFault => true
  | .endEvent => true
  | .groupEnd => true
  | .childPlace => true
  | .continuationResume => true
  | .pendingAgingExchange => true
  | .ldyBackoffExpiry => true
  | .loadLimitWindow => true
  | .homeSliceAccess => true
  | .homeSliceAtomic => true
  | .ownershipNotice => true
  | .ownershipClaim => true
  | .asgenInForce => true
  | .tlbiComplete => true
  | .bridgeAccess => true
  | .linkFlitFailure => true
  | .engineCompletion => true
  | .mcmdStart => true
  | .kblockApply => true
  | .bargeRecordTake => true
  | .bargeDataLand => true
  | .slipfillRoom => true
  | .bargeWriteback => true
  | .attnSweepStart => true
  | .attnTile => true
  | .unmaskRound => true
  | .collEnd => true
  | .collMemberLost => true
  | .helmManifestSend => true
  | .manifestCheck => true
  | .manifestAnswer => true
  | .manifestGridEnd => true
  | .replayStart => true
  | .graphNodeLaunch => true
  | .graphInstanceEnd => true
  | .launchTake => true
  | .launchFrameReserve => true
  | .launchEnd => true
  | .blockPlace => true
  | .gangPlace => true
  | .distributorPreemptRequest => true
  | .preempt => true
  | .preemptBackoffExpiry => true
  | .enginePreemptStop => true
  | .saveEngineSave => true
  | .saveEngineRestore => true
  | .trapDelivery => true
  | .handlerTimeout => true
  | .allstopArrival => true
  | .stopRecordWrite => true
  | .allstopDelivery => true
  | .dbgctlHalt => true
  | .dbgcmdRead => true
  | .dbgcmdWrite => true
  | .dbgcmdResume => true
  | .dbgcmdStep => true
  | .dbgcmdInvalid => true
  | .hostAccess => true
  | .hostAtomicop => true
  | .cxlUnsupportedRequest => true
  | .bisnpReceived => true
  | .hostSnoop => true
  | .linkLoss => true
  | .surpriseRemoval => true
  | .viralIndication => true
  | .extentGrant => true
  | .extentRelease => true
  | .expanderRequest => true
  | .stationRequest => true
  | .spdmSessionSetup => true
  | .berthAccess => true
  | .revocationNotice => true
  | .drainWindowClose => true
  | .leaseRevoke => true
  | .lenderServiceEnd => true
  | .mgmtRegWrite => true
  | .ctxbindBind => true
  | .ctxbindDestroy => true
  | .hstateStep => true
  | .hypidWrite => true
  | .worldLatch => true
  | .pcapWrite => true
  | .mooringWrite => true
  | .fwinWrite => true
  | .asidmapWrite => true
  | .getMeasurementsCurrent => true
  | .getMeasurementsFinal => true
  | .tollSnapshot => true
  | .powerGood => true
  | .packageReset => true
  | .powerLoss => true
  | .deckThrottle => true
  | .thermalTrip => true
  | .coreCheckFailure => true
  | .admissionTableWrite => true
  | .spdmSessionEnd => true
  | .dieLevelUnitFailure => true

/-- The units an event names exist on some fitting, or in the space of the management blocks (R2, R6, R309, R314, R348, R355, R362). -/
def Ev.wf : Ev → Bool
  | .unassignedWord _ => true
  | .varResultWriteback _ _ => true
  | .storeRejection _ _ => true
  | .fetchFault _ _ => true
  | .endEvent _ l => decide (l < 32)
  | .groupEnd _ => true
  | .childPlace _ core => decide (core < 192)
  | .continuationResume _ core => decide (core < 192)
  | .pendingAgingExchange _ => true
  | .ldyBackoffExpiry _ => true
  | .loadLimitWindow die core => decide (die < 12) && decide (core < 192)
  | .homeSliceAccess _ => true
  | .farRefusal die _ _ => decide (die < 12)
  | .writeBackRefused _ => true
  | .homeSliceAtomic _ => true
  | .ownershipNotice _ => true
  | .ownershipClaim die ctx _ => decide (die < 12) && decide (ctx < 64)
  | .asgenInForce _ => true
  | .tlbiComplete _ => true
  | .bridgeAccess _ _ => true
  | .linkFlitFailure _ _ _ => true
  | .stationFlitFailure die _ _ _ => decide (die < 12)
  | .berthTagFailure die _ => decide (die < 12)
  | .engineCompletion _ => true
  | .mcmdStart die core => decide (die < 12) && decide (core < 192)
  | .kblockApply die core => decide (die < 12) && decide (core < 192)
  | .bargeRecordTake die core ch => decide (die < 12) && decide (core < 192) && decide (ch < 2)
  | .bargeDataLand die core ch _ => decide (die < 12) && decide (core < 192) && decide (ch < 2)
  | .slipfillRoom die core ch => decide (die < 12) && decide (core < 192) && decide (ch < 2)
  | .bargeWriteback die core ch => decide (die < 12) && decide (core < 192) && decide (ch < 2)
  | .attnSweepStart _ => true
  | .attnTile _ => true
  | .unmaskRound die => decide (die < 12)
  | .collEnd _ _ _ => true
  | .collMemberLost _ lost _ _ => decide (lost < 1024)
  | .helmManifestSend die => decide (die < 12)
  | .manifestCheck die _ _ _ _ => decide (die < 12)
  | .manifestAnswer _ _ => true
  | .manifestGridEnd _ => true
  | .replayStart _ => true
  | .graphNodeLaunch _ node => decide (node < 256)
  | .graphInstanceEnd _ => true
  | .launchTake die ctx line => decide (die < 12) && decide (ctx < 64) && decide (line < 8)
  | .launchFrameReserve _ => true
  | .launchEnd _ => true
  | .blockPlace die _ => decide (die < 12)
  | .gangPlace _ _ => true
  | .distributorPreemptRequest die => decide (die < 12)
  | .preempt die ctx _ => decide (die < 12) && decide (ctx < 64)
  | .preemptBackoffExpiry die ctx => decide (die < 12) && decide (ctx < 64)
  | .enginePreemptStop die ctx _ => decide (die < 12) && decide (ctx < 64)
  | .saveEngineSave die ctx => decide (die < 12) && decide (ctx < 64)
  | .saveEngineRestore die ctx _ => decide (die < 12) && decide (ctx < 64)
  | .trapDelivery _ => true
  | .handlerTimeout _ => true
  | .allstopArrival die ctx => decide (die < 12) && decide (ctx < 64)
  | .stopRecordWrite die ctx _ _ => decide (die < 12) && decide (ctx < 64)
  | .allstopDelivery die ctx => decide (die < 12) && decide (ctx < 64)
  | .dbgctlHalt die ctx _ => decide (die < 12) && decide (ctx < 64)
  | .dbgcmdRead die ctx _ => decide (die < 12) && decide (ctx < 64)
  | .dbgcmdWrite die ctx _ => decide (die < 12) && decide (ctx < 64)
  | .dbgcmdResume die ctx _ => decide (die < 12) && decide (ctx < 64)
  | .dbgcmdStep die ctx _ => decide (die < 12) && decide (ctx < 64)
  | .dbgcmdInvalid die ctx cmd _ => decide (die < 12) && decide (ctx < 64) && decide (cmd < 8)
  | .hostAccess _ _ _ => true
  | .hostAtomicop _ _ _ _ _ => true
  | .cxlUnsupportedRequest port _ => decide (port < 4)
  | .bisnpReceived die _ => decide (die < 12)
  | .hostSnoop die _ => decide (die < 12)
  | .linkLoss die => decide (die < 12)
  | .surpriseRemoval die => decide (die < 12)
  | .viralIndication die => decide (die < 12)
  | .extentGrant die ext tenant _ _ => decide (die < 12) && decide (ext < 1152) && decide (tenant < 255)
  | .extentRelease die ext => decide (die < 12) && decide (ext < 1152)
  | .expanderRequest die pbr _ _ _ => decide (die < 12) && decide (pbr < 4096)
  | .expanderAtomic die pbr _ _ _ _ _ => decide (die < 12) && decide (pbr < 4096)
  | .stationRequest die stn pkg sdie _ _ _ => decide (die < 12) && decide (stn < 4) && decide (pkg < 1024) && decide (sdie < 12)
  | .stationAtomic die stn pkg sdie _ _ _ _ _ => decide (die < 12) && decide (stn < 4) && decide (pkg < 1024) && decide (sdie < 12)
  | .spdmSessionSetup _ => true
  | .berthAccess _ => true
  | .revocationNotice die berth => decide (die < 12) && decide (berth < 256)
  | .drainWindowClose die berth => decide (die < 12) && decide (berth < 256)
  | .leaseRevoke die _ => decide (die < 12)
  | .lenderServiceEnd die _ _ => decide (die < 12)
  | .mgmtRegWrite die _ _ _ => decide (die < 16)
  | .mgmtRegAccess die off n _ _ => decide (die < 16) && decide (off < 0x1000000) && decide (1 ≤ n) && decide (n ≤ 8)
  | .ctxbindBind die _ _ => decide (die < 12)
  | .ctxbindDestroy die _ _ => decide (die < 12)
  | .hstateStep die _ => decide (die < 12)
  | .hypidWrite die _ _ => decide (die < 12)
  | .worldLatch die _ _ => decide (die < 12)
  | .pcapWrite die _ _ => decide (die < 12)
  | .mooringWrite die _ _ _ => decide (die < 12)
  | .fwinWrite die _ _ _ => decide (die < 12)
  | .asidmapWrite die asid _ _ => decide (die < 12) && decide (asid < 4096)
  | .getMeasurementsCurrent die _ => decide (die < 12)
  | .getMeasurementsFinal die _ => decide (die < 12)
  | .tollSnapshot die => decide (die < 12)
  | .powerGood _ => true
  | .packageReset _ => true
  | .powerLoss => true
  | .deckThrottle die step => decide (die < 12) && decide (step < 17)
  | .thermalTrip _ => true
  | .coreCheckFailure die core => decide (die < 12) && decide (core < 192)
  | .admissionTableWrite die _ => decide (die < 12)
  | .spdmSessionEnd _ => true
  | .dieLevelUnitFailure die => decide (die < 12)

end Sys2Proof
end

