-- ==== Sys2Proof/Decode.lean ====
section
/-! DEFINITION. Decoding instruction words (R39-R50) and the encoder written from the same tables. -/

namespace Sys2Proof

/-- The fields of an instruction word (R39). -/
structure Fields where
  set : Bool
  m : Bool
  major : BitVec 6
  g : BitVec 3
  body : BitVec 21
deriving DecidableEq, Repr

/-- The fields of a word. -/
def unpack (w : Word) : Fields :=
  { set := w.getLsbD 31, m := w.getLsbD 30, major := w.extractLsb' 24 6, g := w.extractLsb' 21 3, body := w.extractLsb' 0 21 }

/-- The word of the fields. -/
def pack (f : Fields) : Word := BitVec.ofBool f.set ++ BitVec.ofBool f.m ++ f.major ++ f.g ++ f.body

/-- Why bytes are not an instruction (R49). -/
inductive DecodeErr
  /-- Fewer bytes than the instruction has. -/
  | short
  /-- The major opcode is unassigned (R46, R47). -/
  | unassignedMajor
  /-- No row of the major has this sub-selector with zero reserved fields (R44, R48). -/
  | unassignedSelector
  /-- A register or selector field holds a value the instruction does not admit (R18, R21, R27, R36). -/
  | badField
deriving DecidableEq, Repr

/-- Lane major 0x00. -/
def decL00 (b : BitVec 21) : Option Instr :=
  some (.addB32 (b.extractLsb' 14 7) (b.extractLsb' 7 7) (b.extractLsb' 0 7))

/-- Lane major 0x01. -/
def decL01 (b : BitVec 21) : Option Instr :=
  some (.subB32 (b.extractLsb' 14 7) (b.extractLsb' 7 7) (b.extractLsb' 0 7))

/-- Lane major 0x02. -/
def decL02 (b : BitVec 21) : Option Instr :=
  some (.addB64 (b.extractLsb' 14 7) (b.extractLsb' 7 7) (b.extractLsb' 0 7))

/-- Lane major 0x03. -/
def decL03 (b : BitVec 21) : Option Instr :=
  some (.mulB32 (b.extractLsb' 14 7) (b.extractLsb' 7 7) (b.extractLsb' 0 7))

/-- Lane major 0x04. -/
def decL04 (b : BitVec 21) : Option Instr :=
  some (.mulhS32 (b.extractLsb' 14 7) (b.extractLsb' 7 7) (b.extractLsb' 0 7))

/-- Lane major 0x05. -/
def decL05 (b : BitVec 21) : Option Instr :=
  some (.mulhN32 (b.extractLsb' 14 7) (b.extractLsb' 7 7) (b.extractLsb' 0 7))

/-- Lane major 0x06. -/
def decL06 (b : BitVec 21) : Option Instr :=
  some (.macB32 (b.extractLsb' 14 7) (b.extractLsb' 7 7) (b.extractLsb' 0 7))

/-- Lane major 0x07. -/
def decL07 (b : BitVec 21) : Option Instr :=
  some (.minS32 (b.extractLsb' 14 7) (b.extractLsb' 7 7) (b.extractLsb' 0 7))

/-- Lane major 0x08. -/
def decL08 (b : BitVec 21) : Option Instr :=
  some (.maxS32 (b.extractLsb' 14 7) (b.extractLsb' 7 7) (b.extractLsb' 0 7))

/-- Lane major 0x09. -/
def decL09 (b : BitVec 21) : Option Instr :=
  some (.and (b.extractLsb' 14 7) (b.extractLsb' 7 7) (b.extractLsb' 0 7))

/-- Lane major 0x0A. -/
def decL0A (b : BitVec 21) : Option Instr :=
  some (.or (b.extractLsb' 14 7) (b.extractLsb' 7 7) (b.extractLsb' 0 7))

/-- Lane major 0x0B. -/
def decL0B (b : BitVec 21) : Option Instr :=
  some (.xor (b.extractLsb' 14 7) (b.extractLsb' 7 7) (b.extractLsb' 0 7))

/-- Lane major 0x0C. -/
def decL0C (b : BitVec 21) : Option Instr :=
  some (.shl (b.extractLsb' 14 7) (b.extractLsb' 7 7) (b.extractLsb' 0 7))

/-- Lane major 0x0D. -/
def decL0D (b : BitVec 21) : Option Instr :=
  some (.shrN32 (b.extractLsb' 14 7) (b.extractLsb' 7 7) (b.extractLsb' 0 7))

/-- Lane major 0x0E. -/
def decL0E (b : BitVec 21) : Option Instr :=
  some (.shrS32 (b.extractLsb' 14 7) (b.extractLsb' 7 7) (b.extractLsb' 0 7))

/-- Lane major 0x0F. -/
def decL0F (b : BitVec 21) : Option Instr :=
  some (.fsh (b.extractLsb' 14 7) (b.extractLsb' 7 7) (b.extractLsb' 0 7))

/-- Lane major 0x10. -/
def decL10 (b : BitVec 21) : Option Instr :=
  some (.bfe (b.extractLsb' 14 7) (b.extractLsb' 7 7) (b.extractLsb' 0 7))

/-- Lane major 0x11. -/
def decL11 (b : BitVec 21) : Option Instr :=
  some (.bfi (b.extractLsb' 14 7) (b.extractLsb' 7 7) (b.extractLsb' 0 7))

/-- Lane major 0x12. -/
def decL12 (b : BitVec 21) : Option Instr :=
  if b.extractLsb' 13 1 = 0x0#1 ∧ b.extractLsb' 0 7 = 0x64#7 then some (.movSpecial (b.extractLsb' 14 7) (b.extractLsb' 7 6))
  else if b.extractLsb' 0 7 = 0x0#7 then some (.mov (b.extractLsb' 14 7) (b.extractLsb' 7 7))
  else if b.extractLsb' 0 7 = 0x20#7 then some (.not (b.extractLsb' 14 7) (b.extractLsb' 7 7))
  else if b.extractLsb' 0 7 = 0x40#7 then some (.neg (b.extractLsb' 14 7) (b.extractLsb' 7 7))
  else if b.extractLsb' 0 7 = 0x60#7 then some (.absS32 (b.extractLsb' 14 7) (b.extractLsb' 7 7))
  else if b.extractLsb' 0 7 = 0x61#7 then some (.popc (b.extractLsb' 14 7) (b.extractLsb' 7 7))
  else if b.extractLsb' 0 7 = 0x62#7 then some (.clz (b.extractLsb' 14 7) (b.extractLsb' 7 7))
  else if b.extractLsb' 0 7 = 0x63#7 then some (.brev (b.extractLsb' 14 7) (b.extractLsb' 7 7))
  else if b.extractLsb' 2 5 = 0x19#5 then some (.rotImm (b.extractLsb' 14 7) (b.extractLsb' 7 7) (b.extractLsb' 0 2))
  else if b.extractLsb' 5 2 = 0x0#2 then some (.shlImm (b.extractLsb' 14 7) (b.extractLsb' 7 7) (b.extractLsb' 0 5))
  else if b.extractLsb' 5 2 = 0x1#2 then some (.shrN32Imm (b.extractLsb' 14 7) (b.extractLsb' 7 7) (b.extractLsb' 0 5))
  else if b.extractLsb' 5 2 = 0x2#2 then some (.shrS32Imm (b.extractLsb' 14 7) (b.extractLsb' 7 7) (b.extractLsb' 0 5))
  else none

/-- Lane major 0x13. -/
def decL13 (b : BitVec 21) : Option Instr :=
  if b.extractLsb' 6 1 = 0x0#1 then some (.lea (b.extractLsb' 14 7) (b.extractLsb' 7 7) (b.extractLsb' 0 6))
  else if b.extractLsb' 6 1 = 0x1#1 then some (.leaX4 (b.extractLsb' 14 7) (b.extractLsb' 7 7) (b.extractLsb' 0 6))
  else none

/-- Lane major 0x14. -/
def decL14 (b : BitVec 21) : Option Instr :=
  some (.movi (b.extractLsb' 14 7) (b.extractLsb' 0 14))

/-- Lane major 0x15. -/
def decL15 (b : BitVec 21) : Option Instr :=
  some (.addi (b.extractLsb' 14 7) (b.extractLsb' 0 14))

/-- Lane major 0x16. -/
def decL16 (b : BitVec 21) : Option Instr :=
  some (.cmpi (b.extractLsb' 18 3) (b.extractLsb' 11 7) (b.extractLsb' 4 7) (b.extractLsb' 0 4))

/-- Lane major 0x17. -/
def decL17 (b : BitVec 21) : Option Instr :=
  if b.extractLsb' 0 15 = 0x400#15 then some (.voteAny (b.extractLsb' 18 3) (b.extractLsb' 15 3))
  else if b.extractLsb' 0 15 = 0x440#15 then some (.voteAll (b.extractLsb' 18 3) (b.extractLsb' 15 3))
  else if b.extractLsb' 0 15 = 0x4C0#15 then some (.voteEq (b.extractLsb' 18 3) (b.extractLsb' 15 3))
  else if b.extractLsb' 18 3 = 0x0#3 ∧ b.extractLsb' 6 9 = 0x12#9 then some (.voteBallot (b.extractLsb' 15 3) (b.extractLsb' 0 6))
  else if b.extractLsb' 10 2 = 0x0#2 ∧ b.extractLsb' 0 6 = 0x0#6 then some (.plop (b.extractLsb' 18 3) (b.extractLsb' 15 3) (b.extractLsb' 12 3) (b.extractLsb' 6 4))
  else none

/-- Lane major 0x18. -/
def decL18 (b : BitVec 21) : Option Instr :=
  some (.faddF32 (b.extractLsb' 14 7) (b.extractLsb' 7 7) (b.extractLsb' 0 7))

/-- Lane major 0x19. -/
def decL19 (b : BitVec 21) : Option Instr :=
  some (.fsubF32 (b.extractLsb' 14 7) (b.extractLsb' 7 7) (b.extractLsb' 0 7))

/-- Lane major 0x1A. -/
def decL1A (b : BitVec 21) : Option Instr :=
  some (.fmulF32 (b.extractLsb' 14 7) (b.extractLsb' 7 7) (b.extractLsb' 0 7))

/-- Lane major 0x1B. -/
def decL1B (b : BitVec 21) : Option Instr :=
  some (.fmacF32 (b.extractLsb' 14 7) (b.extractLsb' 7 7) (b.extractLsb' 0 7))

/-- Lane major 0x1C. -/
def decL1C (b : BitVec 21) : Option Instr :=
  if b.extractLsb' 6 1 = 0x0#1 then some (.fmaF32 (b.extractLsb' 14 7) (b.extractLsb' 7 7) (b.extractLsb' 0 6))
  else if b.extractLsb' 6 1 = 0x1#1 then some (.fmaF32Neg (b.extractLsb' 14 7) (b.extractLsb' 7 7) (b.extractLsb' 0 6))
  else none

/-- Lane major 0x1D. -/
def decL1D (b : BitVec 21) : Option Instr :=
  some (.fminF32 (b.extractLsb' 14 7) (b.extractLsb' 7 7) (b.extractLsb' 0 7))

/-- Lane major 0x1E. -/
def decL1E (b : BitVec 21) : Option Instr :=
  some (.fmaxF32 (b.extractLsb' 14 7) (b.extractLsb' 7 7) (b.extractLsb' 0 7))

/-- Lane major 0x1F. -/
def decL1F (b : BitVec 21) : Option Instr :=
  some (.cmpf (b.extractLsb' 18 3) (b.extractLsb' 11 7) (b.extractLsb' 4 7) (b.extractLsb' 0 4))

/-- Lane major 0x20. -/
def decL20 (b : BitVec 21) : Option Instr :=
  if b.extractLsb' 0 7 = 0x0#7 then some (.fabsF32 (b.extractLsb' 14 7) (b.extractLsb' 7 7))
  else if b.extractLsb' 0 7 = 0x1#7 then some (.fnegF32 (b.extractLsb' 14 7) (b.extractLsb' 7 7))
  else if b.extractLsb' 0 7 = 0x2#7 then some (.fclassF32 (b.extractLsb' 14 7) (b.extractLsb' 7 7))
  else if b.extractLsb' 3 4 = 0x1#4 then some (.frndF32 (b.extractLsb' 14 7) (b.extractLsb' 7 7) (b.extractLsb' 0 3))
  else none

/-- Lane major 0x21. -/
def decL21 (b : BitVec 21) : Option Instr :=
  some (.hadd2Bf16 (b.extractLsb' 14 7) (b.extractLsb' 7 7) (b.extractLsb' 0 7))

/-- Lane major 0x22. -/
def decL22 (b : BitVec 21) : Option Instr :=
  some (.hmul2Bf16 (b.extractLsb' 14 7) (b.extractLsb' 7 7) (b.extractLsb' 0 7))

/-- Lane major 0x23. -/
def decL23 (b : BitVec 21) : Option Instr :=
  some (.hfma2Bf16 (b.extractLsb' 14 7) (b.extractLsb' 7 7) (b.extractLsb' 0 7))

/-- Lane major 0x24. -/
def decL24 (b : BitVec 21) : Option Instr :=
  some (.hadd2F16 (b.extractLsb' 14 7) (b.extractLsb' 7 7) (b.extractLsb' 0 7))

/-- Lane major 0x25. -/
def decL25 (b : BitVec 21) : Option Instr :=
  some (.hmul2F16 (b.extractLsb' 14 7) (b.extractLsb' 7 7) (b.extractLsb' 0 7))

/-- Lane major 0x26. -/
def decL26 (b : BitVec 21) : Option Instr :=
  some (.hfma2F16 (b.extractLsb' 14 7) (b.extractLsb' 7 7) (b.extractLsb' 0 7))

/-- Lane major 0x27. -/
def decL27 (b : BitVec 21) : Option Instr :=
  some (.dot4E4m3 (b.extractLsb' 14 7) (b.extractLsb' 7 7) (b.extractLsb' 0 7))

/-- Lane major 0x28. -/
def decL28 (b : BitVec 21) : Option Instr :=
  if b.extractLsb' 4 3 = 0x0#3 then some (.faddF322a (b.extractLsb' 14 7) (b.extractLsb' 7 7) (b.extractLsb' 1 3) (b.extractLsb' 0 1))
  else if b.extractLsb' 4 3 = 0x1#3 then some (.fsubF322a (b.extractLsb' 14 7) (b.extractLsb' 7 7) (b.extractLsb' 1 3) (b.extractLsb' 0 1))
  else if b.extractLsb' 4 3 = 0x2#3 then some (.fmulF322a (b.extractLsb' 14 7) (b.extractLsb' 7 7) (b.extractLsb' 1 3) (b.extractLsb' 0 1))
  else if b.extractLsb' 4 3 = 0x3#3 then some (.hadd2Bf162a (b.extractLsb' 14 7) (b.extractLsb' 7 7) (b.extractLsb' 1 3) (b.extractLsb' 0 1))
  else if b.extractLsb' 4 3 = 0x4#3 then some (.hmul2Bf162a (b.extractLsb' 14 7) (b.extractLsb' 7 7) (b.extractLsb' 1 3) (b.extractLsb' 0 1))
  else if b.extractLsb' 4 3 = 0x5#3 then some (.hadd2F162a (b.extractLsb' 14 7) (b.extractLsb' 7 7) (b.extractLsb' 1 3) (b.extractLsb' 0 1))
  else if b.extractLsb' 4 3 = 0x6#3 then some (.hmul2F162a (b.extractLsb' 14 7) (b.extractLsb' 7 7) (b.extractLsb' 1 3) (b.extractLsb' 0 1))
  else none

/-- Lane major 0x2C. -/
def decL2C (b : BitVec 21) : Option Instr :=
  if b.extractLsb' 0 7 = 0x30#7 then some (.cvtDecF16 (b.extractLsb' 14 7) (b.extractLsb' 7 7))
  else if b.extractLsb' 0 7 = 0x38#7 then some (.cvtDecBf16 (b.extractLsb' 14 7) (b.extractLsb' 7 7))
  else if b.extractLsb' 0 7 = 0x40#7 then some (.cvtDecE4m3 (b.extractLsb' 14 7) (b.extractLsb' 7 7))
  else if b.extractLsb' 0 7 = 0x48#7 then some (.cvtDecE5m2 (b.extractLsb' 14 7) (b.extractLsb' 7 7))
  else if b.extractLsb' 3 4 = 0x0#4 then some (.cvtEncF16 (b.extractLsb' 14 7) (b.extractLsb' 7 7) (b.extractLsb' 0 3))
  else if b.extractLsb' 3 4 = 0x1#4 then some (.cvtEncBf16 (b.extractLsb' 14 7) (b.extractLsb' 7 7) (b.extractLsb' 0 3))
  else if b.extractLsb' 3 4 = 0x2#4 then some (.cvtEncE4m3 (b.extractLsb' 14 7) (b.extractLsb' 7 7) (b.extractLsb' 0 3))
  else if b.extractLsb' 3 4 = 0x3#4 then some (.cvtEncE5m2 (b.extractLsb' 14 7) (b.extractLsb' 7 7) (b.extractLsb' 0 3))
  else if b.extractLsb' 3 4 = 0x4#4 then some (.cvtEncS32 (b.extractLsb' 14 7) (b.extractLsb' 7 7) (b.extractLsb' 0 3))
  else if b.extractLsb' 3 4 = 0x5#4 then some (.cvtEncN32 (b.extractLsb' 14 7) (b.extractLsb' 7 7) (b.extractLsb' 0 3))
  else if b.extractLsb' 3 4 = 0xA#4 then some (.cvtDecS32 (b.extractLsb' 14 7) (b.extractLsb' 7 7) (b.extractLsb' 0 3))
  else if b.extractLsb' 3 4 = 0xB#4 then some (.cvtDecN32 (b.extractLsb' 14 7) (b.extractLsb' 7 7) (b.extractLsb' 0 3))
  else if b.extractLsb' 3 4 = 0xC#4 then some (.cvtPkBf16 (b.extractLsb' 14 7) (b.extractLsb' 7 7) (b.extractLsb' 0 3))
  else if b.extractLsb' 3 4 = 0xD#4 then some (.cvtPkF16 (b.extractLsb' 14 7) (b.extractLsb' 7 7) (b.extractLsb' 0 3))
  else if b.extractLsb' 3 4 = 0xE#4 then some (.cvtPk2E4m3 (b.extractLsb' 14 7) (b.extractLsb' 7 7) (b.extractLsb' 0 3))
  else if b.extractLsb' 3 4 = 0xF#4 then some (.cvtPk2E5m2 (b.extractLsb' 14 7) (b.extractLsb' 7 7) (b.extractLsb' 0 3))
  else none

/-- Lane major 0x2D. -/
def decL2D (b : BitVec 21) : Option Instr :=
  if b.extractLsb' 0 7 = 0x10#7 then some (.bscale (b.extractLsb' 14 7) (b.extractLsb' 7 7))
  else if b.extractLsb' 0 7 = 0x11#7 then some (.bscaleKeepx (b.extractLsb' 14 7) (b.extractLsb' 7 7))
  else if b.extractLsb' 1 6 = 0x0#6 then some (.cvtBlkPk (b.extractLsb' 14 7) (b.extractLsb' 7 7) (b.extractLsb' 0 1))
  else if b.extractLsb' 1 6 = 0x1#6 then some (.cvtBlkEnc (b.extractLsb' 14 7) (b.extractLsb' 7 7) (b.extractLsb' 0 1))
  else if b.extractLsb' 2 5 = 0x2#5 then some (.cvtBlkDec (b.extractLsb' 14 7) (b.extractLsb' 7 7) (b.extractLsb' 0 2))
  else none

/-- Lane major 0x2E. -/
def decL2E (b : BitVec 21) : Option Instr :=
  if b.extractLsb' 0 7 = 0x0#7 then some (.rcp (b.extractLsb' 14 7) (b.extractLsb' 7 7))
  else if b.extractLsb' 0 7 = 0x1#7 then some (.rsq (b.extractLsb' 14 7) (b.extractLsb' 7 7))
  else if b.extractLsb' 0 7 = 0x2#7 then some (.sqrt (b.extractLsb' 14 7) (b.extractLsb' 7 7))
  else if b.extractLsb' 0 7 = 0x3#7 then some (.exp2 (b.extractLsb' 14 7) (b.extractLsb' 7 7))
  else if b.extractLsb' 0 7 = 0x4#7 then some (.log2 (b.extractLsb' 14 7) (b.extractLsb' 7 7))
  else if b.extractLsb' 0 7 = 0x5#7 then some (.sin (b.extractLsb' 14 7) (b.extractLsb' 7 7))
  else if b.extractLsb' 0 7 = 0x6#7 then some (.cos (b.extractLsb' 14 7) (b.extractLsb' 7 7))
  else if b.extractLsb' 0 7 = 0x7#7 then some (.sincos (b.extractLsb' 14 7) (b.extractLsb' 7 7))
  else if b.extractLsb' 0 7 = 0x8#7 then some (.tanh (b.extractLsb' 14 7) (b.extractLsb' 7 7))
  else none

/-- Lane major 0x2F. -/
def decL2F (b : BitVec 21) : Option Instr :=
  if b.extractLsb' 0 7 = 0x0#7 then some (.qxchPair (b.extractLsb' 14 7) (b.extractLsb' 7 7))
  else if b.extractLsb' 0 7 = 0x1#7 then some (.qxchHalf (b.extractLsb' 14 7) (b.extractLsb' 7 7))
  else if b.extractLsb' 0 7 = 0x2#7 then some (.qxchDiag (b.extractLsb' 14 7) (b.extractLsb' 7 7))
  else if b.extractLsb' 2 5 = 0x1#5 then some (.qxchBc (b.extractLsb' 14 7) (b.extractLsb' 7 7) (b.extractLsb' 0 2))
  else if b.extractLsb' 3 4 = 0x2#4 then some (.qred (b.extractLsb' 14 7) (b.extractLsb' 7 7) (b.extractLsb' 0 3))
  else none

/-- Lane major 0x30. -/
def decL30 (b : BitVec 21) : Option Instr :=
  if b.extractLsb' 5 2 = 0x0#2 then some (.shflUp (b.extractLsb' 14 7) (b.extractLsb' 7 7) (b.extractLsb' 0 5))
  else if b.extractLsb' 5 2 = 0x1#2 then some (.shflDown (b.extractLsb' 14 7) (b.extractLsb' 7 7) (b.extractLsb' 0 5))
  else if b.extractLsb' 5 2 = 0x2#2 then some (.shflXor (b.extractLsb' 14 7) (b.extractLsb' 7 7) (b.extractLsb' 0 5))
  else none

/-- Lane major 0x31. -/
def decL31 (b : BitVec 21) : Option Instr :=
  some (.perm (b.extractLsb' 14 7) (b.extractLsb' 7 7) (b.extractLsb' 0 7))

/-- Lane major 0x32. -/
def decL32 (b : BitVec 21) : Option Instr :=
  if b.extractLsb' 6 1 = 0x0#1 then some (.topkMax (b.extractLsb' 14 7) (b.extractLsb' 7 7) (b.extractLsb' 0 6))
  else if b.extractLsb' 6 1 = 0x1#1 then some (.topkMin (b.extractLsb' 14 7) (b.extractLsb' 7 7) (b.extractLsb' 0 6))
  else none

/-- Lane major 0x33. -/
def decL33 (b : BitVec 21) : Option Instr :=
  if b.extractLsb' 6 1 = 0x0#1 then some (.vx (b.extractLsb' 14 7) (b.extractLsb' 7 7) (b.extractLsb' 0 6))
  else if b.extractLsb' 6 1 = 0x1#1 then some (.vxw (b.extractLsb' 14 7) (b.extractLsb' 7 7) (b.extractLsb' 0 6))
  else none

/-- Lane major 0x34. -/
def decL34 (b : BitVec 21) : Option Instr :=
  if b.extractLsb' 6 1 = 0x0#1 ∧ b.extractLsb' 0 1 = 0x0#1 then some (.ldB32 (b.extractLsb' 14 7) (b.extractLsb' 7 7) (b.extractLsb' 1 5))
  else if b.extractLsb' 6 1 = 0x0#1 ∧ b.extractLsb' 0 1 = 0x1#1 then some (.ldB64 (b.extractLsb' 14 7) (b.extractLsb' 7 7) (b.extractLsb' 1 5))
  else none

/-- Lane major 0x35. -/
def decL35 (b : BitVec 21) : Option Instr :=
  if b.extractLsb' 6 1 = 0x0#1 ∧ b.extractLsb' 0 1 = 0x0#1 then some (.stB32 (b.extractLsb' 14 7) (b.extractLsb' 7 7) (b.extractLsb' 1 5))
  else if b.extractLsb' 6 1 = 0x0#1 ∧ b.extractLsb' 0 1 = 0x1#1 then some (.stB64 (b.extractLsb' 14 7) (b.extractLsb' 7 7) (b.extractLsb' 1 5))
  else none

/-- Lane major 0x36. -/
def decL36 (b : BitVec 21) : Option Instr :=
  if b.extractLsb' 6 1 = 0x0#1 ∧ b.extractLsb' 0 1 = 0x0#1 then some (.ldsB32 (b.extractLsb' 14 7) (b.extractLsb' 7 7) (b.extractLsb' 1 5))
  else if b.extractLsb' 6 1 = 0x0#1 ∧ b.extractLsb' 0 1 = 0x1#1 then some (.ldsB64 (b.extractLsb' 14 7) (b.extractLsb' 7 7) (b.extractLsb' 1 5))
  else none

/-- Lane major 0x37. -/
def decL37 (b : BitVec 21) : Option Instr :=
  if b.extractLsb' 6 1 = 0x0#1 ∧ b.extractLsb' 0 1 = 0x0#1 then some (.stsB32 (b.extractLsb' 14 7) (b.extractLsb' 7 7) (b.extractLsb' 1 5))
  else if b.extractLsb' 6 1 = 0x0#1 ∧ b.extractLsb' 0 1 = 0x1#1 then some (.stsB64 (b.extractLsb' 14 7) (b.extractLsb' 7 7) (b.extractLsb' 1 5))
  else none

/-- Lane major 0x38. -/
def decL38 (b : BitVec 21) : Option Instr :=
  if b.extractLsb' 6 1 = 0x0#1 ∧ b.extractLsb' 0 1 = 0x0#1 then some (.ldB128 (b.extractLsb' 14 7) (b.extractLsb' 7 7) (b.extractLsb' 1 5))
  else if b.extractLsb' 6 1 = 0x0#1 ∧ b.extractLsb' 0 1 = 0x1#1 then some (.ldsB128 (b.extractLsb' 14 7) (b.extractLsb' 7 7) (b.extractLsb' 1 5))
  else none

/-- Lane major 0x39. -/
def decL39 (b : BitVec 21) : Option Instr :=
  if b.extractLsb' 6 1 = 0x0#1 ∧ b.extractLsb' 0 1 = 0x0#1 then some (.stB128 (b.extractLsb' 14 7) (b.extractLsb' 7 7) (b.extractLsb' 1 5))
  else if b.extractLsb' 6 1 = 0x0#1 ∧ b.extractLsb' 0 1 = 0x1#1 then some (.stsB128 (b.extractLsb' 14 7) (b.extractLsb' 7 7) (b.extractLsb' 1 5))
  else none

/-- Lane major 0x3A. -/
def decL3A (b : BitVec 21) : Option Instr :=
  if b.extractLsb' 15 6 = 0x0#6 ∧ b.extractLsb' 3 4 = 0xB#4 then some (.pref (b.extractLsb' 14 1) (b.extractLsb' 7 7) (b.extractLsb' 0 3))
  else if b.extractLsb' 3 4 = 0x0#4 then some (.ldN8 (b.extractLsb' 14 7) (b.extractLsb' 7 7) (b.extractLsb' 0 3))
  else if b.extractLsb' 3 4 = 0x1#4 then some (.ldS8 (b.extractLsb' 14 7) (b.extractLsb' 7 7) (b.extractLsb' 0 3))
  else if b.extractLsb' 3 4 = 0x2#4 then some (.ldN16 (b.extractLsb' 14 7) (b.extractLsb' 7 7) (b.extractLsb' 0 3))
  else if b.extractLsb' 3 4 = 0x3#4 then some (.ldS16 (b.extractLsb' 14 7) (b.extractLsb' 7 7) (b.extractLsb' 0 3))
  else if b.extractLsb' 3 4 = 0x4#4 then some (.stB8 (b.extractLsb' 14 7) (b.extractLsb' 7 7) (b.extractLsb' 0 3))
  else if b.extractLsb' 3 4 = 0x5#4 then some (.stB16 (b.extractLsb' 14 7) (b.extractLsb' 7 7) (b.extractLsb' 0 3))
  else if b.extractLsb' 3 4 = 0x6#4 then some (.ldsN8 (b.extractLsb' 14 7) (b.extractLsb' 7 7) (b.extractLsb' 0 3))
  else if b.extractLsb' 3 4 = 0x7#4 then some (.ldsN16 (b.extractLsb' 14 7) (b.extractLsb' 7 7) (b.extractLsb' 0 3))
  else if b.extractLsb' 3 4 = 0x8#4 then some (.stsB8 (b.extractLsb' 14 7) (b.extractLsb' 7 7) (b.extractLsb' 0 3))
  else if b.extractLsb' 3 4 = 0x9#4 then some (.stsB16 (b.extractLsb' 14 7) (b.extractLsb' 7 7) (b.extractLsb' 0 3))
  else if b.extractLsb' 3 4 = 0xA#4 then some (.ldyB32 (b.extractLsb' 14 7) (b.extractLsb' 7 7) (b.extractLsb' 0 3))
  else if b.extractLsb' 3 4 = 0xC#4 then some (.ldkv (b.extractLsb' 14 7) (b.extractLsb' 7 7) (b.extractLsb' 0 3))
  else if b.extractLsb' 3 4 = 0xD#4 then some (.ldkvTrap (b.extractLsb' 14 7) (b.extractLsb' 7 7) (b.extractLsb' 0 3))
  else if b.extractLsb' 3 4 = 0xE#4 then some (.dldB32 (b.extractLsb' 14 7) (b.extractLsb' 7 7) (b.extractLsb' 0 3))
  else if b.extractLsb' 3 4 = 0xF#4 then some (.dstB32 (b.extractLsb' 14 7) (b.extractLsb' 7 7) (b.extractLsb' 0 3))
  else none

/-- Lane major 0x3B. -/
def decL3B (b : BitVec 21) : Option Instr :=
  if b.extractLsb' 0 5 = 0x1F#5 then some (.accwr (b.extractLsb' 14 7) (b.extractLsb' 7 7) (b.extractLsb' 5 2))
  else some (.accrd (b.extractLsb' 14 7) (b.extractLsb' 7 7) (b.extractLsb' 5 2) (b.extractLsb' 3 2) (b.extractLsb' 0 3))

/-- Lane major 0x3C. -/
def decL3C (b : BitVec 21) : Option Instr :=
  if b.extractLsb' 3 4 = 0xA#4 then some (.cas (b.extractLsb' 14 7) (b.extractLsb' 7 7) (b.extractLsb' 1 2) (b.extractLsb' 0 1))
  else some (.atom (b.extractLsb' 14 7) (b.extractLsb' 7 7) (b.extractLsb' 3 4) (b.extractLsb' 1 2) (b.extractLsb' 0 1))

/-- Lane major 0x3D. -/
def decL3D (b : BitVec 21) : Option Instr :=
  if b.extractLsb' 3 4 = 0xA#4 then some (.casPub (b.extractLsb' 14 7) (b.extractLsb' 7 7) (b.extractLsb' 1 2) (b.extractLsb' 0 1))
  else some (.atomPub (b.extractLsb' 14 7) (b.extractLsb' 7 7) (b.extractLsb' 3 4) (b.extractLsb' 1 2) (b.extractLsb' 0 1))

/-- Lane major 0x3E. -/
def decL3E (b : BitVec 21) : Option Instr :=
  if b.extractLsb' 3 4 = 0xF#4 then some (.ldSub (b.extractLsb' 14 7) (b.extractLsb' 7 7) (b.extractLsb' 1 2) (b.extractLsb' 0 1))
  else some (.red (b.extractLsb' 14 7) (b.extractLsb' 7 7) (b.extractLsb' 3 4) (b.extractLsb' 1 2) (b.extractLsb' 0 1))

/-- Lane major 0x3F. -/
def decL3F (b : BitVec 21) : Option Instr :=
  if b.extractLsb' 0 7 = 0x0#7 then some (.minN32 (b.extractLsb' 14 7) (b.extractLsb' 7 7))
  else if b.extractLsb' 0 7 = 0x1#7 then some (.maxN32 (b.extractLsb' 14 7) (b.extractLsb' 7 7))
  else if b.extractLsb' 0 7 = 0x2#7 then some (.rot (b.extractLsb' 14 7) (b.extractLsb' 7 7))
  else if b.extractLsb' 0 7 = 0x3#7 then some (.rotr (b.extractLsb' 14 7) (b.extractLsb' 7 7))
  else if b.extractLsb' 0 7 = 0x4#7 then some (.addS32Sat (b.extractLsb' 14 7) (b.extractLsb' 7 7))
  else if b.extractLsb' 0 7 = 0x5#7 then some (.subS32Sat (b.extractLsb' 14 7) (b.extractLsb' 7 7))
  else if b.extractLsb' 3 4 = 0x1#4 then some (.sel (b.extractLsb' 14 7) (b.extractLsb' 7 7) (b.extractLsb' 0 3))
  else if b.extractLsb' 3 4 = 0x2#4 then some (.selNot (b.extractLsb' 14 7) (b.extractLsb' 7 7) (b.extractLsb' 0 3))
  else none

/-- Uniform major 0x00. -/
def decU00 (b : BitVec 21) : Option Instr :=
  if b.extractLsb' 0 3 = 0x0#3 then some (.sadd (b.extractLsb' 15 6) (b.extractLsb' 9 6) (b.extractLsb' 3 6))
  else if b.extractLsb' 0 3 = 0x1#3 then some (.ssub (b.extractLsb' 15 6) (b.extractLsb' 9 6) (b.extractLsb' 3 6))
  else if b.extractLsb' 0 3 = 0x2#3 then some (.sand (b.extractLsb' 15 6) (b.extractLsb' 9 6) (b.extractLsb' 3 6))
  else if b.extractLsb' 0 3 = 0x3#3 then some (.sor (b.extractLsb' 15 6) (b.extractLsb' 9 6) (b.extractLsb' 3 6))
  else if b.extractLsb' 0 3 = 0x4#3 then some (.sxor (b.extractLsb' 15 6) (b.extractLsb' 9 6) (b.extractLsb' 3 6))
  else if b.extractLsb' 0 3 = 0x5#3 then some (.sshl (b.extractLsb' 15 6) (b.extractLsb' 9 6) (b.extractLsb' 3 6))
  else if b.extractLsb' 0 3 = 0x6#3 then some (.sshrN32 (b.extractLsb' 15 6) (b.extractLsb' 9 6) (b.extractLsb' 3 6))
  else if b.extractLsb' 0 3 = 0x7#3 then some (.sshrS32 (b.extractLsb' 15 6) (b.extractLsb' 9 6) (b.extractLsb' 3 6))
  else none

/-- Uniform major 0x01. -/
def decU01 (b : BitVec 21) : Option Instr :=
  if b.extractLsb' 0 3 = 0x0#3 then some (.smul (b.extractLsb' 15 6) (b.extractLsb' 9 6) (b.extractLsb' 3 6))
  else if b.extractLsb' 0 3 = 0x1#3 then some (.smulhS32 (b.extractLsb' 15 6) (b.extractLsb' 9 6) (b.extractLsb' 3 6))
  else if b.extractLsb' 0 3 = 0x2#3 then some (.smulhN32 (b.extractLsb' 15 6) (b.extractLsb' 9 6) (b.extractLsb' 3 6))
  else if b.extractLsb' 0 3 = 0x3#3 then some (.sminS32 (b.extractLsb' 15 6) (b.extractLsb' 9 6) (b.extractLsb' 3 6))
  else if b.extractLsb' 0 3 = 0x4#3 then some (.smaxS32 (b.extractLsb' 15 6) (b.extractLsb' 9 6) (b.extractLsb' 3 6))
  else if b.extractLsb' 0 3 = 0x5#3 then some (.sminN32 (b.extractLsb' 15 6) (b.extractLsb' 9 6) (b.extractLsb' 3 6))
  else if b.extractLsb' 0 3 = 0x6#3 then some (.smaxN32 (b.extractLsb' 15 6) (b.extractLsb' 9 6) (b.extractLsb' 3 6))
  else if b.extractLsb' 0 3 = 0x7#3 then some (.srot (b.extractLsb' 15 6) (b.extractLsb' 9 6) (b.extractLsb' 3 6))
  else none

/-- Uniform major 0x02. -/
def decU02 (b : BitVec 21) : Option Instr :=
  if b.extractLsb' 0 3 = 0x0#3 then some (.saddB64 (b.extractLsb' 15 6) (b.extractLsb' 9 6) (b.extractLsb' 3 6))
  else if b.extractLsb' 0 3 = 0x1#3 then some (.ssubB64 (b.extractLsb' 15 6) (b.extractLsb' 9 6) (b.extractLsb' 3 6))
  else if b.extractLsb' 0 3 = 0x2#3 then some (.sandB64 (b.extractLsb' 15 6) (b.extractLsb' 9 6) (b.extractLsb' 3 6))
  else if b.extractLsb' 0 3 = 0x3#3 then some (.sorB64 (b.extractLsb' 15 6) (b.extractLsb' 9 6) (b.extractLsb' 3 6))
  else if b.extractLsb' 0 3 = 0x4#3 then some (.sxorB64 (b.extractLsb' 15 6) (b.extractLsb' 9 6) (b.extractLsb' 3 6))
  else if b.extractLsb' 0 3 = 0x5#3 then some (.sshlB64 (b.extractLsb' 15 6) (b.extractLsb' 9 6) (b.extractLsb' 3 6))
  else if b.extractLsb' 0 3 = 0x6#3 then some (.sshrN64 (b.extractLsb' 15 6) (b.extractLsb' 9 6) (b.extractLsb' 3 6))
  else if b.extractLsb' 0 3 = 0x7#3 then some (.sshrS64 (b.extractLsb' 15 6) (b.extractLsb' 9 6) (b.extractLsb' 3 6))
  else none

/-- Uniform major 0x03. -/
def decU03 (b : BitVec 21) : Option Instr :=
  if b.extractLsb' 0 9 = 0x0#9 then some (.smov (b.extractLsb' 15 6) (b.extractLsb' 9 6))
  else if b.extractLsb' 0 9 = 0x1#9 then some (.snot (b.extractLsb' 15 6) (b.extractLsb' 9 6))
  else if b.extractLsb' 0 9 = 0x2#9 then some (.spopc (b.extractLsb' 15 6) (b.extractLsb' 9 6))
  else if b.extractLsb' 0 9 = 0x3#9 then some (.sclz (b.extractLsb' 15 6) (b.extractLsb' 9 6))
  else if b.extractLsb' 0 9 = 0x4#9 then some (.sbrev (b.extractLsb' 15 6) (b.extractLsb' 9 6))
  else if b.extractLsb' 0 3 = 0x5#3 then some (.sbfeN32 (b.extractLsb' 15 6) (b.extractLsb' 9 6) (b.extractLsb' 3 6))
  else if b.extractLsb' 0 3 = 0x6#3 then some (.sbfeS32 (b.extractLsb' 15 6) (b.extractLsb' 9 6) (b.extractLsb' 3 6))
  else if b.extractLsb' 0 3 = 0x7#3 then some (.sbfi (b.extractLsb' 15 6) (b.extractLsb' 9 6) (b.extractLsb' 3 6))
  else none

/-- Uniform major 0x04. -/
def decU04 (b : BitVec 21) : Option Instr :=
  if b.extractLsb' 18 3 = 0x0#3 then some (.sset (b.extractLsb' 15 3) (b.extractLsb' 9 6) (b.extractLsb' 3 6) (b.extractLsb' 0 3))
  else none

/-- Uniform major 0x05. -/
def decU05 (b : BitVec 21) : Option Instr :=
  some (.ssel (b.extractLsb' 15 6) (b.extractLsb' 9 6) (b.extractLsb' 3 6) (b.extractLsb' 0 3))

/-- Uniform major 0x06. -/
def decU06 (b : BitVec 21) : Option Instr :=
  some (.saddi (b.extractLsb' 15 6) (b.extractLsb' 0 15))

/-- Uniform major 0x07. -/
def decU07 (b : BitVec 21) : Option Instr :=
  some (.smovi (b.extractLsb' 15 6) (b.extractLsb' 0 15))

/-- Uniform major 0x08. -/
def decU08 (b : BitVec 21) (lit : Word) : Option Instr :=
  if b.extractLsb' 0 15 = 0x0#15 then some (.slit (b.extractLsb' 15 6) lit)
  else if b.extractLsb' 0 15 = 0x1#15 then some (.slitAdd (b.extractLsb' 15 6) lit)
  else if b.extractLsb' 0 15 = 0x2#15 then some (.slitAnd (b.extractLsb' 15 6) lit)
  else if b.extractLsb' 0 15 = 0x3#15 then some (.slitOr (b.extractLsb' 15 6) lit)
  else if b.extractLsb' 0 15 = 0x4#15 then some (.slitXor (b.extractLsb' 15 6) lit)
  else none

/-- Uniform major 0x09. -/
def decU09 (b : BitVec 21) : Option Instr :=
  if b.extractLsb' 6 9 = 0x0#9 then some (.sreg (b.extractLsb' 15 6) (b.extractLsb' 0 6))
  else none

/-- Uniform major 0x0A. -/
def decU0A (b : BitVec 21) : Option Instr :=
  some (.sandi (b.extractLsb' 15 6) (b.extractLsb' 0 15))

/-- Uniform major 0x0B. -/
def decU0B (b : BitVec 21) : Option Instr :=
  some (.sori (b.extractLsb' 15 6) (b.extractLsb' 0 15))

/-- Uniform major 0x0C. -/
def decU0C (b : BitVec 21) : Option Instr :=
  some (.sxori (b.extractLsb' 15 6) (b.extractLsb' 0 15))

/-- Uniform major 0x0D. -/
def decU0D (b : BitVec 21) : Option Instr :=
  if b.extractLsb' 0 8 = 0x0#8 then some (.qlop (b.extractLsb' 18 3) (b.extractLsb' 15 3) (b.extractLsb' 12 3) (b.extractLsb' 8 4))
  else none

/-- Uniform major 0x14. -/
def decU14 (b : BitVec 21) : Option Instr :=
  some (.bra (b.extractLsb' 0 21))

/-- Uniform major 0x15. -/
def decU15 (b : BitVec 21) : Option Instr :=
  some (.call (b.extractLsb' 0 21))

/-- Uniform major 0x16. -/
def decU16 (b : BitVec 21) : Option Instr :=
  if b.extractLsb' 15 6 = 0x0#6 ∧ b.extractLsb' 0 9 = 0x0#9 then some (.jmp (b.extractLsb' 9 6))
  else if b.extractLsb' 15 6 = 0x1#6 ∧ b.extractLsb' 0 9 = 0x0#9 then some (.jmpCall (b.extractLsb' 9 6))
  else if b.extractLsb' 18 3 = 0x1#3 then some (.jmpT (b.extractLsb' 15 3) (b.extractLsb' 0 15))
  else if b.extractLsb' 18 3 = 0x2#3 then some (.jmpF (b.extractLsb' 15 3) (b.extractLsb' 0 15))
  else none

/-- Uniform major 0x17. -/
def decU17 (b : BitVec 21) : Option Instr :=
  if b.extractLsb' 0 21 = 0x0#21 then some (.ret )
  else none

/-- Uniform major 0x18. -/
def decU18 (b : BitVec 21) : Option Instr :=
  if b.extractLsb' 0 21 = 0x8000#21 then some (.convAll )
  else if b.extractLsb' 15 6 = 0x0#6 ∧ b.extractLsb' 0 9 = 0x0#9 then some (.conv (b.extractLsb' 9 6))
  else none

/-- Uniform major 0x19. -/
def decU19 (b : BitVec 21) : Option Instr :=
  some (.loop (b.extractLsb' 15 6) (b.extractLsb' 0 15))

/-- Uniform major 0x1A. -/
def decU1A (b : BitVec 21) : Option Instr :=
  if b.extractLsb' 0 21 = 0x0#21 then some (.exit )
  else none

/-- Uniform major 0x20. -/
def decU20 (b : BitVec 21) : Option Instr :=
  if b.extractLsb' 0 21 = 0x0#21 then some (.frameOpen )
  else none

/-- Uniform major 0x21. -/
def decU21 (b : BitVec 21) : Option Instr :=
  if b.extractLsb' 15 6 = 0x0#6 then some (.spawnL (b.extractLsb' 9 6) (b.extractLsb' 3 6) (b.extractLsb' 0 3))
  else none

/-- Uniform major 0x22. -/
def decU22 (b : BitVec 21) : Option Instr :=
  if b.extractLsb' 15 6 = 0x0#6 ∧ b.extractLsb' 0 3 = 0x0#3 then some (.spawnG (b.extractLsb' 9 6) (b.extractLsb' 3 6))
  else none

/-- Uniform major 0x23. -/
def decU23 (b : BitVec 21) : Option Instr :=
  if b.extractLsb' 15 6 = 0x0#6 ∧ b.extractLsb' 0 3 = 0x0#3 then some (.spawnB (b.extractLsb' 9 6) (b.extractLsb' 3 6))
  else none

/-- Uniform major 0x24. -/
def decU24 (b : BitVec 21) : Option Instr :=
  if b.extractLsb' 0 21 = 0x0#21 then some (.await )
  else none

/-- Uniform major 0x25. -/
def decU25 (b : BitVec 21) : Option Instr :=
  if b.extractLsb' 18 3 = 0x0#3 ∧ b.extractLsb' 9 6 = 0x0#6 ∧ b.extractLsb' 0 3 = 0x5#3 then some (.barWaitClu (b.extractLsb' 15 3) (b.extractLsb' 3 6))
  else if b.extractLsb' 18 3 = 0x0#3 ∧ b.extractLsb' 0 9 = 0x6#9 then some (.barSyncClu (b.extractLsb' 15 3) (b.extractLsb' 9 6))
  else if b.extractLsb' 19 2 = 0x0#2 ∧ b.extractLsb' 9 6 = 0x0#6 ∧ b.extractLsb' 0 3 = 0x1#3 then some (.barWait (b.extractLsb' 15 4) (b.extractLsb' 3 6))
  else if b.extractLsb' 19 2 = 0x0#2 ∧ b.extractLsb' 0 9 = 0x2#9 then some (.barSync (b.extractLsb' 15 4) (b.extractLsb' 9 6))
  else if b.extractLsb' 18 3 = 0x0#3 ∧ b.extractLsb' 0 3 = 0x4#3 then some (.barArriveClu (b.extractLsb' 15 3) (b.extractLsb' 9 6) (b.extractLsb' 3 6))
  else if b.extractLsb' 19 2 = 0x0#2 ∧ b.extractLsb' 0 3 = 0x0#3 then some (.barArrive (b.extractLsb' 15 4) (b.extractLsb' 9 6) (b.extractLsb' 3 6))
  else none

/-- Uniform major 0x26. -/
def decU26 (b : BitVec 21) : Option Instr :=
  if b.extractLsb' 15 6 = 0x0#6 ∧ b.extractLsb' 0 3 = 0x0#3 then some (.waitge (b.extractLsb' 9 6) (b.extractLsb' 3 6))
  else if b.extractLsb' 15 6 = 0x1#6 ∧ b.extractLsb' 0 3 = 0x0#3 then some (.waitgeSys (b.extractLsb' 9 6) (b.extractLsb' 3 6))
  else none

/-- Uniform major 0x27. -/
def decU27 (b : BitVec 21) : Option Instr :=
  if b.extractLsb' 0 21 = 0x0#21 then some (.yield )
  else none

/-- Uniform major 0x28. -/
def decU28 (b : BitVec 21) : Option Instr :=
  some (.sld (b.extractLsb' 15 6) (b.extractLsb' 9 6) (b.extractLsb' 3 6) (b.extractLsb' 0 3))

/-- Uniform major 0x29. -/
def decU29 (b : BitVec 21) : Option Instr :=
  some (.sst (b.extractLsb' 15 6) (b.extractLsb' 9 6) (b.extractLsb' 3 6) (b.extractLsb' 0 3))

/-- Uniform major 0x2A. -/
def decU2A (b : BitVec 21) : Option Instr :=
  if b.extractLsb' 15 2 = 0x0#2 then some (.satom (b.extractLsb' 17 4) (b.extractLsb' 9 6) (b.extractLsb' 3 6) (b.extractLsb' 1 2) (b.extractLsb' 0 1))
  else none

/-- Uniform major 0x2B. -/
def decU2B (b : BitVec 21) : Option Instr :=
  if b.extractLsb' 15 2 = 0x0#2 then some (.satomPub (b.extractLsb' 17 4) (b.extractLsb' 9 6) (b.extractLsb' 3 6) (b.extractLsb' 1 2) (b.extractLsb' 0 1))
  else none

/-- Uniform major 0x30. -/
def decU30 (b : BitVec 21) : Option Instr :=
  if b.extractLsb' 16 5 = 0x0#5 ∧ b.extractLsb' 0 9 = 0x0#9 then some (.chain (b.extractLsb' 15 1) (b.extractLsb' 9 6))
  else none

/-- Uniform major 0x31. -/
def decU31 (b : BitVec 21) : Option Instr :=
  if b.extractLsb' 15 6 = 0x0#6 ∧ b.extractLsb' 0 9 = 0x0#9 then some (.mcmd (b.extractLsb' 9 6))
  else none

/-- Uniform major 0x32. -/
def decU32 (b : BitVec 21) : Option Instr :=
  if b.extractLsb' 15 6 = 0x0#6 ∧ b.extractLsb' 0 9 = 0x0#9 then some (.attn (b.extractLsb' 9 6))
  else none

/-- Uniform major 0x33. -/
def decU33 (b : BitVec 21) : Option Instr :=
  if b.extractLsb' 15 6 = 0x0#6 ∧ b.extractLsb' 0 9 = 0x0#9 then some (.unmask (b.extractLsb' 9 6))
  else none

/-- Uniform major 0x34. -/
def decU34 (b : BitVec 21) : Option Instr :=
  if b.extractLsb' 15 6 = 0x0#6 ∧ b.extractLsb' 0 9 = 0x0#9 then some (.coll (b.extractLsb' 9 6))
  else none

/-- Uniform major 0x35. -/
def decU35 (b : BitVec 21) : Option Instr :=
  if b.extractLsb' 15 6 = 0x0#6 ∧ b.extractLsb' 0 9 = 0x0#9 then some (.ship (b.extractLsb' 9 6))
  else none

/-- Uniform major 0x36. -/
def decU36 (b : BitVec 21) : Option Instr :=
  if b.extractLsb' 15 6 = 0x0#6 ∧ b.extractLsb' 0 3 = 0x0#3 then some (.replay (b.extractLsb' 9 6) (b.extractLsb' 3 6))
  else none

/-- Uniform major 0x3C. -/
def decU3C (b : BitVec 21) : Option Instr :=
  if b.extractLsb' 12 3 = 0x0#3 then some (.csrr (b.extractLsb' 15 6) (b.extractLsb' 0 12))
  else if b.extractLsb' 12 3 = 0x4#3 then some (.csrw (b.extractLsb' 15 6) (b.extractLsb' 0 12))
  else none

/-- Uniform major 0x3D. -/
def decU3D (b : BitVec 21) : Option Instr :=
  if b.extractLsb' 0 21 = 0x0#21 then some (.nop )
  else if b.extractLsb' 0 21 = 0x10000#21 then some (.eret )
  else if b.extractLsb' 0 21 = 0x18000#21 then some (.brk )
  else if b.extractLsb' 15 6 = 0x1#6 ∧ b.extractLsb' 3 6 = 0x0#6 then some (.trap (b.extractLsb' 9 6) (b.extractLsb' 0 3))
  else none

/-- Uniform major 0x3E. -/
def decU3E (b : BitVec 21) : Option Instr :=
  if b.extractLsb' 0 21 = 0x18000#21 then some (.tlbiAll )
  else if b.extractLsb' 15 6 = 0x1#6 ∧ b.extractLsb' 0 9 = 0x0#9 then some (.tlbiAsid (b.extractLsb' 9 6))
  else if b.extractLsb' 15 6 = 0x0#6 ∧ b.extractLsb' 0 3 = 0x0#3 then some (.asgen (b.extractLsb' 9 6) (b.extractLsb' 3 6))
  else if b.extractLsb' 15 6 = 0x2#6 ∧ b.extractLsb' 0 3 = 0x0#3 then some (.tlbiPage (b.extractLsb' 9 6) (b.extractLsb' 3 6))
  else none

/-- Uniform major 0x3F. -/
def decU3F (b : BitVec 21) : Option Instr :=
  if b.extractLsb' 0 21 = 0x10000#21 then some (.ctxsvRelease )
  else if b.extractLsb' 0 21 = 0x50000#21 then some (.ctxldResume )
  else if b.extractLsb' 9 12 = 0x40#12 then some (.ctxsvPart (b.extractLsb' 3 6) (b.extractLsb' 0 3))
  else if b.extractLsb' 9 12 = 0x240#12 then some (.ctxldPart (b.extractLsb' 3 6) (b.extractLsb' 0 3))
  else if b.extractLsb' 15 6 = 0x0#6 ∧ b.extractLsb' 0 3 = 0x0#3 then some (.ctxsvStop (b.extractLsb' 9 6) (b.extractLsb' 3 6))
  else if b.extractLsb' 15 6 = 0x8#6 ∧ b.extractLsb' 0 3 = 0x0#3 then some (.ctxldPlace (b.extractLsb' 9 6) (b.extractLsb' 3 6))
  else none

/-- The lane-set opcode map (R46). -/
def decodeLane (k : BitVec 6) (b : BitVec 21)  : Option (Option Instr) :=
  if k = 0x00#6 then some (decL00 b)
  else if k = 0x01#6 then some (decL01 b)
  else if k = 0x02#6 then some (decL02 b)
  else if k = 0x03#6 then some (decL03 b)
  else if k = 0x04#6 then some (decL04 b)
  else if k = 0x05#6 then some (decL05 b)
  else if k = 0x06#6 then some (decL06 b)
  else if k = 0x07#6 then some (decL07 b)
  else if k = 0x08#6 then some (decL08 b)
  else if k = 0x09#6 then some (decL09 b)
  else if k = 0x0A#6 then some (decL0A b)
  else if k = 0x0B#6 then some (decL0B b)
  else if k = 0x0C#6 then some (decL0C b)
  else if k = 0x0D#6 then some (decL0D b)
  else if k = 0x0E#6 then some (decL0E b)
  else if k = 0x0F#6 then some (decL0F b)
  else if k = 0x10#6 then some (decL10 b)
  else if k = 0x11#6 then some (decL11 b)
  else if k = 0x12#6 then some (decL12 b)
  else if k = 0x13#6 then some (decL13 b)
  else if k = 0x14#6 then some (decL14 b)
  else if k = 0x15#6 then some (decL15 b)
  else if k = 0x16#6 then some (decL16 b)
  else if k = 0x17#6 then some (decL17 b)
  else if k = 0x18#6 then some (decL18 b)
  else if k = 0x19#6 then some (decL19 b)
  else if k = 0x1A#6 then some (decL1A b)
  else if k = 0x1B#6 then some (decL1B b)
  else if k = 0x1C#6 then some (decL1C b)
  else if k = 0x1D#6 then some (decL1D b)
  else if k = 0x1E#6 then some (decL1E b)
  else if k = 0x1F#6 then some (decL1F b)
  else if k = 0x20#6 then some (decL20 b)
  else if k = 0x21#6 then some (decL21 b)
  else if k = 0x22#6 then some (decL22 b)
  else if k = 0x23#6 then some (decL23 b)
  else if k = 0x24#6 then some (decL24 b)
  else if k = 0x25#6 then some (decL25 b)
  else if k = 0x26#6 then some (decL26 b)
  else if k = 0x27#6 then some (decL27 b)
  else if k = 0x28#6 then some (decL28 b)
  else if k = 0x2C#6 then some (decL2C b)
  else if k = 0x2D#6 then some (decL2D b)
  else if k = 0x2E#6 then some (decL2E b)
  else if k = 0x2F#6 then some (decL2F b)
  else if k = 0x30#6 then some (decL30 b)
  else if k = 0x31#6 then some (decL31 b)
  else if k = 0x32#6 then some (decL32 b)
  else if k = 0x33#6 then some (decL33 b)
  else if k = 0x34#6 then some (decL34 b)
  else if k = 0x35#6 then some (decL35 b)
  else if k = 0x36#6 then some (decL36 b)
  else if k = 0x37#6 then some (decL37 b)
  else if k = 0x38#6 then some (decL38 b)
  else if k = 0x39#6 then some (decL39 b)
  else if k = 0x3A#6 then some (decL3A b)
  else if k = 0x3B#6 then some (decL3B b)
  else if k = 0x3C#6 then some (decL3C b)
  else if k = 0x3D#6 then some (decL3D b)
  else if k = 0x3E#6 then some (decL3E b)
  else if k = 0x3F#6 then some (decL3F b)
  else none

/-- The uniform-set opcode map (R47). -/
def decodeUniform (k : BitVec 6) (b : BitVec 21) (lit : Word) : Option (Option Instr) :=
  if k = 0x00#6 then some (decU00 b)
  else if k = 0x01#6 then some (decU01 b)
  else if k = 0x02#6 then some (decU02 b)
  else if k = 0x03#6 then some (decU03 b)
  else if k = 0x04#6 then some (decU04 b)
  else if k = 0x05#6 then some (decU05 b)
  else if k = 0x06#6 then some (decU06 b)
  else if k = 0x07#6 then some (decU07 b)
  else if k = 0x08#6 then some (decU08 b lit)
  else if k = 0x09#6 then some (decU09 b)
  else if k = 0x0A#6 then some (decU0A b)
  else if k = 0x0B#6 then some (decU0B b)
  else if k = 0x0C#6 then some (decU0C b)
  else if k = 0x0D#6 then some (decU0D b)
  else if k = 0x14#6 then some (decU14 b)
  else if k = 0x15#6 then some (decU15 b)
  else if k = 0x16#6 then some (decU16 b)
  else if k = 0x17#6 then some (decU17 b)
  else if k = 0x18#6 then some (decU18 b)
  else if k = 0x19#6 then some (decU19 b)
  else if k = 0x1A#6 then some (decU1A b)
  else if k = 0x20#6 then some (decU20 b)
  else if k = 0x21#6 then some (decU21 b)
  else if k = 0x22#6 then some (decU22 b)
  else if k = 0x23#6 then some (decU23 b)
  else if k = 0x24#6 then some (decU24 b)
  else if k = 0x25#6 then some (decU25 b)
  else if k = 0x26#6 then some (decU26 b)
  else if k = 0x27#6 then some (decU27 b)
  else if k = 0x28#6 then some (decU28 b)
  else if k = 0x29#6 then some (decU29 b)
  else if k = 0x2A#6 then some (decU2A b)
  else if k = 0x2B#6 then some (decU2B b)
  else if k = 0x30#6 then some (decU30 b)
  else if k = 0x31#6 then some (decU31 b)
  else if k = 0x32#6 then some (decU32 b)
  else if k = 0x33#6 then some (decU33 b)
  else if k = 0x34#6 then some (decU34 b)
  else if k = 0x35#6 then some (decU35 b)
  else if k = 0x36#6 then some (decU36 b)
  else if k = 0x3C#6 then some (decU3C b)
  else if k = 0x3D#6 then some (decU3D b)
  else if k = 0x3E#6 then some (decU3E b)
  else if k = 0x3F#6 then some (decU3F b)
  else none

/-- The instruction of a word's fields, or why there is none, in the order of R49. -/
def decodeFields (f : Fields) (lit : Word) : Except DecodeErr (Hdr × Instr) :=
  match (if f.set then decodeUniform f.major f.body lit else decodeLane f.major f.body) with
  | none => .error .unassignedMajor
  | some none => .error .unassignedSelector
  | some (some i) => if i.wf then .ok ({ m := f.m, g := f.g }, i) else .error .badField

/-- The instruction of a word; a SLIT takes the literal word that follows it (R45). -/
def decode (w lit : Word) : Except DecodeErr (Hdr × Instr) := decodeFields (unpack w) lit

/-- A SLIT, the one instruction of two words (R45). -/
def Instr.isSlit : Instr → Bool
  | .slit _ _ => true
  | .slitAdd _ _ => true
  | .slitAnd _ _ => true
  | .slitOr _ _ => true
  | .slitXor _ _ => true
  | _ => false

/-- Whether a word is that of a SLIT: uniform major 0x08 (R45). -/
def wordIsSlit (w : Word) : Bool := w.getLsbD 31 && w.extractLsb' 24 6 == 0x08#6

/-- Bytes of an instruction (R39, R45). -/
def Instr.len (i : Instr) : Nat := if i.isSlit then 8 else 4

/-- A word from its four bytes, little-endian (R9). -/
def wordOfBytes (b0 b1 b2 b3 : Byte) : Word := b3 ++ b2 ++ b1 ++ b0

/-- The four bytes of a word, little-endian (R9). -/
def bytesOfWord (w : Word) : List Byte :=
  [w.extractLsb' 0 8, w.extractLsb' 8 8, w.extractLsb' 16 8, w.extractLsb' 24 8]

/-- The instruction at the head of a list of bytes, and the rest of the list. -/
def decodeBytes : List Byte → Except DecodeErr ((Hdr × Instr) × List Byte)
  | b0 :: b1 :: b2 :: b3 :: rest =>
    let w := wordOfBytes b0 b1 b2 b3
    if wordIsSlit w then
      match rest with
      | c0 :: c1 :: c2 :: c3 :: rest' => (decode w (wordOfBytes c0 c1 c2 c3)).map (fun i => (i, rest'))
      | _ => .error .short
    else (decode w 0).map (fun i => (i, rest))
  | _ => .error .short

/-- The instruction whose bits are `w`, numbered as the opcode table numbers them; the bits above `nbits` are zero, so a
SLIT's literal word is zero when `nbits` is 32. -/
def decodeTableWord (nbits w : Nat) : Option Instr :=
  let v : BitVec 64 := BitVec.ofNat 64 (w % 2 ^ nbits)
  match decodeBytes (bytesOfWord (v.extractLsb' 0 32) ++ bytesOfWord (v.extractLsb' 32 32)) with
  | .ok ((_, i), _) => some i
  | .error _ => none

/-- The fields of an instruction's first word, and its literal when it has one; an event has none. -/
def Instr.fields (hd : Hdr) : Instr → Option (Fields × Option Word)
  | .addB32 d a b => some (⟨false, hd.m, 0x00#6, hd.g, d ++ a ++ b⟩, none)
  | .subB32 d a b => some (⟨false, hd.m, 0x01#6, hd.g, d ++ a ++ b⟩, none)
  | .addB64 d a b => some (⟨false, hd.m, 0x02#6, hd.g, d ++ a ++ b⟩, none)
  | .mulB32 d a b => some (⟨false, hd.m, 0x03#6, hd.g, d ++ a ++ b⟩, none)
  | .mulhS32 d a b => some (⟨false, hd.m, 0x04#6, hd.g, d ++ a ++ b⟩, none)
  | .mulhN32 d a b => some (⟨false, hd.m, 0x05#6, hd.g, d ++ a ++ b⟩, none)
  | .macB32 d a b => some (⟨false, hd.m, 0x06#6, hd.g, d ++ a ++ b⟩, none)
  | .minS32 d a b => some (⟨false, hd.m, 0x07#6, hd.g, d ++ a ++ b⟩, none)
  | .maxS32 d a b => some (⟨false, hd.m, 0x08#6, hd.g, d ++ a ++ b⟩, none)
  | .and d a b => some (⟨false, hd.m, 0x09#6, hd.g, d ++ a ++ b⟩, none)
  | .or d a b => some (⟨false, hd.m, 0x0A#6, hd.g, d ++ a ++ b⟩, none)
  | .xor d a b => some (⟨false, hd.m, 0x0B#6, hd.g, d ++ a ++ b⟩, none)
  | .shl d a b => some (⟨false, hd.m, 0x0C#6, hd.g, d ++ a ++ b⟩, none)
  | .shrN32 d a b => some (⟨false, hd.m, 0x0D#6, hd.g, d ++ a ++ b⟩, none)
  | .shrS32 d a b => some (⟨false, hd.m, 0x0E#6, hd.g, d ++ a ++ b⟩, none)
  | .fsh d a b => some (⟨false, hd.m, 0x0F#6, hd.g, d ++ a ++ b⟩, none)
  | .bfe d a b => some (⟨false, hd.m, 0x10#6, hd.g, d ++ a ++ b⟩, none)
  | .bfi d a b => some (⟨false, hd.m, 0x11#6, hd.g, d ++ a ++ b⟩, none)
  | .mov d a => some (⟨false, hd.m, 0x12#6, hd.g, d ++ a ++ 0x0#7⟩, none)
  | .shlImm d a n => some (⟨false, hd.m, 0x12#6, hd.g, d ++ a ++ 0x0#2 ++ n⟩, none)
  | .not d a => some (⟨false, hd.m, 0x12#6, hd.g, d ++ a ++ 0x20#7⟩, none)
  | .shrN32Imm d a n => some (⟨false, hd.m, 0x12#6, hd.g, d ++ a ++ 0x1#2 ++ n⟩, none)
  | .neg d a => some (⟨false, hd.m, 0x12#6, hd.g, d ++ a ++ 0x40#7⟩, none)
  | .shrS32Imm d a n => some (⟨false, hd.m, 0x12#6, hd.g, d ++ a ++ 0x2#2 ++ n⟩, none)
  | .absS32 d a => some (⟨false, hd.m, 0x12#6, hd.g, d ++ a ++ 0x60#7⟩, none)
  | .popc d a => some (⟨false, hd.m, 0x12#6, hd.g, d ++ a ++ 0x61#7⟩, none)
  | .clz d a => some (⟨false, hd.m, 0x12#6, hd.g, d ++ a ++ 0x62#7⟩, none)
  | .brev d a => some (⟨false, hd.m, 0x12#6, hd.g, d ++ a ++ 0x63#7⟩, none)
  | .movSpecial d i => some (⟨false, hd.m, 0x12#6, hd.g, d ++ 0x0#1 ++ i ++ 0x64#7⟩, none)
  | .rotImm d a k => some (⟨false, hd.m, 0x12#6, hd.g, d ++ a ++ 0x19#5 ++ k⟩, none)
  | .lea d a s => some (⟨false, hd.m, 0x13#6, hd.g, d ++ a ++ 0x0#1 ++ s⟩, none)
  | .leaX4 d a s => some (⟨false, hd.m, 0x13#6, hd.g, d ++ a ++ 0x1#1 ++ s⟩, none)
  | .movi d i => some (⟨false, hd.m, 0x14#6, hd.g, d ++ i⟩, none)
  | .addi d i => some (⟨false, hd.m, 0x15#6, hd.g, d ++ i⟩, none)
  | .cmpi e a b k => some (⟨false, hd.m, 0x16#6, hd.g, e ++ a ++ b ++ k⟩, none)
  | .plop e f h t => some (⟨false, hd.m, 0x17#6, hd.g, e ++ f ++ h ++ 0x0#2 ++ t ++ 0x0#6⟩, none)
  | .voteAny e f => some (⟨false, hd.m, 0x17#6, hd.g, e ++ f ++ 0x400#15⟩, none)
  | .voteAll e f => some (⟨false, hd.m, 0x17#6, hd.g, e ++ f ++ 0x440#15⟩, none)
  | .voteBallot f s => some (⟨false, hd.m, 0x17#6, hd.g, 0x0#3 ++ f ++ 0x12#9 ++ s⟩, none)
  | .voteEq e f => some (⟨false, hd.m, 0x17#6, hd.g, e ++ f ++ 0x4C0#15⟩, none)
  | .faddF32 d a b => some (⟨false, hd.m, 0x18#6, hd.g, d ++ a ++ b⟩, none)
  | .fsubF32 d a b => some (⟨false, hd.m, 0x19#6, hd.g, d ++ a ++ b⟩, none)
  | .fmulF32 d a b => some (⟨false, hd.m, 0x1A#6, hd.g, d ++ a ++ b⟩, none)
  | .fmacF32 d a b => some (⟨false, hd.m, 0x1B#6, hd.g, d ++ a ++ b⟩, none)
  | .fmaF32 d a s => some (⟨false, hd.m, 0x1C#6, hd.g, d ++ a ++ 0x0#1 ++ s⟩, none)
  | .fmaF32Neg d a s => some (⟨false, hd.m, 0x1C#6, hd.g, d ++ a ++ 0x1#1 ++ s⟩, none)
  | .fminF32 d a b => some (⟨false, hd.m, 0x1D#6, hd.g, d ++ a ++ b⟩, none)
  | .fmaxF32 d a b => some (⟨false, hd.m, 0x1E#6, hd.g, d ++ a ++ b⟩, none)
  | .cmpf e a b k => some (⟨false, hd.m, 0x1F#6, hd.g, e ++ a ++ b ++ k⟩, none)
  | .fabsF32 d a => some (⟨false, hd.m, 0x20#6, hd.g, d ++ a ++ 0x0#7⟩, none)
  | .fnegF32 d a => some (⟨false, hd.m, 0x20#6, hd.g, d ++ a ++ 0x1#7⟩, none)
  | .fclassF32 d a => some (⟨false, hd.m, 0x20#6, hd.g, d ++ a ++ 0x2#7⟩, none)
  | .frndF32 d a r => some (⟨false, hd.m, 0x20#6, hd.g, d ++ a ++ 0x1#4 ++ r⟩, none)
  | .hadd2Bf16 d a b => some (⟨false, hd.m, 0x21#6, hd.g, d ++ a ++ b⟩, none)
  | .hmul2Bf16 d a b => some (⟨false, hd.m, 0x22#6, hd.g, d ++ a ++ b⟩, none)
  | .hfma2Bf16 d a b => some (⟨false, hd.m, 0x23#6, hd.g, d ++ a ++ b⟩, none)
  | .hadd2F16 d a b => some (⟨false, hd.m, 0x24#6, hd.g, d ++ a ++ b⟩, none)
  | .hmul2F16 d a b => some (⟨false, hd.m, 0x25#6, hd.g, d ++ a ++ b⟩, none)
  | .hfma2F16 d a b => some (⟨false, hd.m, 0x26#6, hd.g, d ++ a ++ b⟩, none)
  | .dot4E4m3 d a b => some (⟨false, hd.m, 0x27#6, hd.g, d ++ a ++ b⟩, none)
  | .faddF322a d a r z => some (⟨false, hd.m, 0x28#6, hd.g, d ++ a ++ 0x0#3 ++ r ++ z⟩, none)
  | .fsubF322a d a r z => some (⟨false, hd.m, 0x28#6, hd.g, d ++ a ++ 0x1#3 ++ r ++ z⟩, none)
  | .fmulF322a d a r z => some (⟨false, hd.m, 0x28#6, hd.g, d ++ a ++ 0x2#3 ++ r ++ z⟩, none)
  | .hadd2Bf162a d a r z => some (⟨false, hd.m, 0x28#6, hd.g, d ++ a ++ 0x3#3 ++ r ++ z⟩, none)
  | .hmul2Bf162a d a r z => some (⟨false, hd.m, 0x28#6, hd.g, d ++ a ++ 0x4#3 ++ r ++ z⟩, none)
  | .hadd2F162a d a r z => some (⟨false, hd.m, 0x28#6, hd.g, d ++ a ++ 0x5#3 ++ r ++ z⟩, none)
  | .hmul2F162a d a r z => some (⟨false, hd.m, 0x28#6, hd.g, d ++ a ++ 0x6#3 ++ r ++ z⟩, none)
  | .cvtEncF16 d a r => some (⟨false, hd.m, 0x2C#6, hd.g, d ++ a ++ 0x0#4 ++ r⟩, none)
  | .cvtEncBf16 d a r => some (⟨false, hd.m, 0x2C#6, hd.g, d ++ a ++ 0x1#4 ++ r⟩, none)
  | .cvtEncE4m3 d a r => some (⟨false, hd.m, 0x2C#6, hd.g, d ++ a ++ 0x2#4 ++ r⟩, none)
  | .cvtEncE5m2 d a r => some (⟨false, hd.m, 0x2C#6, hd.g, d ++ a ++ 0x3#4 ++ r⟩, none)
  | .cvtEncS32 d a r => some (⟨false, hd.m, 0x2C#6, hd.g, d ++ a ++ 0x4#4 ++ r⟩, none)
  | .cvtEncN32 d a r => some (⟨false, hd.m, 0x2C#6, hd.g, d ++ a ++ 0x5#4 ++ r⟩, none)
  | .cvtDecF16 d a => some (⟨false, hd.m, 0x2C#6, hd.g, d ++ a ++ 0x30#7⟩, none)
  | .cvtDecBf16 d a => some (⟨false, hd.m, 0x2C#6, hd.g, d ++ a ++ 0x38#7⟩, none)
  | .cvtDecE4m3 d a => some (⟨false, hd.m, 0x2C#6, hd.g, d ++ a ++ 0x40#7⟩, none)
  | .cvtDecE5m2 d a => some (⟨false, hd.m, 0x2C#6, hd.g, d ++ a ++ 0x48#7⟩, none)
  | .cvtDecS32 d a r => some (⟨false, hd.m, 0x2C#6, hd.g, d ++ a ++ 0xA#4 ++ r⟩, none)
  | .cvtDecN32 d a r => some (⟨false, hd.m, 0x2C#6, hd.g, d ++ a ++ 0xB#4 ++ r⟩, none)
  | .cvtPkBf16 d a r => some (⟨false, hd.m, 0x2C#6, hd.g, d ++ a ++ 0xC#4 ++ r⟩, none)
  | .cvtPkF16 d a r => some (⟨false, hd.m, 0x2C#6, hd.g, d ++ a ++ 0xD#4 ++ r⟩, none)
  | .cvtPk2E4m3 d a r => some (⟨false, hd.m, 0x2C#6, hd.g, d ++ a ++ 0xE#4 ++ r⟩, none)
  | .cvtPk2E5m2 d a r => some (⟨false, hd.m, 0x2C#6, hd.g, d ++ a ++ 0xF#4 ++ r⟩, none)
  | .cvtBlkPk d a r => some (⟨false, hd.m, 0x2D#6, hd.g, d ++ a ++ 0x0#6 ++ r⟩, none)
  | .cvtBlkEnc d a r => some (⟨false, hd.m, 0x2D#6, hd.g, d ++ a ++ 0x1#6 ++ r⟩, none)
  | .cvtBlkDec d a k => some (⟨false, hd.m, 0x2D#6, hd.g, d ++ a ++ 0x2#5 ++ k⟩, none)
  | .bscale d a => some (⟨false, hd.m, 0x2D#6, hd.g, d ++ a ++ 0x10#7⟩, none)
  | .bscaleKeepx d a => some (⟨false, hd.m, 0x2D#6, hd.g, d ++ a ++ 0x11#7⟩, none)
  | .rcp d a => some (⟨false, hd.m, 0x2E#6, hd.g, d ++ a ++ 0x0#7⟩, none)
  | .rsq d a => some (⟨false, hd.m, 0x2E#6, hd.g, d ++ a ++ 0x1#7⟩, none)
  | .sqrt d a => some (⟨false, hd.m, 0x2E#6, hd.g, d ++ a ++ 0x2#7⟩, none)
  | .exp2 d a => some (⟨false, hd.m, 0x2E#6, hd.g, d ++ a ++ 0x3#7⟩, none)
  | .log2 d a => some (⟨false, hd.m, 0x2E#6, hd.g, d ++ a ++ 0x4#7⟩, none)
  | .sin d a => some (⟨false, hd.m, 0x2E#6, hd.g, d ++ a ++ 0x5#7⟩, none)
  | .cos d a => some (⟨false, hd.m, 0x2E#6, hd.g, d ++ a ++ 0x6#7⟩, none)
  | .sincos d a => some (⟨false, hd.m, 0x2E#6, hd.g, d ++ a ++ 0x7#7⟩, none)
  | .tanh d a => some (⟨false, hd.m, 0x2E#6, hd.g, d ++ a ++ 0x8#7⟩, none)
  | .qxchPair d a => some (⟨false, hd.m, 0x2F#6, hd.g, d ++ a ++ 0x0#7⟩, none)
  | .qxchHalf d a => some (⟨false, hd.m, 0x2F#6, hd.g, d ++ a ++ 0x1#7⟩, none)
  | .qxchDiag d a => some (⟨false, hd.m, 0x2F#6, hd.g, d ++ a ++ 0x2#7⟩, none)
  | .qxchBc d a k => some (⟨false, hd.m, 0x2F#6, hd.g, d ++ a ++ 0x1#5 ++ k⟩, none)
  | .qred d a o => some (⟨false, hd.m, 0x2F#6, hd.g, d ++ a ++ 0x2#4 ++ o⟩, none)
  | .shflUp d a n => some (⟨false, hd.m, 0x30#6, hd.g, d ++ a ++ 0x0#2 ++ n⟩, none)
  | .shflDown d a n => some (⟨false, hd.m, 0x30#6, hd.g, d ++ a ++ 0x1#2 ++ n⟩, none)
  | .shflXor d a n => some (⟨false, hd.m, 0x30#6, hd.g, d ++ a ++ 0x2#2 ++ n⟩, none)
  | .perm d a b => some (⟨false, hd.m, 0x31#6, hd.g, d ++ a ++ b⟩, none)
  | .topkMax d a s => some (⟨false, hd.m, 0x32#6, hd.g, d ++ a ++ 0x0#1 ++ s⟩, none)
  | .topkMin d a s => some (⟨false, hd.m, 0x32#6, hd.g, d ++ a ++ 0x1#1 ++ s⟩, none)
  | .vx d i s => some (⟨false, hd.m, 0x33#6, hd.g, d ++ i ++ 0x0#1 ++ s⟩, none)
  | .vxw d i s => some (⟨false, hd.m, 0x33#6, hd.g, d ++ i ++ 0x1#1 ++ s⟩, none)
  | .ldB32 d a s => some (⟨false, hd.m, 0x34#6, hd.g, d ++ a ++ 0x0#1 ++ s ++ 0x0#1⟩, none)
  | .ldB64 d a s => some (⟨false, hd.m, 0x34#6, hd.g, d ++ a ++ 0x0#1 ++ s ++ 0x1#1⟩, none)
  | .stB32 d a s => some (⟨false, hd.m, 0x35#6, hd.g, d ++ a ++ 0x0#1 ++ s ++ 0x0#1⟩, none)
  | .stB64 d a s => some (⟨false, hd.m, 0x35#6, hd.g, d ++ a ++ 0x0#1 ++ s ++ 0x1#1⟩, none)
  | .ldsB32 d a s => some (⟨false, hd.m, 0x36#6, hd.g, d ++ a ++ 0x0#1 ++ s ++ 0x0#1⟩, none)
  | .ldsB64 d a s => some (⟨false, hd.m, 0x36#6, hd.g, d ++ a ++ 0x0#1 ++ s ++ 0x1#1⟩, none)
  | .stsB32 d a s => some (⟨false, hd.m, 0x37#6, hd.g, d ++ a ++ 0x0#1 ++ s ++ 0x0#1⟩, none)
  | .stsB64 d a s => some (⟨false, hd.m, 0x37#6, hd.g, d ++ a ++ 0x0#1 ++ s ++ 0x1#1⟩, none)
  | .ldB128 d a s => some (⟨false, hd.m, 0x38#6, hd.g, d ++ a ++ 0x0#1 ++ s ++ 0x0#1⟩, none)
  | .ldsB128 d a s => some (⟨false, hd.m, 0x38#6, hd.g, d ++ a ++ 0x0#1 ++ s ++ 0x1#1⟩, none)
  | .stB128 d a s => some (⟨false, hd.m, 0x39#6, hd.g, d ++ a ++ 0x0#1 ++ s ++ 0x0#1⟩, none)
  | .stsB128 d a s => some (⟨false, hd.m, 0x39#6, hd.g, d ++ a ++ 0x0#1 ++ s ++ 0x1#1⟩, none)
  | .ldN8 d a s => some (⟨false, hd.m, 0x3A#6, hd.g, d ++ a ++ 0x0#4 ++ s⟩, none)
  | .ldS8 d a s => some (⟨false, hd.m, 0x3A#6, hd.g, d ++ a ++ 0x1#4 ++ s⟩, none)
  | .ldN16 d a s => some (⟨false, hd.m, 0x3A#6, hd.g, d ++ a ++ 0x2#4 ++ s⟩, none)
  | .ldS16 d a s => some (⟨false, hd.m, 0x3A#6, hd.g, d ++ a ++ 0x3#4 ++ s⟩, none)
  | .stB8 d a s => some (⟨false, hd.m, 0x3A#6, hd.g, d ++ a ++ 0x4#4 ++ s⟩, none)
  | .stB16 d a s => some (⟨false, hd.m, 0x3A#6, hd.g, d ++ a ++ 0x5#4 ++ s⟩, none)
  | .ldsN8 d a s => some (⟨false, hd.m, 0x3A#6, hd.g, d ++ a ++ 0x6#4 ++ s⟩, none)
  | .ldsN16 d a s => some (⟨false, hd.m, 0x3A#6, hd.g, d ++ a ++ 0x7#4 ++ s⟩, none)
  | .stsB8 d a s => some (⟨false, hd.m, 0x3A#6, hd.g, d ++ a ++ 0x8#4 ++ s⟩, none)
  | .stsB16 d a s => some (⟨false, hd.m, 0x3A#6, hd.g, d ++ a ++ 0x9#4 ++ s⟩, none)
  | .ldyB32 d a s => some (⟨false, hd.m, 0x3A#6, hd.g, d ++ a ++ 0xA#4 ++ s⟩, none)
  | .pref l a s => some (⟨false, hd.m, 0x3A#6, hd.g, 0x0#6 ++ l ++ a ++ 0xB#4 ++ s⟩, none)
  | .ldkv d a s => some (⟨false, hd.m, 0x3A#6, hd.g, d ++ a ++ 0xC#4 ++ s⟩, none)
  | .ldkvTrap d a s => some (⟨false, hd.m, 0x3A#6, hd.g, d ++ a ++ 0xD#4 ++ s⟩, none)
  | .dldB32 n a s => some (⟨false, hd.m, 0x3A#6, hd.g, n ++ a ++ 0xE#4 ++ s⟩, none)
  | .dstB32 n a s => some (⟨false, hd.m, 0x3A#6, hd.g, n ++ a ++ 0xF#4 ++ s⟩, none)
  | .accrd d a t f r => some (⟨false, hd.m, 0x3B#6, hd.g, d ++ a ++ t ++ f ++ r⟩, none)
  | .accwr d a t => some (⟨false, hd.m, 0x3B#6, hd.g, d ++ a ++ t ++ 0x1F#5⟩, none)
  | .atom d a o p w => some (⟨false, hd.m, 0x3C#6, hd.g, d ++ a ++ o ++ p ++ w⟩, none)
  | .cas d a p w => some (⟨false, hd.m, 0x3C#6, hd.g, d ++ a ++ 0xA#4 ++ p ++ w⟩, none)
  | .atomPub d a o p w => some (⟨false, hd.m, 0x3D#6, hd.g, d ++ a ++ o ++ p ++ w⟩, none)
  | .casPub d a p w => some (⟨false, hd.m, 0x3D#6, hd.g, d ++ a ++ 0xA#4 ++ p ++ w⟩, none)
  | .red d a o p w => some (⟨false, hd.m, 0x3E#6, hd.g, d ++ a ++ o ++ p ++ w⟩, none)
  | .ldSub d a p w => some (⟨false, hd.m, 0x3E#6, hd.g, d ++ a ++ 0xF#4 ++ p ++ w⟩, none)
  | .minN32 d a => some (⟨false, hd.m, 0x3F#6, hd.g, d ++ a ++ 0x0#7⟩, none)
  | .maxN32 d a => some (⟨false, hd.m, 0x3F#6, hd.g, d ++ a ++ 0x1#7⟩, none)
  | .rot d a => some (⟨false, hd.m, 0x3F#6, hd.g, d ++ a ++ 0x2#7⟩, none)
  | .rotr d a => some (⟨false, hd.m, 0x3F#6, hd.g, d ++ a ++ 0x3#7⟩, none)
  | .addS32Sat d a => some (⟨false, hd.m, 0x3F#6, hd.g, d ++ a ++ 0x4#7⟩, none)
  | .subS32Sat d a => some (⟨false, hd.m, 0x3F#6, hd.g, d ++ a ++ 0x5#7⟩, none)
  | .sel d a n => some (⟨false, hd.m, 0x3F#6, hd.g, d ++ a ++ 0x1#4 ++ n⟩, none)
  | .selNot d a n => some (⟨false, hd.m, 0x3F#6, hd.g, d ++ a ++ 0x2#4 ++ n⟩, none)
  | .sadd d a b => some (⟨true, hd.m, 0x00#6, hd.g, d ++ a ++ b ++ 0x0#3⟩, none)
  | .ssub d a b => some (⟨true, hd.m, 0x00#6, hd.g, d ++ a ++ b ++ 0x1#3⟩, none)
  | .sand d a b => some (⟨true, hd.m, 0x00#6, hd.g, d ++ a ++ b ++ 0x2#3⟩, none)
  | .sor d a b => some (⟨true, hd.m, 0x00#6, hd.g, d ++ a ++ b ++ 0x3#3⟩, none)
  | .sxor d a b => some (⟨true, hd.m, 0x00#6, hd.g, d ++ a ++ b ++ 0x4#3⟩, none)
  | .sshl d a b => some (⟨true, hd.m, 0x00#6, hd.g, d ++ a ++ b ++ 0x5#3⟩, none)
  | .sshrN32 d a b => some (⟨true, hd.m, 0x00#6, hd.g, d ++ a ++ b ++ 0x6#3⟩, none)
  | .sshrS32 d a b => some (⟨true, hd.m, 0x00#6, hd.g, d ++ a ++ b ++ 0x7#3⟩, none)
  | .smul d a b => some (⟨true, hd.m, 0x01#6, hd.g, d ++ a ++ b ++ 0x0#3⟩, none)
  | .smulhS32 d a b => some (⟨true, hd.m, 0x01#6, hd.g, d ++ a ++ b ++ 0x1#3⟩, none)
  | .smulhN32 d a b => some (⟨true, hd.m, 0x01#6, hd.g, d ++ a ++ b ++ 0x2#3⟩, none)
  | .sminS32 d a b => some (⟨true, hd.m, 0x01#6, hd.g, d ++ a ++ b ++ 0x3#3⟩, none)
  | .smaxS32 d a b => some (⟨true, hd.m, 0x01#6, hd.g, d ++ a ++ b ++ 0x4#3⟩, none)
  | .sminN32 d a b => some (⟨true, hd.m, 0x01#6, hd.g, d ++ a ++ b ++ 0x5#3⟩, none)
  | .smaxN32 d a b => some (⟨true, hd.m, 0x01#6, hd.g, d ++ a ++ b ++ 0x6#3⟩, none)
  | .srot d a b => some (⟨true, hd.m, 0x01#6, hd.g, d ++ a ++ b ++ 0x7#3⟩, none)
  | .saddB64 d a b => some (⟨true, hd.m, 0x02#6, hd.g, d ++ a ++ b ++ 0x0#3⟩, none)
  | .ssubB64 d a b => some (⟨true, hd.m, 0x02#6, hd.g, d ++ a ++ b ++ 0x1#3⟩, none)
  | .sandB64 d a b => some (⟨true, hd.m, 0x02#6, hd.g, d ++ a ++ b ++ 0x2#3⟩, none)
  | .sorB64 d a b => some (⟨true, hd.m, 0x02#6, hd.g, d ++ a ++ b ++ 0x3#3⟩, none)
  | .sxorB64 d a b => some (⟨true, hd.m, 0x02#6, hd.g, d ++ a ++ b ++ 0x4#3⟩, none)
  | .sshlB64 d a b => some (⟨true, hd.m, 0x02#6, hd.g, d ++ a ++ b ++ 0x5#3⟩, none)
  | .sshrN64 d a b => some (⟨true, hd.m, 0x02#6, hd.g, d ++ a ++ b ++ 0x6#3⟩, none)
  | .sshrS64 d a b => some (⟨true, hd.m, 0x02#6, hd.g, d ++ a ++ b ++ 0x7#3⟩, none)
  | .smov d a => some (⟨true, hd.m, 0x03#6, hd.g, d ++ a ++ 0x0#9⟩, none)
  | .snot d a => some (⟨true, hd.m, 0x03#6, hd.g, d ++ a ++ 0x1#9⟩, none)
  | .spopc d a => some (⟨true, hd.m, 0x03#6, hd.g, d ++ a ++ 0x2#9⟩, none)
  | .sclz d a => some (⟨true, hd.m, 0x03#6, hd.g, d ++ a ++ 0x3#9⟩, none)
  | .sbrev d a => some (⟨true, hd.m, 0x03#6, hd.g, d ++ a ++ 0x4#9⟩, none)
  | .sbfeN32 d a b => some (⟨true, hd.m, 0x03#6, hd.g, d ++ a ++ b ++ 0x5#3⟩, none)
  | .sbfeS32 d a b => some (⟨true, hd.m, 0x03#6, hd.g, d ++ a ++ b ++ 0x6#3⟩, none)
  | .sbfi d a b => some (⟨true, hd.m, 0x03#6, hd.g, d ++ a ++ b ++ 0x7#3⟩, none)
  | .sset e a b k => some (⟨true, hd.m, 0x04#6, hd.g, 0x0#3 ++ e ++ a ++ b ++ k⟩, none)
  | .ssel d a b n => some (⟨true, hd.m, 0x05#6, hd.g, d ++ a ++ b ++ n⟩, none)
  | .saddi d i => some (⟨true, hd.m, 0x06#6, hd.g, d ++ i⟩, none)
  | .smovi d i => some (⟨true, hd.m, 0x07#6, hd.g, d ++ i⟩, none)
  | .slit d lit => some (⟨true, hd.m, 0x08#6, hd.g, d ++ 0x0#15⟩, some lit)
  | .slitAdd d lit => some (⟨true, hd.m, 0x08#6, hd.g, d ++ 0x1#15⟩, some lit)
  | .slitAnd d lit => some (⟨true, hd.m, 0x08#6, hd.g, d ++ 0x2#15⟩, some lit)
  | .slitOr d lit => some (⟨true, hd.m, 0x08#6, hd.g, d ++ 0x3#15⟩, some lit)
  | .slitXor d lit => some (⟨true, hd.m, 0x08#6, hd.g, d ++ 0x4#15⟩, some lit)
  | .sreg d i => some (⟨true, hd.m, 0x09#6, hd.g, d ++ 0x0#9 ++ i⟩, none)
  | .sandi d i => some (⟨true, hd.m, 0x0A#6, hd.g, d ++ i⟩, none)
  | .sori d i => some (⟨true, hd.m, 0x0B#6, hd.g, d ++ i⟩, none)
  | .sxori d i => some (⟨true, hd.m, 0x0C#6, hd.g, d ++ i⟩, none)
  | .qlop e f h t => some (⟨true, hd.m, 0x0D#6, hd.g, e ++ f ++ h ++ t ++ 0x0#8⟩, none)
  | .bra o => some (⟨true, hd.m, 0x14#6, hd.g, o⟩, none)
  | .call o => some (⟨true, hd.m, 0x15#6, hd.g, o⟩, none)
  | .jmp a => some (⟨true, hd.m, 0x16#6, hd.g, 0x0#6 ++ a ++ 0x0#9⟩, none)
  | .jmpCall a => some (⟨true, hd.m, 0x16#6, hd.g, 0x1#6 ++ a ++ 0x0#9⟩, none)
  | .jmpT n o => some (⟨true, hd.m, 0x16#6, hd.g, 0x1#3 ++ n ++ o⟩, none)
  | .jmpF n o => some (⟨true, hd.m, 0x16#6, hd.g, 0x2#3 ++ n ++ o⟩, none)
  | .conv a => some (⟨true, hd.m, 0x18#6, hd.g, 0x0#6 ++ a ++ 0x0#9⟩, none)
  | .loop d i => some (⟨true, hd.m, 0x19#6, hd.g, d ++ i⟩, none)
  | .spawnL a b n => some (⟨true, hd.m, 0x21#6, hd.g, 0x0#6 ++ a ++ b ++ n⟩, none)
  | .spawnG a b => some (⟨true, hd.m, 0x22#6, hd.g, 0x0#6 ++ a ++ b ++ 0x0#3⟩, none)
  | .spawnB a b => some (⟨true, hd.m, 0x23#6, hd.g, 0x0#6 ++ a ++ b ++ 0x0#3⟩, none)
  | .barArrive i a b => some (⟨true, hd.m, 0x25#6, hd.g, 0x0#2 ++ i ++ a ++ b ++ 0x0#3⟩, none)
  | .barWait i b => some (⟨true, hd.m, 0x25#6, hd.g, 0x0#2 ++ i ++ 0x0#6 ++ b ++ 0x1#3⟩, none)
  | .barSync i a => some (⟨true, hd.m, 0x25#6, hd.g, 0x0#2 ++ i ++ a ++ 0x2#9⟩, none)
  | .barArriveClu i a b => some (⟨true, hd.m, 0x25#6, hd.g, 0x0#3 ++ i ++ a ++ b ++ 0x4#3⟩, none)
  | .barWaitClu i b => some (⟨true, hd.m, 0x25#6, hd.g, 0x0#3 ++ i ++ 0x0#6 ++ b ++ 0x5#3⟩, none)
  | .barSyncClu i a => some (⟨true, hd.m, 0x25#6, hd.g, 0x0#3 ++ i ++ a ++ 0x6#9⟩, none)
  | .waitge a b => some (⟨true, hd.m, 0x26#6, hd.g, 0x0#6 ++ a ++ b ++ 0x0#3⟩, none)
  | .waitgeSys a b => some (⟨true, hd.m, 0x26#6, hd.g, 0x1#6 ++ a ++ b ++ 0x0#3⟩, none)
  | .sld d a b k => some (⟨true, hd.m, 0x28#6, hd.g, d ++ a ++ b ++ k⟩, none)
  | .sst d a b k => some (⟨true, hd.m, 0x29#6, hd.g, d ++ a ++ b ++ k⟩, none)
  | .satom o a b p w => some (⟨true, hd.m, 0x2A#6, hd.g, o ++ 0x0#2 ++ a ++ b ++ p ++ w⟩, none)
  | .satomPub o a b p w => some (⟨true, hd.m, 0x2B#6, hd.g, o ++ 0x0#2 ++ a ++ b ++ p ++ w⟩, none)
  | .chain c a => some (⟨true, hd.m, 0x30#6, hd.g, 0x0#5 ++ c ++ a ++ 0x0#9⟩, none)
  | .mcmd a => some (⟨true, hd.m, 0x31#6, hd.g, 0x0#6 ++ a ++ 0x0#9⟩, none)
  | .attn a => some (⟨true, hd.m, 0x32#6, hd.g, 0x0#6 ++ a ++ 0x0#9⟩, none)
  | .unmask a => some (⟨true, hd.m, 0x33#6, hd.g, 0x0#6 ++ a ++ 0x0#9⟩, none)
  | .coll a => some (⟨true, hd.m, 0x34#6, hd.g, 0x0#6 ++ a ++ 0x0#9⟩, none)
  | .ship a => some (⟨true, hd.m, 0x35#6, hd.g, 0x0#6 ++ a ++ 0x0#9⟩, none)
  | .replay a b => some (⟨true, hd.m, 0x36#6, hd.g, 0x0#6 ++ a ++ b ++ 0x0#3⟩, none)
  | .csrr d c => some (⟨true, hd.m, 0x3C#6, hd.g, d ++ 0x0#3 ++ c⟩, none)
  | .csrw d c => some (⟨true, hd.m, 0x3C#6, hd.g, d ++ 0x4#3 ++ c⟩, none)
  | .trap a r => some (⟨true, hd.m, 0x3D#6, hd.g, 0x1#6 ++ a ++ 0x0#6 ++ r⟩, none)
  | .asgen a b => some (⟨true, hd.m, 0x3E#6, hd.g, 0x0#6 ++ a ++ b ++ 0x0#3⟩, none)
  | .tlbiAsid a => some (⟨true, hd.m, 0x3E#6, hd.g, 0x1#6 ++ a ++ 0x0#9⟩, none)
  | .tlbiPage a b => some (⟨true, hd.m, 0x3E#6, hd.g, 0x2#6 ++ a ++ b ++ 0x0#3⟩, none)
  | .ctxsvStop a b => some (⟨true, hd.m, 0x3F#6, hd.g, 0x0#6 ++ a ++ b ++ 0x0#3⟩, none)
  | .ctxsvPart b k => some (⟨true, hd.m, 0x3F#6, hd.g, 0x40#12 ++ b ++ k⟩, none)
  | .ctxldPlace a b => some (⟨true, hd.m, 0x3F#6, hd.g, 0x8#6 ++ a ++ b ++ 0x0#3⟩, none)
  | .ctxldPart b k => some (⟨true, hd.m, 0x3F#6, hd.g, 0x240#12 ++ b ++ k⟩, none)
  | .ret  => some (⟨true, hd.m, 0x17#6, hd.g, 0x0#21⟩, none)
  | .convAll  => some (⟨true, hd.m, 0x18#6, hd.g, 0x8000#21⟩, none)
  | .exit  => some (⟨true, hd.m, 0x1A#6, hd.g, 0x0#21⟩, none)
  | .frameOpen  => some (⟨true, hd.m, 0x20#6, hd.g, 0x0#21⟩, none)
  | .await  => some (⟨true, hd.m, 0x24#6, hd.g, 0x0#21⟩, none)
  | .yield  => some (⟨true, hd.m, 0x27#6, hd.g, 0x0#21⟩, none)
  | .nop  => some (⟨true, hd.m, 0x3D#6, hd.g, 0x0#21⟩, none)
  | .eret  => some (⟨true, hd.m, 0x3D#6, hd.g, 0x10000#21⟩, none)
  | .brk  => some (⟨true, hd.m, 0x3D#6, hd.g, 0x18000#21⟩, none)
  | .tlbiAll  => some (⟨true, hd.m, 0x3E#6, hd.g, 0x18000#21⟩, none)
  | .ctxsvRelease  => some (⟨true, hd.m, 0x3F#6, hd.g, 0x10000#21⟩, none)
  | .ctxldResume  => some (⟨true, hd.m, 0x3F#6, hd.g, 0x50000#21⟩, none)
  | _ => none

/-- The words of an instruction; none for an event. -/
def encode (h : Hdr) (i : Instr) : List Word :=
  match i.fields h with
  | some (f, some lit) => [pack f, lit]
  | some (f, none) => [pack f]
  | none => []

/-- The direct lane registers an instruction names by its register fields, pairs and quadruples by their first (R19). -/
def Instr.laneRegs : Instr → List (BitVec 7)
  | .addB32 d a b => [d, a, b]
  | .subB32 d a b => [d, a, b]
  | .addB64 d a b => [d, a, b]
  | .mulB32 d a b => [d, a, b]
  | .mulhS32 d a b => [d, a, b]
  | .mulhN32 d a b => [d, a, b]
  | .macB32 d a b => [d, a, b]
  | .minS32 d a b => [d, a, b]
  | .maxS32 d a b => [d, a, b]
  | .and d a b => [d, a, b]
  | .or d a b => [d, a, b]
  | .xor d a b => [d, a, b]
  | .shl d a b => [d, a, b]
  | .shrN32 d a b => [d, a, b]
  | .shrS32 d a b => [d, a, b]
  | .fsh d a b => [d, a, b]
  | .bfe d a b => [d, a, b]
  | .bfi d a b => [d, a, b]
  | .mov d a => [d, a]
  | .shlImm d a _ => [d, a]
  | .not d a => [d, a]
  | .shrN32Imm d a _ => [d, a]
  | .neg d a => [d, a]
  | .shrS32Imm d a _ => [d, a]
  | .absS32 d a => [d, a]
  | .popc d a => [d, a]
  | .clz d a => [d, a]
  | .brev d a => [d, a]
  | .movSpecial d _ => [d]
  | .rotImm d a _ => [d, a]
  | .lea d a _ => [d, a]
  | .leaX4 d a _ => [d, a]
  | .movi d _ => [d]
  | .addi d _ => [d]
  | .cmpi _ a b _ => [a, b]
  | .faddF32 d a b => [d, a, b]
  | .fsubF32 d a b => [d, a, b]
  | .fmulF32 d a b => [d, a, b]
  | .fmacF32 d a b => [d, a, b]
  | .fmaF32 d a _ => [d, a]
  | .fmaF32Neg d a _ => [d, a]
  | .fminF32 d a b => [d, a, b]
  | .fmaxF32 d a b => [d, a, b]
  | .cmpf _ a b _ => [a, b]
  | .fabsF32 d a => [d, a]
  | .fnegF32 d a => [d, a]
  | .fclassF32 d a => [d, a]
  | .frndF32 d a _ => [d, a]
  | .hadd2Bf16 d a b => [d, a, b]
  | .hmul2Bf16 d a b => [d, a, b]
  | .hfma2Bf16 d a b => [d, a, b]
  | .hadd2F16 d a b => [d, a, b]
  | .hmul2F16 d a b => [d, a, b]
  | .hfma2F16 d a b => [d, a, b]
  | .dot4E4m3 d a b => [d, a, b]
  | .faddF322a d a _ _ => [d, a]
  | .fsubF322a d a _ _ => [d, a]
  | .fmulF322a d a _ _ => [d, a]
  | .hadd2Bf162a d a _ _ => [d, a]
  | .hmul2Bf162a d a _ _ => [d, a]
  | .hadd2F162a d a _ _ => [d, a]
  | .hmul2F162a d a _ _ => [d, a]
  | .cvtEncF16 d a _ => [d, a]
  | .cvtEncBf16 d a _ => [d, a]
  | .cvtEncE4m3 d a _ => [d, a]
  | .cvtEncE5m2 d a _ => [d, a]
  | .cvtEncS32 d a _ => [d, a]
  | .cvtEncN32 d a _ => [d, a]
  | .cvtDecF16 d a => [d, a]
  | .cvtDecBf16 d a => [d, a]
  | .cvtDecE4m3 d a => [d, a]
  | .cvtDecE5m2 d a => [d, a]
  | .cvtDecS32 d a _ => [d, a]
  | .cvtDecN32 d a _ => [d, a]
  | .cvtPkBf16 d a _ => [d, a]
  | .cvtPkF16 d a _ => [d, a]
  | .cvtPk2E4m3 d a _ => [d, a]
  | .cvtPk2E5m2 d a _ => [d, a]
  | .cvtBlkPk d a _ => [d, a]
  | .cvtBlkEnc d a _ => [d, a]
  | .cvtBlkDec d a _ => [d, a]
  | .bscale d a => [d, a]
  | .bscaleKeepx d a => [d, a]
  | .rcp d a => [d, a]
  | .rsq d a => [d, a]
  | .sqrt d a => [d, a]
  | .exp2 d a => [d, a]
  | .log2 d a => [d, a]
  | .sin d a => [d, a]
  | .cos d a => [d, a]
  | .sincos d a => [d, a]
  | .tanh d a => [d, a]
  | .qxchPair d a => [d, a]
  | .qxchHalf d a => [d, a]
  | .qxchDiag d a => [d, a]
  | .qxchBc d a _ => [d, a]
  | .qred d a _ => [d, a]
  | .shflUp d a _ => [d, a]
  | .shflDown d a _ => [d, a]
  | .shflXor d a _ => [d, a]
  | .perm d a b => [d, a, b]
  | .topkMax d a _ => [d, a]
  | .topkMin d a _ => [d, a]
  | .vx d _ _ => [d]
  | .vxw d _ _ => [d]
  | .ldB32 d a _ => [d, a]
  | .ldB64 d a _ => [d, a]
  | .stB32 d a _ => [d, a]
  | .stB64 d a _ => [d, a]
  | .ldsB32 d a _ => [d, a]
  | .ldsB64 d a _ => [d, a]
  | .stsB32 d a _ => [d, a]
  | .stsB64 d a _ => [d, a]
  | .ldB128 d a _ => [d, a]
  | .ldsB128 d a _ => [d, a]
  | .stB128 d a _ => [d, a]
  | .stsB128 d a _ => [d, a]
  | .ldN8 d a _ => [d, a]
  | .ldS8 d a _ => [d, a]
  | .ldN16 d a _ => [d, a]
  | .ldS16 d a _ => [d, a]
  | .stB8 d a _ => [d, a]
  | .stB16 d a _ => [d, a]
  | .ldsN8 d a _ => [d, a]
  | .ldsN16 d a _ => [d, a]
  | .stsB8 d a _ => [d, a]
  | .stsB16 d a _ => [d, a]
  | .ldyB32 d a _ => [d, a]
  | .pref _ a _ => [a]
  | .ldkv d a _ => [d, a]
  | .ldkvTrap d a _ => [d, a]
  | .dldB32 _ a _ => [a]
  | .dstB32 _ a _ => [a]
  | .accrd d a _ _ _ => [d, a]
  | .accwr d a _ => [d, a]
  | .atom d a _ _ _ => [d, a]
  | .cas d a _ _ => [d, a]
  | .atomPub d a _ _ _ => [d, a]
  | .casPub d a _ _ => [d, a]
  | .red d a _ _ _ => [d, a]
  | .ldSub d a _ _ => [d, a]
  | .minN32 d a => [d, a]
  | .maxN32 d a => [d, a]
  | .rot d a => [d, a]
  | .rotr d a => [d, a]
  | .addS32Sat d a => [d, a]
  | .subS32Sat d a => [d, a]
  | .sel d a _ => [d, a]
  | .selNot d a _ => [d, a]
  | .spawnL _ b _ => if b = 63#6 then [] else [b ++ 0#1]
  | _ => []

/-- R19: every direct register that an instruction names lies below the rounded declaration N, or is v127. -/
def Instr.regsOk (i : Instr) (n : Nat) : Bool := i.laneRegs.all (fun r => decide (r.toNat < n) || r == 127#7)

end Sys2Proof
end

