-- ==== Sys2Proof/Machine/Map.lean ====
section
/-! DEFINITION. Finite maps held as sorted lists of key and value pairs: the one shape of every register file, table and
memory of the state. -/

namespace Sys2Proof.Machine

/-- Pairs of a key and a value, keys strictly rising. -/
abbrev FMap (α : Type) := List (Nat × α)

/-- The value listed at a key, the first one if a key stands twice. -/
def FMap.get? {α : Type} : FMap α → Nat → Option α
  | [], _ => none
  | (k', v) :: m, k => if k' = k then some v else FMap.get? m k

/-- The value at a key, or what an unlisted key reads as. -/
def FMap.getD {α : Type} (m : FMap α) (k : Nat) (d : α) : α := (FMap.get? m k).getD d

/-- The map with a key's entries taken out. -/
def FMap.erase {α : Type} (m : FMap α) (k : Nat) : FMap α := m.filter (fun e => e.1 ≠ k)

/-- The map with an entry put before the first larger key. -/
def FMap.insert {α : Type} : FMap α → Nat → α → FMap α
  | [], k, v => [(k, v)]
  | (k', v') :: m, k, v => if k < k' then (k, v) :: (k', v') :: m else (k', v') :: FMap.insert m k v

/-- The map with a key set to a value. -/
def FMap.put {α : Type} (m : FMap α) (k : Nat) (v : α) : FMap α := FMap.insert (FMap.erase m k) k v

/-- The map with a key's value changed by a function, from what an unlisted key reads as. -/
def FMap.upd {α : Type} (m : FMap α) (k : Nat) (d : α) (f : α → α) : FMap α := FMap.put m k (f (FMap.getD m k d))

/-- Every listed value changed by a function of its key. -/
def FMap.mapV {α : Type} (m : FMap α) (f : Nat → α → α) : FMap α := m.map (fun e => (e.1, f e.1 e.2))

/-- The keys that are listed, in order. -/
def FMap.keys {α : Type} (m : FMap α) : List Nat := m.map (·.1)

/-- Keys strictly rising. -/
def FMap.sorted {α : Type} : FMap α → Bool
  | [] => true
  | [_] => true
  | (k, _) :: (k', v') :: m => decide (k < k') && FMap.sorted ((k', v') :: m)

end Sys2Proof.Machine
end

