-- ==== Sys2Proof/Machine/State.lean ====
section
/-! DEFINITION. The state of the ZH-940 as plain data: everything spec/ gives the package, its dies, cores, contexts, blocks,
groups and lanes, the work its engines hold, and the accesses in flight. INVENTORY.md lists each piece with its rule. -/

namespace Sys2Proof.Machine

/-- The two fittings (R2, R352). -/
inductive Fitting
  | c
  | m
deriving DecidableEq, Repr

/-! ## Registers, lanes and groups -/

/-- A 32-bit register with its poison tag (R24). -/
structure Reg where
  val : Word := 0
  tag : Bool := false
deriving DecidableEq, Repr

/-- Where a result goes: a lane's direct or deep register or predicate, a uniform register or predicate. -/
inductive Dst
  | v (r l : Nat)
  | deep (r l : Nat)
  | s (r : Nat)
  | p (r l : Nat)
  | q (r : Nat)
deriving DecidableEq, Repr

/-- A fault record (R396). -/
structure FaultRec where
  cause : Byte := 0
  kind : Byte := 0
  flags : Byte := 0
  kvst : Byte := 0
  width : Byte := 0
  dreg : Byte := 0
  dspace : Byte := 3
  pc : DWord := 0
  resume : DWord := 0
  addr : DWord := 0
  word : Word := 0
  code : Word := 0
  data : BitVec 128 := 0
  asid : BitVec 16 := 0
  gen : BitVec 16 := 0
deriving DecidableEq, Repr

/-- How loaded bytes fill registers (R159, R160): whole words, or one byte or half extended. -/
inductive LoadForm
  | words
  | n8
  | s8
  | n16
  | s16
deriving DecidableEq, Repr

/-- Where an access is performed (R167): plain accesses, LDY at the home slice, or a meeting point. -/
inductive MeetPt
  | plain
  | home
  | blk
  | clu
  | ten
  | sys
deriving DecidableEq, Repr

/-- What an access does. LDKV carries its position and word index (R164). -/
inductive AccKind
  | load (n : Nat) (form : LoadForm)
  | store (data : List Byte)
  | atomic (op : AtomOp) (wide : Bool) (x y : DWord) (ret pub sub : Bool)
  | kv (pos w : Nat) (trap : Bool)
  | pref (l1 : Bool)
deriving DecidableEq, Repr

/-- A global access that has left its core or engine and has not yet been performed (R330, R246). `id` names the issue that made it,
`mask` the lanes that its failure parks, `span` the bytes of the line that its instruction's request covers (R337), `kids` the children it is
made for, `child` the deterministic ones that hold its writes. -/
structure Access where
  id : Nat
  gid : Nat
  lane : Option Nat
  op : Option Nat
  die : Nat
  core : Nat
  ctx : Nat
  ring : BitVec 2
  asid : Nat
  gen : BitVec 16
  va : DWord
  pa : Nat
  cbit : Bool
  mp : MeetPt
  kind : AccKind
  child : List Nat
  pend : Option Nat
  dsts : List (Option Dst)
  mask : Word
  pc : DWord
  word : Word
  published : Bool
  full : Bool
  span : Nat × Nat := (0, 128)
  kids : List Nat := []
deriving DecidableEq, Repr

/-- Whether an outstanding result has come back (R224, R227): `bad` has arrived as a fault, `failed` has been reported. -/
inductive PendSt
  | waiting
  | ready (vals : List Reg)
  | bad (r : FaultRec)
  | failed (r : FaultRec)
deriving DecidableEq, Repr

/-- An outstanding variable-latency result (R224): its destinations (none where a later write has overtaken it, R226), whether
it is a memory result (R232), for a load-type access what is executed again on resume (R154), and in such a repeat that its lanes stay parked until
it is in. -/
structure Pend where
  id : Nat
  lane : Option Nat
  dsts : List (Option Dst)
  st : PendSt
  mem : Bool
  acc : Option Access
  mask : Word
  wake : Bool := false
deriving DecidableEq, Repr

/-- Lane states (R215). -/
inductive LaneSt
  | ready
  | waiting
  | parked
  | stopped
  | idle
  | ended
deriving DecidableEq, Repr

/-- One lane of a group (R128, R132, R214, R215, R218): `redo` holds what each of its traps has executed again when it returns (R154), under the
trap's name, or under 0 once the trap has returned and the group has no place yet. -/
structure Lane where
  st : LaneSt := .ended
  helper : Bool := false
  pc : DWord := 0
  strand : Word := 0
  child : Option Nat := none
  rstack : List DWord := []
  convMask : Word := 0
  fault : FaultRec := { dspace := 0 }
  redo : List (Nat × Access) := []
  buf : List (DWord × BitVec 16 × Word) := []
deriving DecidableEq, Repr

/-- What parks a group as a whole (R215): every one but a barrier, an ASGEN, a TLBI, an AWAIT and a back-off issues its
instruction again when it wakes, and a WAITGE only when it has not passed. A back-off that an S marker covers turns into its wait. -/
inductive GWait
  | run
  | smark
  | drain
  | barrier (clu : Bool) (id : Nat) (token : Bool)
  | waitge (sys : Bool) (pa : Nat) (v : DWord)
  | queue
  | tile
  | presence
  | pool
  | childRoom
  | await
  | awaitPlace
  | asgen (asid : Nat) (res : Nat) (smark : Bool)
  | tlbi (fn : Nat) (asid : Nat) (va : DWord) (smark : Bool)
  | ctxForm
  | ldy (until_ : Nat) (smark : Bool)
deriving DecidableEq, Repr

/-- Debug state of a group (R415). -/
inductive DbgSt
  | run
  | stopped
  | step
deriving DecidableEq, Repr

/-- Why a group issues nothing until another party lets it (R223, R401, R407, R378). -/
structure Holds where
  trap : Option Nat := none
  line : Bool := false
  switch : Bool := false
deriving DecidableEq, Repr

/-- What a group is (R212, R213, R23): a group of a launched or spawned block, a free-standing group child, a strand group, a handler. -/
inductive GKind
  | block
  | child
  | strand
  | handler (trap : Nat) (rung : Nat) (since : Option Nat)
deriving DecidableEq, Repr

/-- Where a group's state is: on its quarter, in a continuation slot (R140, R380), or in a switch image (R377). -/
inductive GLoc
  | resident
  | cont (slot : DWord)
  | saved
deriving DecidableEq, Repr

/-- A group (R212-R235); `rejects` holds the rejected stores not yet reported, with their lanes (R154, R225); `busy` is the
cycle at which its issue interval has run out (R231), `again` the address of a chosen set that has waited and is to issue first (R219). -/
structure Group where
  die : Nat := 0
  core : Nat := 0
  quarter : Nat := 0
  place : Nat := 0
  ctx : Nat := 0
  block : Nat := 0
  grp : Nat := 0
  ring : BitVec 2 := 0
  kind : GKind := .block
  launch : Nat := 0
  nregs : Nat := 128
  ndeep : Nat := 128
  v : FMap Reg := []
  deep : FMap Reg := []
  s : FMap Reg := []
  p : FMap Word := []
  q : BitVec 8 := 0x80
  lanes : List Lane := List.replicate 32 {}
  b : DWord := 0
  leader : Nat := 31
  sub : Nat := 0
  again : Option DWord := none
  pend : List Pend := []
  rejects : List (FaultRec × Word) := []
  wait : GWait := .run
  holds : Holds := {}
  dbg : DbgSt := .run
  ldy : Nat := 0
  frames : List Nat := []
  ops : List Nat := []
  child : Option Nat := none
  active : Bool := true
  lastIssue : Nat := 0
  entered : Nat := 0
  readySince : Nat := 0
  busy : Nat := 0
  loc : GLoc := .resident
  mask : Word := 0
deriving DecidableEq, Repr

/-- A barrier (R142). -/
structure Bar where
  phase : Bool := false
  arrivals : Nat := 0
  expected : Nat := 0
  waiters : List Nat := []
deriving DecidableEq, Repr

/-- A kernel descriptor as the launch or the SPAWN read it (R312). -/
structure Kernel where
  idx : Nat := 0
  code : DWord := 0
  codelen : Nat := 0
  regs : Nat := 8
  deep : Nat := 0
  groups : Nat := 1
  tiles : Nat := 0
  gang : Bool := false
  clu : Nat := 1
  spad : Nat := 0
  frames : Nat := 0
  entries : List DWord := []
deriving DecidableEq, Repr

/-- A block (R31, R142, R153, R213, R241, R437); `free` for the one-group block that a free-standing group is (R142). A block that is on no
core has core 65535. Presence is held as the list of absent lines, poison as the list of
marked lines; bytes that are not listed read zero. -/
structure Block where
  die : Nat := 0
  core : Nat := 0
  ctx : Nat := 0
  launch : Nat := 0
  kernel : Kernel := {}
  child : Option Nat := none
  groups : List Nat := []
  tiles : List Nat := []
  spad : FMap Byte := []
  absent : List Nat := []
  marked : List Nat := []
  bars : FMap Bar := []
  cluster : Nat := 0
  bx : Nat := 0
  by_ : Nat := 0
  bz : Nat := 0
  gx : Nat := 1
  gy : Nat := 1
  gz : Nat := 1
  seq : Nat := 0
  handler : Bool := false
  free : Bool := false
deriving DecidableEq, Repr

/-- A cluster of blocks with its eight barriers (R142, R213). -/
structure Cluster where
  blocks : List Nat := []
  bars : FMap Bar := []
deriving DecidableEq, Repr

/-! ## Frames and children -/

/-- A live frame record (R266) with what the spawn unit keeps of it: the group, the context and die, the root launch whose
reservation it came from, and whether a spilled copy is owed. -/
structure Frame where
  addr : DWord := 0
  gid : Nat := 0
  die : Nat := 0
  ctx : Nat := 0
  launch : Nat := 0
  parent : DWord := 0
  count : Nat := 0
  next : Nat := 0
  cont : DWord := 0
  save : DWord := 0
  depth : Nat := 1
  det : Bool := false
  pin : Bool := false
  wsovf : Bool := false
  awaiting : Bool := false
  home : Nat := 0
  ws : List Nat := []
deriving DecidableEq, Repr

/-- What a child is (R138, R139). -/
inductive ChildKind
  | strand
  | group
  | block
deriving DecidableEq, Repr

/-- Where a child stands: held by the spawn unit, placed, or ended (kept while its held writes wait for the merge). -/
inductive ChildSt
  | held
  | placed
  | ended
deriving DecidableEq, Repr

/-- What a held write does (R272, R274). A store may set or clear its line's poison mark (R180, R342). -/
inductive HeldDo
  | store (bytes : List Byte) (mark : Option Bool)
  | atomic (op : AtomOp) (wide : Bool) (x y : DWord)
deriving DecidableEq, Repr

/-- One held write of a child of a deterministic frame (R272, R274): the virtual line it was made through, its physical address, and the generation
under which that address was translated (R330), and whether its page is host-coherent. -/
structure HeldOp where
  vl : Nat
  pa : Nat
  gen : BitVec 16
  act : HeldDo
  cbit : Bool := false
deriving DecidableEq, Repr

/-- A child of a frame (R137-R139, R272): `source` names the quad of the issue that spawned a strand, `record` the frame record that holds
it until it is placed. -/
structure Child where
  kind : ChildKind := .strand
  frame : Nat := 0
  index : Nat := 0
  parent : Nat := 0
  owner : Option Nat := none
  source : Nat := 0
  record : DWord := 0
  die : Nat := 0
  ctx : Nat := 0
  launch : Nat := 0
  kernel : Kernel := {}
  entry : DWord := 0
  arg0 : Reg := {}
  arg1 : Reg := {}
  st : ChildSt := .held
  det : Bool := false
  held : List HeldOp := []
deriving DecidableEq, Repr

/-! ## Engines -/

/-- The engine commands (R173), with the graph and manifest operations they start. -/
inductive OpKind
  | chain (ch : Nat)
  | mcmd
  | attn
  | unmask
  | coll
  | ship
  | replay
deriving DecidableEq, Repr

/-- Where an operation stands: queued; running; held at a fault (R179); its results and record written and its add still to come
(R176). -/
inductive OpSt
  | queued
  | running
  | held (trap : Nat)
  | adding
deriving DecidableEq, Repr

/-- An engine operation, taken and not ended (R173-R176). `kid` is the child it acts for and `child` the deterministic one that
holds its writes (R272, R436); `lineHeld` marks one that an ALLSTOP slot has returned and that waits for the line (R402); `kstep` counts the
K-steps of a K-block consumed at a stop (R408); `owed` says that the policy of its
add is still to be checked (R178), `bad` that a CHAIN's head was found malformed at its take; `recAddr` is where a record is still owed, `recKeep` where the command wants it; `staged` holds bytes taken
but not yet applied: a drained K-block, or a collective's result. -/
structure EngOp where
  kind : OpKind := .mcmd
  gid : Nat := 0
  block : Nat := 0
  die : Nat := 0
  core : Nat := 0
  ctx : Nat := 0
  ring : BitVec 2 := 0
  child : Option Nat := none
  kid : Option Nat := none
  lineHeld : Bool := false
  addr : DWord := 0
  params : List Byte := []
  extra : List Byte := []
  cnt : DWord := 0
  inc : Nat := 0
  csys : Bool := false
  owed : Bool := false
  bad : Bool := false
  recAddr : DWord := 0
  recKeep : DWord := 0
  st : OpSt := .queued
  flags : BitVec 32 := 0
  lost : Nat := 0
  progress : Nat := 0
  detail : DWord := 0
  tile : Nat := 0
  kb : Nat := 0
  kstep : Nat := 0
  staged : Option (List Byte) := none
  scales : FMap Word := []
  segTile : Nat := 0
  curTile : Nat := 0
  entering : List (Nat × List Byte) := []
  stats : List Nat := []
  queryBad : List Nat := []
  sess : Option Nat := none
  inst : Option Nat := none
deriving DecidableEq, Repr

/-- The record that a barge channel has taken (R182, R185): its bytes as taken and its address, the bytes of its walk done so far, the
indices read at the take with the copies whose index was poisoned, its results, and how it stands; `listOwed` while its index list is still to be read (R179, R186); `seq` gives the order of takes (R189). -/
structure Rec where
  addr : DWord := 0
  bytes : List Byte := []
  done : Nat := 0
  indices : List Word := []
  sour : List Nat := []
  moved : Nat := 0
  undeliv : Nat := 0
  status : Nat := 0
  poisoned : Bool := false
  finished : Bool := false
  wrote : Bool := false
  waiting : Bool := false
  held : Option Nat := none
  cancelled : Bool := false
  owed : Bool := false
  listOwed : Bool := false
  seq : Nat := 0
deriving DecidableEq, Repr

/-- A record copy that a channel has read ahead, tagged with its address and generation (R182). -/
structure Ahead where
  addr : DWord
  gen : BitVec 16
  bytes : List Byte
deriving DecidableEq, Repr

/-- A barge channel (R173, R182): its chains in order, the first of them running; the record it has taken; the address of the next record; its
read-ahead copies; the requests that it has completed since the all-stop line's arrival, with the cycle of the last one (R407, R408). -/
structure Chan where
  chains : List Nat := []
  cur : Option Rec := none
  next : Option DWord := none
  ahead : List Ahead := []
  landed : Nat := 0
  landedAt : Nat := 0
deriving DecidableEq, Repr

/-- An accumulator tile (R30, R165). -/
structure Tile where
  elems : FMap Int := []
  exp : Int := 0
  busy : Nat := 0
  poison : Bool := false
  owner : Option Nat := none
deriving DecidableEq, Repr

/-- A slip: its bytes from the drain position on, the poison window, and the claiming channel (R33, R189). -/
structure Slip where
  bytes : List Byte := []
  poisonFrom : Nat := 0
  poisonTo : Nat := 0
  claim : Option Nat := none
deriving DecidableEq, Repr

/-! ## Caches, TLBs and memory -/

/-- An L1 line: its number, address space and valid bytes with their offsets (R243). -/
structure L1Line where
  line : Nat
  asid : Nat
  sectors : BitVec 4
  bytes : FMap Byte
  tags : Bool := false
deriving DecidableEq, Repr

/-- A context that has filled or written a line of a die's L2 (R246, R259): its address space and the virtual line, and whether it has written the
bytes that are dirty there. -/
structure L2User where
  ctx : Nat
  asid : Nat
  vline : Nat
  wrote : Bool := false
deriving DecidableEq, Repr

/-- A line in a die's L2 (R245, R246). Either a copy of a remotely homed line, with its valid and its dirty bytes; or, where `own` is set, a line at
its home: of the die's own stacks, or at a port's die a C line of the far side (R357), held for writing where `excl` is set. A home's bytes stand
in `MemSys`, dirty or not: its line here says which sectors the slice holds and which bytes are dirty, and `bytes` what memory behind it still
holds under the dirty ones. `slot` is the physical line whose slice and set a C line of the far side takes. Lists are kept most recently used first. -/
structure L2Line where
  line : Nat
  slot : Nat := 0
  users : List L2User := []
  bytes : FMap Byte := []
  dirty : List Nat := []
  poison : Bool := false
  own : Bool := false
  sectors : BitVec 4 := 0
  excl : Bool := false
deriving DecidableEq, Repr

/-- A line in a memory-side cache (R338): its valid sectors, dirtiness, slots taken and physical line. -/
structure MscLine where
  line : Nat
  sectors : BitVec 4
  dirty : Bool
  size : Nat
  phys : Nat
deriving DecidableEq, Repr

/-- A TLB entry (R328): the page's first virtual page number, its size in address bits, the frame and its bits, the generation. -/
structure TlbEntry where
  asid : Nat
  vpage : Nat
  bits : Nat
  frame : Nat
  perms : BitVec 6
  gen : BitVec 16
deriving DecidableEq, Repr

/-- The counter metadata of a 4 KiB page (R341). -/
structure PageMeta where
  major : DWord := 0
  minors : FMap Nat := []
  fresh : BitVec 32 := 0xFFFFFFFF
deriving DecidableEq, Repr

/-- A line as DRAM holds it (R340, R342): its ciphertext and its sectors' tags. -/
structure DramLine where
  cipher : List Byte
  tags : List Byte
deriving DecidableEq, Repr

/-- Package memory and what lies beyond the ports. `bytes` is package memory by physical address as its homes hold it, whichever of home slice,
memory-side cache and DRAM has the byte (an address that is not listed reads zero); then poison marks by line, counters by page, DRAM lines (and a
lender's frames) as stored, the lines and pages that have met an error that nothing repairs, the requests of a link that are to fail; the lines of the far side
that it refuses to a die; the far
side's bytes by device-side physical address, and the plaintext of berths by (die, berth-window address). -/
structure MemSys where
  bytes : List Host.Cell := []
  poison : List Nat := []
  pages : FMap PageMeta := []
  dram : FMap DramLine := []
  damaged : List Nat := []
  badPages : List Nat := []
  linkFails : List (Nat × Bool) := []
  refused : List (Nat × Nat) := []
  far : List Host.Cell := []
  berth : FMap Byte := []
deriving DecidableEq, Repr

/-- An ownership notice in flight (R260): the object, its context as the object table names it, the naming die and the die it goes to. -/
structure Notice where
  ctx : Nat
  obj : Nat
  owner : Nat
  dst : Nat
deriving DecidableEq, Repr

/-- An object-table entry (R259); `ctx` names the context on every die: its lowest die × 64 + its number there (R310). -/
structure ObjEnt where
  ctx : Nat
  lo : Nat
  hi : Nat
  gen : BitVec 16
  owner : Option Nat
  pull : Bool
deriving DecidableEq, Repr

/-! ## Launches and graphs -/

/-- Where a launch came from (R136). -/
inductive LSrc
  | line (die line : Nat)
  | node (inst n : Nat)
  | manifest (sess slot : Nat)
deriving DecidableEq, Repr

/-- How far a launch has come (R316): taken and waiting for frame records; handed to the distributors; ended. -/
inductive LSt
  | taken
  | placing
  | ended
deriving DecidableEq, Repr

/-- A launch (R315, R316): the root launch of its groups, with its free reserved frame records, its number on each of its dies (R386) and the
clusters placed there. -/
structure Launch where
  ctx : Nat := 0
  die : Nat := 0
  dies : List Nat := []
  prio : Nat := 0
  kernel : Kernel := {}
  entry : DWord := 0
  arg : DWord := 0
  gx : Nat := 1
  gy : Nat := 1
  gz : Nat := 1
  cnt : DWord := 0
  inc : Nat := 0
  src : LSrc := .line 0 0
  st : LSt := .taken
  free : List DWord := []
  seqs : FMap Nat := []
  placed : FMap Nat := []
  live : Nat := 0
deriving DecidableEq, Repr

/-- How a node of a graph instance stands (R323); `abandoned` when the P handler has ended its take (R441). -/
inductive NodeSt
  | waiting
  | launched (launch : Nat)
  | abandoned
  | ended
deriving DecidableEq, Repr

/-- A graph instance (R322, R323). -/
structure Inst where
  op : Nat := 0
  die : Nat := 0
  ctx : Nat := 0
  graph : DWord := 0
  slot : Nat := 0
  base : DWord := 0
  nnode : Nat := 0
  parents : List Nat := []
  nodes : List NodeSt := []
  prio : Nat := 0
  reentrant : Bool := false
deriving DecidableEq, Repr

/-! ## Contexts -/

/-- The switch states (R377). -/
inductive SwSt
  | run
  | stopped
  | saved
  | placed
deriving DecidableEq, Repr

/-- What one core holds of a context in a switch (R383): its number, its carve, the blocks and groups of its record in order, its tiles as they
were, its matrix commands, its channels and slips, the clusters whose barriers it carries, and the core reserved for it. -/
structure CoreRec where
  core : Nat := 0
  carve : Nat := 0
  blocks : List Nat := []
  groups : List Nat := []
  tiles : List (Nat × Tile) := []
  mq : List Nat := []
  chan0 : Chan := {}
  chan1 : Chan := {}
  slipA : Slip := {}
  slipB : Slip := {}
  clusters : List Nat := []
  target : Option Nat := none
deriving DecidableEq, Repr

/-- A switch in progress on a die (R376, R391): the owning group, or the save engine; the image's address; the units still to stop; the core
records, the MAU and UMX operations; the parts saved, then the parts loaded. -/
structure Switch where
  owner : Option Nat := none
  engine : Bool := false
  image : DWord := 0
  units : List UnitId := []
  headerOwed : Bool := true
  recs : List CoreRec := []
  engs : List Nat := []
  parts : List (Nat × Nat) := []
deriving DecidableEq, Repr

/-- A debug window (R414). -/
structure DbgWin where
  prc : Bool := false
  en : Bool := false
  sel : DWord := 0
  data : DWord := 0
  status : Byte := 0
deriving DecidableEq, Repr

/-- The all-stop line of a context on a die (R407): the cause, when it arrived here (none while it is on its way), the units whose
records are written, and whether the slots have gone to rung C. -/
structure Line where
  cause : Byte := 0
  since : Option Nat := none
  done : List UnitId := []
  delivered : Bool := false
  norec : Bool := false
deriving DecidableEq, Repr

/-- A context on a die (R309, R310), with its set of context-scope CSRs (R36, R37): `backoff` is the cycle before which the distributor asks for no
stop of it again (R380), `retryAt` that before which the save engine does not try its restore again (R441). -/
structure Ctx where
  vf : Nat := 0
  dies : List Nat := []
  llines : DWord := 0
  ktab : DWord := 0
  nkern : Nat := 0
  llen : Byte := 0
  ring : BitVec 2 := 0
  carve : DWord := 0
  determ : DWord := 0x1400000000000000
  framebase : DWord := 0
  savebase : DWord := 0
  stopbase : DWord := 0
  trapvec : List DWord := [0, 0, 0]
  traptmo : List DWord := [0x1000000, 0x1000000, 0x1000000]
  asctl : DWord := 0
  sw : SwSt := .run
  switch : Option Switch := none
  line : Option Line := none
  backoff : Nat := 0
  retryAt : Nat := 0
  contSlots : List DWord := []
  rewatch : List Nat := []
deriving DecidableEq, Repr

/-! ## Traps -/

/-- The work of a unit that an access of its own holds (R441): a take from a launch line, of a graph node or a manifest; a completion
add; a frame record, a continuation slot or a kernel entry of a group; a trap slot; a stop record; a switch image. -/
inductive UnitWork
  | take (line : Nat)
  | node (inst n : Nat)
  | manifest (sess seq : Nat)
  | launchAdd (launch : Nat)
  | instAdd (inst : Nat)
  | frame (gid : Nat)
  | slot (gid : Nat)
  | entry (gid : Nat)
  | trapSlot (trap : Nat)
  | stopRec (unit : UnitId)
  | image (restore : Bool)
deriving DecidableEq, Repr

/-- What a trap concerns (R398, R402). -/
inductive Party
  | lanes (gid : Nat) (mask : Word)
  | group (gid : Nat) (mask : Word)
  | engine (op : Nat)
  | notice
  | handler (gid : Nat) (trap : Nat)
  | fetch (trap : Nat)
  | unit (u : Nat) (what : UnitWork)
deriving DecidableEq, Repr

/-- How far a trap has come (R398, R401, R405, R441): waiting for a slot; pending in a slot; its handler running; kept back until the
HANDLER_FETCH trap or the unit fault that concerns it returns; or dropped, but for its slot, which is still to be marked done. -/
inductive TrapSt
  | waiting
  | slotted
  | running (gid : Nat)
  | blocked
  | dropping
deriving DecidableEq, Repr

/-- A trap (R395-R398): `home` is the rung at which it was raised (R406), and `exempt` marks one that the service of an ALLSTOP slot waits for, which an
all-stop line does not hold (R407; log entry 82). -/
structure Trap where
  die : Nat := 0
  ctx : Nat := 0
  rung : Nat := 0
  fault : FaultRec := {}
  party : Party := .notice
  allstop : Bool := false
  nested : Bool := false
  norec : Bool := false
  core : Nat := 0xFFFF
  gslot : Nat := 0
  lanes : Word := 0
  link : DWord := 0
  slot : Option Nat := none
  area : Nat := 0
  held : Bool := false
  home : Nat := 0
  exempt : Bool := false
  st : TrapSt := .waiting
deriving DecidableEq, Repr

/-! ## Dies and cores -/

/-- A core (R6, R30-R34, R228-R243, R401): `pipes` holds the cycle from which the lane and the uniform pipe of each quarter are free (R231). -/
structure Core where
  tiles : List Tile := [{}, {}, {}, {}]
  slipA : Slip := {}
  slipB : Slip := {}
  split : Nat := 0
  l1 : List L1Line := []
  victims : List Nat := []
  lostHits : Nat := 0
  misses : Nat := 0
  window : Nat := 0
  lambda : List Nat := [8, 8, 8, 8]
  tlb : List TlbEntry := []
  icache : List (DWord × Nat × BitVec 16 × Bool × Word) := []
  mq : List Nat := []
  chan0 : Chan := {}
  chan1 : Chan := {}
  handlers : List (Option Nat) := [none, none, none, none]
  swap : List Nat := [0, 0, 0, 0]
  pipes : List Nat := [0, 0, 0, 0, 0, 0, 0, 0]
  reserved : Option Nat := none
  fenced : Bool := false
deriving DecidableEq, Repr

/-- A mooring entry with its berth keys and drain window (R348-R351). -/
structure Moor where
  lo : DWord := 0
  hi : DWord := 0
  dataKey : BitVec 256 := 0
  tagKey : BitVec 256 := 0
  drainEnd : Option Nat := none
  pages : FMap PageMeta := []
deriving DecidableEq, Repr

/-- A fabric window entry with its context mask, its lost flag, and whether a viral indication lost it (R359, R365). -/
structure Fwin where
  lo : DWord := 0
  hi : DWord := 0
  mask : DWord := 0
  lost : Bool := false
  viral : Bool := false
deriving DecidableEq, Repr

/-- An admission entry (R366, R367). -/
structure Adm where
  spec : AdmissionSpec
  revoking : Bool := false
  since : Nat := 0
deriving DecidableEq, Repr

/-- An extent of the expander (R362): the tenant, the requesters with their write rights, the C flag. -/
structure Extent where
  tenant : Nat
  reqs : List (Nat × Bool)
  c : Bool
deriving DecidableEq, Repr

/-- A snoop-filter entry of the expander (R363): the 64-byte line, its holders and whether one holds it Exclusive. -/
structure Snoop where
  line : Nat
  holders : Word
  excl : Bool
deriving DecidableEq, Repr

/-- The keys of a die (R340, R344, R425): data and integrity key of each stack, the link keys. -/
structure Keys where
  data0 : BitVec 256 := 0
  tag0 : BitVec 256 := 0
  data1 : BitVec 256 := 0
  tag1 : BitVec 256 := 0
  link0 : BitVec 128 := 0
  link1 : BitVec 128 := 0
deriving DecidableEq, Repr

/-- A measurement record (R430): BOOTID, LSEQ, WORLD, n, the counters, H, the nonce and the signature. -/
structure Measure where
  bootid : DWord := 0
  lseq : DWord := 0
  world : Nat := 0
  n : Nat := 0
  counters : List Nat := []
  h : BitVec 384 := 0
  sig : BitVec 768 := 0
deriving DecidableEq, Repr

/-- The caches and tables of a die's memory path (R245, R328, R338, R341, R357, R363), and the nonce counters of its links, one for each direction
of each (R344). -/
structure DieMem where
  tlb : List TlbEntry := []
  l2 : List L2Line := []
  msc0 : List MscLine := []
  msc1 : List MscLine := []
  ctr0 : List Nat := []
  ctr1 : List Nat := []
  nonces : List DWord := [0, 0, 0, 0]
  hostSnoop : List Nat := []
  expSnoop : List Snoop := []
  extents : FMap Extent := []
  objs : FMap ObjEnt := []
deriving DecidableEq, Repr

/-- The management registers and trust state of a die (R419, R420, R423-R430), with the failures of its two links (R344), the cycles of its
latest error corrections (R342, R433), the failing rows of its stacks by bridge and the spare rows taken (R435), whether its port has lost its
partner (R365, R434), the world whose work the toll counters count, and the debug windows by context number (R414). -/
structure DieMgmt where
  temp : Byte := 0
  spares : Nat := 8
  throttle : Nat := 0
  fenced : Bool := false
  retired : Bool := false
  replace : Bool := false
  pcap : Nat := 300
  resResult : Nat := 0
  resCtx : Nat := 0
  hypPbr : Nat := 0xFFF
  hypPort : Nat := 0
  vf : Nat := 0
  world : Nat := 0
  latchNeeded : Bool := false
  hosten : Bool := false
  stnen : BitVec 4 := 0xF
  cxlw : BitVec 2 := 0
  plimit : Nat := 4500
  lseq : DWord := 0
  tolls : List Nat := List.replicate 16 0
  tollH : BitVec 384 := 0
  tollN : Nat := 0
  final : Option Measure := none
  keys : Option Keys := none
  moor : FMap Moor := []
  fwin : FMap Fwin := []
  adm : FMap Adm := []
  linkErrs : List Nat := [0, 0, 0]
  repairs : List Nat := []
  failedCores : List Nat := []
  failingRows : List (Nat × Nat) := []
  rowsUsed : List Nat := [0, 0]
  portDown : Bool := false
  tollWorld : Nat := 0
  lastSnap : Nat := 0
  dbg : FMap DbgWin := []
deriving DecidableEq, Repr

/-- A rank of this die whose collective has met a difference at another member before the rank has issued it (R208): the sequence numbers and
member lists it may issue it under. -/
structure CollOwed where
  rank : Nat
  ctx : Nat
  keys : List (Nat × List Byte)
deriving DecidableEq, Repr

/-- A die (R2, R6, R37, R38): `launched` counts the launches handed to it (R386), `head` is the launch at the head of its order (R319) and `headSince` the cycle from which that has waited (R321). -/
structure Die where
  cycle : Nat := 0
  trapcfg : DWord := 0
  mpolicy : DWord := 0
  limit : DWord := 7
  trapvecP : DWord := 0
  trapvecD : DWord := 0
  traptmoP : DWord := 0x1000000
  traptmoD : DWord := 0x1000000
  dm : DieMem := {}
  mg : DieMgmt := {}
  mau0 : List Nat := []
  mau1 : List Nat := []
  umx : List Nat := []
  coll : List Nat := []
  collOwed : List CollOwed := []
  helm : List Nat := []
  lunit : List Nat := []
  launched : Nat := 0
  head : Option Nat := none
  headSince : Nat := 0
deriving DecidableEq, Repr

/-! ## The package -/

/-- A session between two Helms (R366, R370), at this package's end; `lost` when the port that leads to the partner has failed (R365). -/
structure Session where
  spec : SessionSpec
  manifestKey : BitVec 384
  stationKey : BitVec 128
  seq : DWord := 1
  verified : DWord := 0
  checked : List Nat := []
  slots : List (Option Nat) := List.replicate 64 none
  live : Bool := true
  lost : Bool := false
  refuse : List Nat := []
deriving DecidableEq, Repr

/-- An entry of the ASID map (R439). -/
structure AsidEnt where
  assigned : Bool := false
  vf : Nat := 0
deriving DecidableEq, Repr

/-- What Deck and Helm log (R342, R362, R406, R418, R421, R430, R432). -/
inductive LogEnt
  | badLine (pa : Nat)
  | link (die bridge : Nat)
  | station (die : Nat)
  | refusedWrite (die off : Nat)
  | refusedRequest (pbr pa : Nat)
  | unsupported (port code : Nat)
  | hostRefused (pa : Nat)
  | fatal (die : Nat)
  | soft (code : Word)
  | rungD (r : FaultRec)
  | trip (temp : Byte)
  | media (die : Nat)
  | revoked (die berth : Nat)
  | dropped (die ctx : Nat)
  | final (m : Measure)
deriving DecidableEq, Repr

/-- The refusal of a write-back of dirty bytes that a context wrote, on its way to that context (R362, R366, R424): by another world's memory, or
by an expander. -/
structure BackErr where
  die : Nat
  ctx : Nat
  world : Bool
  va : DWord
deriving DecidableEq, Repr

/-- A manifest packet sent and not answered (R370). -/
structure Packet where
  op : Nat
  sess : Nat
  seq : DWord
  bytes : List Byte
  tag : BitVec 384
deriving DecidableEq, Repr

/-- The package (R420-R427, R439). -/
structure Pkg where
  hstate : Nat := 0
  fuses : List (Bool × Bool) := List.replicate 64 (false, false)
  bootid : DWord := 0
  asidmap : FMap AsidEnt := []
  gens : FMap (BitVec 16) := []
  sessions : FMap Session := []
  packets : List Packet := []
  log : List LogEnt := []
  notices : List Notice := []
  backErrs : List BackErr := []
  reply : List Byte := []
  replyOk : Bool := true
  replyPoison : Bool := false
  deckMeasure : BitVec 384 := 0
  measured : Option Measure := none
deriving DecidableEq, Repr

/-! ## The model's own part -/

/-- Whose move is next: a named group issues, or a named event happens. -/
inductive Turn
  | issue (gid : Nat)
  | event (e : Ev)
deriving DecidableEq, Repr

/-- The issue in progress (R216): the group, the address, the issue set, the header and word, the instruction's length. -/
structure Issue where
  gid : Nat
  pc : DWord
  lanes : Word
  hdr : Hdr
  word : Word
  len : Nat
deriving DecidableEq, Repr

/-- The model's own fields: the order of moves, what is running now, whether the last turn named a move that could not happen and so changed
nothing, the draw counter of free values, the next name. -/
structure Model where
  agenda : List Turn := []
  cur : Option Issue := none
  ev : Option Ev := none
  passed : Bool := false
  freeCtr : Nat := 0
  nextId : Nat := 1
deriving DecidableEq, Repr

/-- The machine. Dies are keyed by index, cores by die × 256 + core, contexts by die × 64 + number, everything else by name. -/
structure State where
  fit : Fitting
  pkg : Pkg
  mem : MemSys
  dies : FMap Die
  cores : FMap Core
  ctxs : FMap Ctx
  blocks : FMap Block
  clusters : FMap Cluster
  groups : FMap Group
  ops : FMap EngOp
  launches : FMap Launch
  insts : FMap Inst
  frames : FMap Frame
  children : FMap Child
  traps : FMap Trap
  flight : List Access
  model : Model
deriving DecidableEq, Repr

/-- Why the machine stops. It is no stop of the hardware: the model was asked for a meaning outside a step. -/
inductive Fault
  /-- An instruction word's meaning was asked for with no issue in progress (raised by every word's meaning through
  `withIssue`). Safe: no step does so. -/
  | noIssue
deriving DecidableEq, Repr

/-- Why an instruction has no meaning in the model. -/
inductive Refusal
  /-- An arm of `exec` not written yet (raised by Dispatch only). Safe. -/
  | notModelled (mnemonic : String)
deriving DecidableEq, Repr

/-- The number of dies of a fitting (R2). -/
def Fitting.dies : Fitting → Nat
  | .c => 12
  | .m => 4

/-- The machine right after reset: every die at its reset values, nothing bound, nothing placed, memory with nothing listed. -/
def State.reset : State where
  fit := .c
  pkg := {}
  mem := {}
  dies := []
  cores := []
  ctxs := []
  blocks := []
  clusters := []
  groups := []
  ops := []
  launches := []
  insts := []
  frames := []
  children := []
  traps := []
  flight := []
  model := {}

end Sys2Proof.Machine
end

