-- ==== Sys2Proof/Machine/Bits.lean ====
section
/-! DEFINITION. Bytes, words and bit counts: little-endian assembly (R9) and the bit helpers of the integer instructions. -/

namespace Sys2Proof.Machine

/-- A Boolean as 0 or 1. -/
def bitOf (b : Bool) : Nat := if b then 1 else 0

/-- The bytes of a number, lowest first (R9). -/
def leBytes : Nat → Nat → List Byte
  | 0, _ => []
  | n + 1, x => BitVec.ofNat 8 x :: leBytes n (x / 256)

/-- The number that bytes hold, lowest first (R9). -/
def ofBytes : List Byte → Nat
  | [] => 0
  | b :: bs => b.toNat + 256 * ofBytes bs

/-- Bits [hi:lo] of a number (R15). -/
def bits (x hi lo : Nat) : Nat := x / 2 ^ lo % 2 ^ (hi + 1 - lo)

/-- One bit of a number. -/
def bit (x i : Nat) : Bool := x / 2 ^ i % 2 == 1

/-- n bytes of a list from an offset, zero beyond its end. -/
def slice (bs : List Byte) (off n : Nat) : List Byte :=
  let t := (bs.drop off).take n
  t ++ List.replicate (n - t.length) 0

/-- The little-endian number in n bytes at an offset. -/
def field (bs : List Byte) (off n : Nat) : Nat := ofBytes (slice bs off n)

/-- The signed value of the low n bits. -/
def signedOf (n x : Nat) : Int :=
  let y := x % 2 ^ n
  if y < 2 ^ (n - 1) then (y : Int) else (y : Int) - (2 ^ n : Nat)

/-- The signed little-endian number in n bytes at an offset. -/
def sfield (bs : List Byte) (off n : Nat) : Int := signedOf (8 * n) (field bs off n)

/-- Whether every byte of a range is zero. -/
def zeroAt (bs : List Byte) (off n : Nat) : Bool := (slice bs off n).all (· == 0)

/-- Two words as a pair's value (R18, R21). -/
def pairVal (lo hi : Word) : DWord := hi ++ lo

/-- The low half of a pair's value. -/
def loHalf (x : DWord) : Word := x.extractLsb' 0 32

/-- The high half of a pair's value. -/
def hiHalf (x : DWord) : Word := x.extractLsb' 32 32

/-- The number of one bits. -/
def popCount (w : Word) : Nat := ((List.range 32).filter (fun i => w.getLsbD i)).length

/-- Leading zero bits of a word; 32 for zero. -/
def leadingZeros (w : Word) : Nat := ((List.range 32).takeWhile (fun i => !w.getLsbD (31 - i))).length

/-- Bit i of the result is bit 31 − i of the source. -/
def bitReverse (w : Word) : Word :=
  (List.range 32).foldl (fun acc i => if w.getLsbD i then acc ||| (1#32 <<< (31 - i)) else acc) 0#32

/-- Shift left; 0 when the amount is at least the width. -/
def shlW {n : Nat} (a : BitVec n) (k : Nat) : BitVec n := if k < n then a <<< k else 0

/-- Zero-filled shift right; 0 when the amount is at least the width. -/
def shrN {n : Nat} (a : BitVec n) (k : Nat) : BitVec n := if k < n then a >>> k else 0

/-- Sign-filled shift right; the sign everywhere when the amount is at least the width. -/
def shrS {n : Nat} (a : BitVec n) (k : Nat) : BitVec n := a.sshiftRight (min k (n - 1))

/-- Signed minimum. -/
def minS {n : Nat} (a b : BitVec n) : BitVec n := if b.slt a then b else a

/-- Signed maximum. -/
def maxS {n : Nat} (a b : BitVec n) : BitVec n := if a.slt b then b else a

/-- Unsigned minimum. -/
def minN {n : Nat} (a b : BitVec n) : BitVec n := if b.ult a then b else a

/-- Unsigned maximum. -/
def maxN {n : Nat} (a b : BitVec n) : BitVec n := if a.ult b then b else a

/-- The high half of the signed 64-bit product. -/
def mulHighS (a b : Word) : Word := ((a.signExtend 64) * (b.signExtend 64)).extractLsb' 32 32

/-- The high half of the unsigned 64-bit product. -/
def mulHighN (a b : Word) : Word := ((a.setWidth 64) * (b.setWidth 64)).extractLsb' 32 32

/-- An integer as a word, modulo 2^32. -/
def wordOfInt (x : Int) : Word := BitVec.ofInt 32 x

/-- A signed value clamped to 32 bits (R15, sat_s32). -/
def satS32 (x : Int) : Word :=
  if x > 2147483647 then 0x7FFFFFFF#32 else if x < -2147483648 then 0x80000000#32 else BitVec.ofInt 32 x

/-- The lanes of a mask, in ascending order. -/
def lanesOf (m : Word) : List Nat := (List.range 32).filter (fun i => m.getLsbD i)

/-- The mask of a list of lanes. -/
def maskOf (ls : List Nat) : Word := ls.foldl (fun acc i => acc ||| (1#32 <<< i)) 0#32

/-- The mask of the lanes that meet a test. -/
def maskWhere (f : Nat → Bool) : Word := maskOf ((List.range 32).filter f)

/-- Rounding up to a multiple. -/
def roundUp (x n : Nat) : Nat := (x + n - 1) / n * n

/-- Quotient rounded up. -/
def ceilDiv (x n : Nat) : Nat := (x + n - 1) / n

/-- The words of a byte list. -/
def wordsOf (bs : List Byte) : List Word :=
  (List.range (bs.length / 4)).map (fun i => BitVec.ofNat 32 (field bs (4 * i) 4))

/-- The bytes of a list of words. -/
def bytesOf (ws : List Word) : List Byte := ws.flatMap (fun w => leBytes 4 w.toNat)

/-- A virtual address is canonical when bits [63:57] are copies of bit 56 (R325). -/
def canonical (a : DWord) : Bool := a.extractLsb' 56 8 == 0#8 || a.extractLsb' 56 8 == 0xFF#8

/-- The scramble of R71 for stochastic rounding. -/
def rsBits (seed : Word) (idx : Nat) : Word :=
  let h := seed ^^^ (BitVec.ofNat 32 idx * 0x9E3779B9#32)
  let h := h ^^^ (h >>> 16)
  let h := h * 0x85EBCA6B#32
  let h := h ^^^ (h >>> 13)
  let h := h * 0xC2B2AE35#32
  h ^^^ (h >>> 16)

end Sys2Proof.Machine
end

