-- ==== Sys2Proof/Machine/Fp.lean ====
section
/-! DEFINITION. Floating-point values, formats and rounding (R63-R73). A value is held exactly; each operation computes the exact
result and rounds it once. -/

namespace Sys2Proof.Machine

/-- A floating-point value: NaN, a signed infinity, or sign × m × 2^e (a zero keeps its sign). -/
inductive Fv
  | nan
  | inf (neg : Bool)
  | fin (neg : Bool) (m : Nat) (e : Int)
deriving DecidableEq, Repr

/-- A format of R63: exponent and mantissa widths, bias, and whether it has infinities. -/
structure Fmt where
  ew : Nat
  mw : Nat
  bias : Nat
  infs : Bool
  nan : Nat
deriving DecidableEq, Repr

def fp32 : Fmt := ⟨8, 23, 127, true, 0x7FC00000⟩
def fp16 : Fmt := ⟨5, 10, 15, true, 0x7E00⟩
def bf16 : Fmt := ⟨8, 7, 127, true, 0x7FC0⟩
def e5m2 : Fmt := ⟨5, 2, 15, true, 0x7E⟩
def e4m3 : Fmt := ⟨4, 3, 7, false, 0x7F⟩

/-- The rounding modes of R70; .rs carries its random word h (R71). -/
inductive Rnd
  | rne | rna | rz | ru | rd
  | rs (h : Word)
deriving DecidableEq, Repr

/-- An integer power of two times a natural number, as a natural number when it is one, rounded down otherwise. -/
def scaleDown (m : Nat) (e : Int) : Nat := if 0 ≤ e then m * 2 ^ e.toNat else m / 2 ^ (-e).toNat

/-- The value of an encoding (R63). -/
def Fmt.decode (f : Fmt) (x : Nat) : Fv :=
  let man := x % 2 ^ f.mw
  let ex := x / 2 ^ f.mw % 2 ^ f.ew
  let neg := bit x (f.mw + f.ew)
  if ex = 2 ^ f.ew - 1 ∧ f.infs = true then (if man = 0 then .inf neg else .nan)
  else if ex = 2 ^ f.ew - 1 ∧ man = 2 ^ f.mw - 1 then .nan
  else if ex = 0 then .fin neg man (1 - (f.bias : Int) - f.mw)
  else .fin neg (2 ^ f.mw + man) ((ex : Int) - f.bias - f.mw)

/-- The sign bit of a format in place. -/
def Fmt.signBit (f : Fmt) (neg : Bool) : Nat := bitOf neg * 2 ^ (f.ew + f.mw)

/-- The encoding of an infinity, or of the largest finite value where the format has none (R72). -/
def Fmt.infBits (f : Fmt) (neg : Bool) : Nat :=
  f.signBit neg + (if f.infs then (2 ^ f.ew - 1) * 2 ^ f.mw else 2 ^ (f.ew + f.mw) - 2)

/-- The encoding of the largest finite value. -/
def Fmt.maxBits (f : Fmt) (neg : Bool) : Nat :=
  f.signBit neg + (if f.infs then (2 ^ f.ew - 1) * 2 ^ f.mw - 1 else 2 ^ (f.ew + f.mw) - 2)

/-- Whether a truncated result moves one unit away from zero: t the truncated value, r of d the discarded part (R70, R71). -/
def roundsUp (mode : Rnd) (neg : Bool) (t r d : Nat) : Bool :=
  if r = 0 then false
  else match mode with
    | .rne => decide (2 * r > d) || (decide (2 * r = d) && t % 2 == 1)
    | .rna => decide (2 * r ≥ d)
    | .rz => false
    | .ru => !neg
    | .rd => neg
    | .rs h => decide (h.toNat < r * 2 ^ 32 / d)

/-- The encoding of sign × m × 2^e rounded once (R70-R72); a zero result keeps the sign, in E4M3 too (log entry 62). -/
def Fmt.roundFin (f : Fmt) (mode : Rnd) (neg : Bool) (m : Nat) (e : Int) : Nat :=
  if m = 0 then f.signBit neg
  else
    let q0 : Int := max (1 - (f.bias : Int) - f.mw) ((Nat.log2 m : Int) + e - f.mw)
    let sh := q0 - e
    let t0 := if sh ≤ 0 then m * 2 ^ (-sh).toNat else m / 2 ^ sh.toNat
    let r := if sh ≤ 0 then 0 else m % 2 ^ sh.toNat
    let t1 := if roundsUp mode neg t0 r (2 ^ sh.toNat) then t0 + 1 else t0
    let (t, q) := if t1 = 2 ^ (f.mw + 1) then (2 ^ f.mw, q0 + 1) else (t1, q0)
    let ex : Int := if t < 2 ^ f.mw then 0 else q + f.mw + f.bias
    let code : Int := ex * 2 ^ f.mw + (t % 2 ^ f.mw : Nat)
    if code > ((f.maxBits false : Nat) : Int) then
      match mode with
      | .rz => f.maxBits neg
      | .ru => if neg then f.maxBits true else f.infBits false
      | .rd => if neg then f.infBits true else f.maxBits false
      | _ => f.infBits neg
    else f.signBit neg + code.toNat

/-- The encoding of a value rounded once (R72). -/
def Fmt.round (f : Fmt) (mode : Rnd) : Fv → Nat
  | .nan => f.nan
  | .inf neg => f.infBits neg
  | .fin neg m e => f.roundFin mode neg m e

/-- Whether an encoding is a non-zero subnormal. -/
def Fmt.isSub (f : Fmt) (x : Nat) : Bool := x / 2 ^ f.mw % 2 ^ f.ew == 0 && x % 2 ^ f.mw != 0

/-- .ftz: a subnormal is taken as zero of its sign (R65). -/
def Fmt.flush (f : Fmt) (ftz : Bool) (x : Nat) : Nat :=
  if ftz && f.isSub x then f.signBit (bit x (f.ew + f.mw)) else x

/-- A value with its sign turned. -/
def Fv.neg : Fv → Fv
  | .nan => .nan
  | .inf n => .inf (!n)
  | .fin n m e => .fin (!n) m e

/-- A value's magnitude. -/
def Fv.abs : Fv → Fv
  | .nan => .nan
  | .inf _ => .inf false
  | .fin _ m e => .fin false m e

/-- A finite value as a signed multiple of 2^q, for q at or below its exponent. -/
def finInt (neg : Bool) (m : Nat) (e q : Int) : Int :=
  let x : Int := (m * 2 ^ (e - q).toNat : Nat)
  if neg then -x else x

/-- The exact sum; an exact zero from non-zero terms is +0, −0 under .rd (R64). -/
def Fv.add (rd : Bool) : Fv → Fv → Fv
  | .nan, _ => .nan
  | _, .nan => .nan
  | .inf a, .inf b => if a = b then .inf a else .nan
  | .inf a, _ => .inf a
  | _, .inf b => .inf b
  | .fin n1 m1 e1, .fin n2 m2 e2 =>
    let q := min e1 e2
    let x := finInt n1 m1 e1 q + finInt n2 m2 e2 q
    if x = 0 then (if m1 = 0 ∧ m2 = 0 ∧ n1 = n2 then .fin n1 0 0 else .fin rd 0 0)
    else .fin (decide (x < 0)) x.natAbs q

/-- The exact product (R64). -/
def Fv.mul : Fv → Fv → Fv
  | .nan, _ => .nan
  | _, .nan => .nan
  | .inf a, .inf b => .inf (a != b)
  | .inf a, .fin n m _ => if m = 0 then .nan else .inf (a != n)
  | .fin n m _, .inf b => if m = 0 then .nan else .inf (n != b)
  | .fin n1 m1 e1, .fin n2 m2 e2 => .fin (n1 != n2) (m1 * m2) (e1 + e2)

/-- Whether x < y; false when either is a NaN. -/
def Fv.lt : Fv → Fv → Bool
  | .nan, _ => false
  | _, .nan => false
  | .inf a, .inf b => a && !b
  | .inf a, .fin _ _ _ => a
  | .fin _ _ _, .inf b => !b
  | .fin n1 m1 e1, .fin n2 m2 e2 =>
    let q := min e1 e2
    decide (finInt n1 m1 e1 q < finInt n2 m2 e2 q)

/-- Whether x = y; false when either is a NaN, true of two zeros. -/
def Fv.eq : Fv → Fv → Bool
  | .nan, _ => false
  | _, .nan => false
  | x, y => !(Fv.lt x y) && !(Fv.lt y x)

/-- Whether a value is a NaN. -/
def Fv.isNan : Fv → Bool
  | .nan => true
  | _ => false

/-- A value rounded to an integer in a mode; none for NaN and infinities. -/
def Fv.toInt (mode : Rnd) : Fv → Option Int
  | .fin neg m e =>
    let t0 := scaleDown m e
    let t := if 0 ≤ e then t0 else
      let d := 2 ^ (-e).toNat
      if roundsUp mode neg t0 (m % d) d then t0 + 1 else t0
    some (if neg then -(t : Int) else (t : Int))
  | _ => none

/-- The FP32 value of a word. -/
def fv32 (w : Word) : Fv := fp32.decode w.toNat

/-- The FP32 word of a value rounded to nearest even. -/
def toF32 (x : Fv) : Word := BitVec.ofNat 32 (fp32.round .rne x)

/-- FP32 addition in .rne, subnormals kept (R64). -/
def addF32 (a b : Word) : Word := toF32 (Fv.add false (fv32 a) (fv32 b))

/-- FP32 multiplication in .rne. -/
def mulF32 (a b : Word) : Word := toF32 (Fv.mul (fv32 a) (fv32 b))

/-- FP32 fused multiply-add in .rne. -/
def fmaF32 (a b c : Word) : Word := toF32 (Fv.add false (Fv.mul (fv32 a) (fv32 b)) (fv32 c))

/-! ## E2M1X (R66-R68, R73) -/

/-- The quarter value of a code under an extra value X (R66). -/
def quarterOf (x : Int) (code : Nat) : Int :=
  if code % 16 = 8 then x
  else
    let mag : Int := ([0, 2, 4, 6, 8, 12, 16, 24].getD (code % 8) 0 : Nat)
    if code % 16 < 8 then mag else -mag

/-- The E, M and X fields of a BS32 scale (R67). -/
def scaleE (w : Word) : Nat := (w.extractLsb' 24 8).toNat
def scaleM (w : Word) : Nat := (w.extractLsb' 16 8).toNat
def scaleX (w : Word) : Int := (w.extractLsb' 8 8).toInt

/-- The element value of a code under a scale: zero under a zero scale, nothing (zero) under a bad one (R68). -/
def e2m1Val (scale : Word) (code : Nat) : Fv :=
  if scaleE scale = 0 ∨ scaleE scale = 255 then .fin false 0 0
  else
    let q := quarterOf (scaleX scale) code
    .fin (decide (q < 0)) (q.natAbs * (256 + scaleM scale)) ((scaleE scale : Int) - 127 - 8 - 2)

/-- The codes the quantiser may choose, 1000 last, so that another code of the same value is met first (R73). -/
def quantCodes : List Nat := [0, 1, 2, 3, 4, 5, 6, 7, 9, 10, 11, 12, 13, 14, 15, 8]

/-- The better of two candidate codes at one end: by a strict test on their quarter values; the first one met stays on a tie. -/
def pickCode (x : Int) (better : Int → Int → Bool) : List Nat → Option Nat
  | [] => none
  | c :: cs =>
    match pickCode x better cs with
    | none => some c
    | some d => if better (quarterOf x d) (quarterOf x c) then some d else some c

/-- The quantiser of R73: the source sign × m × 2^e in units of a quarter of the scale is num / den; `mode` is .rne or .rs. -/
def quantFin (x : Int) (mode : Rnd) (num : Int) (den : Nat) : Nat :=
  let d : Int := den
  let exact := quantCodes.filter (fun c => decide (quarterOf x c * d = num))
  match exact with
  | c :: _ => c
  | [] =>
    let below := pickCode x (fun a b => decide (a > b)) (quantCodes.filter (fun c => decide (quarterOf x c * d < num)))
    let above := pickCode x (fun a b => decide (a < b)) (quantCodes.filter (fun c => decide (quarterOf x c * d > num)))
    match below, above with
    | none, none => 0
    | some lo, none => lo
    | none, some hi => hi
    | some lo, some hi =>
      let dl := num - quarterOf x lo * d
      let dh := quarterOf x hi * d - num
      match mode with
      | .rs h => if (h.toNat : Int) < dl * 4294967296 / (dl + dh) then hi else lo
      | _ =>
        if dl < dh then lo else if dh < dl then hi
        else if lo % 2 = 0 ∧ hi % 2 = 0 then (if lo = 8 then hi else lo)
        else if lo % 2 = 0 then lo else hi

/-- The E2M1X code of a value under a scale (R73). -/
def quantise (scale : Word) (mode : Rnd) (v : Fv) : Nat :=
  let x := scaleX scale
  if scaleE scale = 0 ∨ scaleE scale = 255 then 0
  else match v with
    | .nan => 0
    | .inf neg =>
      if neg then (pickCode x (fun a b => decide (a < b)) quantCodes).getD 0
      else (pickCode x (fun a b => decide (a > b)) quantCodes).getD 0
    | .fin neg m e =>
      if m = 0 then 0
      else
        let k : Int := e - ((scaleE scale : Int) - 127 - 8 - 2)
        let num : Int := (m * 2 ^ k.toNat : Nat)
        quantFin x mode (if neg then -num else num) ((256 + scaleM scale) * 2 ^ (-k).toNat)

end Sys2Proof.Machine
end

