-- ==== Sys2Proof/Machine/Operands.lean ====
section
/-! DEFINITION. Reaching the parts of the state, and reading and writing the registers and predicates of a group: every register
form of the instructions goes through these (R16-R24, R226). -/

namespace Sys2Proof.Machine

/-! ## Parts of the state -/

/-- A die, at its reset values until something is written to it. -/
def State.die (s : State) (d : Nat) : Die := FMap.getD s.dies d {}

/-- The key of a core. -/
def coreKey (d c : Nat) : Nat := d * 256 + c

/-- A core of a die. -/
def State.core (s : State) (d c : Nat) : Core := FMap.getD s.cores (coreKey d c) {}

/-- The key of a context on a die. -/
def ctxKey (d x : Nat) : Nat := d * 64 + x

/-- A context's record on a die, if it is bound there. -/
def State.ctx? (s : State) (d x : Nat) : Option Ctx := FMap.get? s.ctxs (ctxKey d x)

/-- A context's record on a die, or the reset values. -/
def State.ctx (s : State) (d x : Nat) : Ctx := FMap.getD s.ctxs (ctxKey d x) {}

def State.putDie (s : State) (d : Nat) (x : Die) : State := { s with dies := FMap.put s.dies d x }
def State.putCore (s : State) (d c : Nat) (x : Core) : State := { s with cores := FMap.put s.cores (coreKey d c) x }
def State.putCtx (s : State) (d n : Nat) (x : Ctx) : State := { s with ctxs := FMap.put s.ctxs (ctxKey d n) x }
def State.putGroup (s : State) (i : Nat) (x : Group) : State := { s with groups := FMap.put s.groups i x }
def State.putBlock (s : State) (i : Nat) (x : Block) : State := { s with blocks := FMap.put s.blocks i x }
def State.putCluster (s : State) (i : Nat) (x : Cluster) : State := { s with clusters := FMap.put s.clusters i x }
def State.putOp (s : State) (i : Nat) (x : EngOp) : State := { s with ops := FMap.put s.ops i x }
def State.putLaunch (s : State) (i : Nat) (x : Launch) : State := { s with launches := FMap.put s.launches i x }
def State.putInst (s : State) (i : Nat) (x : Inst) : State := { s with insts := FMap.put s.insts i x }
def State.putFrame (s : State) (i : Nat) (x : Frame) : State := { s with frames := FMap.put s.frames i x }
def State.putChild (s : State) (i : Nat) (x : Child) : State := { s with children := FMap.put s.children i x }
def State.putTrap (s : State) (i : Nat) (x : Trap) : State := { s with traps := FMap.put s.traps i x }

def State.updDie (s : State) (d : Nat) (f : Die → Die) : State := s.putDie d (f (s.die d))
def State.updCore (s : State) (d c : Nat) (f : Core → Core) : State := s.putCore d c (f (s.core d c))

/-- A change to what is listed under a name; nothing where nothing is. -/
def updIn {α : Type} (m : FMap α) (i : Nat) (f : α → α) : FMap α :=
  match FMap.get? m i with
  | none => m
  | some x => FMap.put m i (f x)

def State.updCtx (s : State) (d n : Nat) (f : Ctx → Ctx) : State := { s with ctxs := updIn s.ctxs (ctxKey d n) f }
def State.updGroup (s : State) (i : Nat) (f : Group → Group) : State := { s with groups := updIn s.groups i f }
def State.updBlock (s : State) (i : Nat) (f : Block → Block) : State := { s with blocks := updIn s.blocks i f }
def State.updOp (s : State) (i : Nat) (f : EngOp → EngOp) : State := { s with ops := updIn s.ops i f }
def State.updLaunch (s : State) (i : Nat) (f : Launch → Launch) : State := { s with launches := updIn s.launches i f }
def State.updInst (s : State) (i : Nat) (f : Inst → Inst) : State := { s with insts := updIn s.insts i f }
def State.updFrame (s : State) (i : Nat) (f : Frame → Frame) : State := { s with frames := updIn s.frames i f }
def State.updChild (s : State) (i : Nat) (f : Child → Child) : State := { s with children := updIn s.children i f }
def State.updTrap (s : State) (i : Nat) (f : Trap → Trap) : State := { s with traps := updIn s.traps i f }
def State.updMg (s : State) (d : Nat) (f : DieMgmt → DieMgmt) : State := s.updDie d (fun x => { x with mg := f x.mg })
def State.updDm (s : State) (d : Nat) (f : DieMem → DieMem) : State := s.updDie d (fun x => { x with dm := f x.dm })

/-- The debug window of a context number on a die (R414), be a context bound under it or not. -/
def dbgWin (s : State) (die ctx : Nat) : DbgWin := FMap.getD (s.die die).mg.dbg ctx {}
def updDbg (s : State) (die ctx : Nat) (f : DbgWin → DbgWin) : State := s.updMg die (fun m => { m with dbg := FMap.upd m.dbg ctx {} f })

/-- The names listed in a map that meet a test. -/
def namesWhere {α : Type} (m : FMap α) (f : Nat → α → Bool) : List Nat := (m.filter (fun e => f e.1 e.2)).map (·.1)

/-- Whether any entry meets a test. -/
def anyIn {α : Type} (m : FMap α) (f : Nat → α → Bool) : Bool := m.any (fun e => f e.1 e.2)

/-- A change applied to every name of a list. -/
def foldNames (s : State) (is : List Nat) (f : State → Nat → State) : State := is.foldl f s

/-- A fresh name and the state that has used it. -/
def State.fresh (s : State) : Nat × State :=
  (s.model.nextId, { s with model := { s.model with nextId := s.model.nextId + 1 } })

/-- A fresh free value and the state that has drawn it (log entry 8). -/
def State.draw (s : State) : DWord × State :=
  (Config.freeDWord s.model.freeCtr, { s with model := { s.model with freeCtr := s.model.freeCtr + 1 } })

/-- Free values put together to n 64-bit words, the first the lowest (log entry 8). -/
def State.drawN (s : State) : Nat → Nat × State
  | 0 => (0, s)
  | n + 1 =>
    let (x, s) := s.draw
    let (y, s) := s.drawN n
    (x.toNat + 2 ^ 64 * y, s)

/-- An entry in Deck's or Helm's log. -/
def State.logged (s : State) (e : LogEnt) : State := { s with pkg := { s.pkg with log := s.pkg.log ++ [e] } }

/-- A group goes on from what it waited for: ready from now on (R233). -/
def Group.wakeAt (g : Group) (now : Nat) : Group := { g with wait := .run, readySince := now }

/-- Groups parked on a condition are let go, to issue their instruction again. -/
def wakeWhere (s : State) (f : Nat → Group → Bool) : State :=
  { s with groups := s.groups.map (fun e => if f e.1 e.2 then (e.1, e.2.wakeAt (s.die e.2.die).cycle) else e) }

/-! ## Registers of a group -/

/-- A direct register of a lane; v127 reads zero and is never poisoned (R16, R17). -/
def Group.readV (g : Group) (r l : Nat) : Reg := if r = 127 then {} else FMap.getD g.v (r * 32 + l) {}

/-- A deep register of a lane (R16). -/
def Group.readDeep (g : Group) (r l : Nat) : Reg := FMap.getD g.deep (r * 32 + l) {}

/-- A uniform register; s63 reads zero and is never poisoned (R21). -/
def Group.readS (g : Group) (r : Nat) : Reg := if r = 63 then {} else FMap.getD g.s r {}

/-- The value of a lane's direct register. -/
def Group.vv (g : Group) (r : BitVec 7) (l : Nat) : Word := (g.readV r.toNat l).val

/-- The tag of a lane's direct register. -/
def Group.vt (g : Group) (r : BitVec 7) (l : Nat) : Bool := (g.readV r.toNat l).tag

/-- A lane's pair of direct registers (R18). -/
def Group.vPair (g : Group) (r : BitVec 7) (l : Nat) : DWord :=
  pairVal (g.readV r.toNat l).val (g.readV (r.toNat + 1) l).val

/-- Whether either half of a lane's pair is tagged (R24). -/
def Group.vPairT (g : Group) (r : BitVec 7) (l : Nat) : Bool := (g.readV r.toNat l).tag || (g.readV (r.toNat + 1) l).tag

/-- The value of a uniform register. -/
def Group.sv (g : Group) (r : BitVec 6) : Word := (g.readS r.toNat).val

/-- The tag of a uniform register. -/
def Group.st (g : Group) (r : BitVec 6) : Bool := (g.readS r.toNat).tag

/-- A uniform pair by the number of its even register (R21). -/
def Group.sPairN (g : Group) (r : Nat) : DWord := pairVal (g.readS r).val (g.readS (r + 1)).val

/-- Whether either half of a uniform pair is tagged. -/
def Group.sPairTN (g : Group) (r : Nat) : Bool := (g.readS r).tag || (g.readS (r + 1)).tag

def Group.sPair (g : Group) (r : BitVec 6) : DWord := g.sPairN r.toNat
def Group.sPairT (g : Group) (r : BitVec 6) : Bool := g.sPairTN r.toNat

/-- A predicate of a lane; p7 reads true (R22). -/
def Group.pred (g : Group) (n l : Nat) : Bool := n == 7 || (FMap.getD g.p n 0#32).getLsbD l

/-- A uniform predicate; q7 reads true (R22). -/
def Group.qpred (g : Group) (n : Nat) : Bool := n == 7 || g.q.getLsbD n

/-- A lane of a group. -/
def Group.lane (g : Group) (l : Nat) : Lane := g.lanes.getD l {}

/-- A change to one lane. -/
def Group.updLane (g : Group) (l : Nat) (f : Lane → Lane) : Group := { g with lanes := g.lanes.modify l f }

/-- A change to every lane of a mask. -/
def Group.updLanes (g : Group) (m : Word) (f : Nat → Lane → Lane) : Group :=
  { g with lanes := g.lanes.mapIdx (fun l x => if m.getLsbD l then f l x else x) }

/-- One register or predicate written at once; v127, s63, p7 and q7 discard the value (R17, R21, R22). -/
def Group.set (g : Group) (d : Dst) (r : Reg) : Group :=
  match d with
  | .v n l => if n = 127 then g else { g with v := FMap.put g.v (n * 32 + l) r }
  | .deep n l => { g with deep := FMap.put g.deep (n * 32 + l) r }
  | .s n => if n = 63 then g else { g with s := FMap.put g.s n r }
  | .p n l =>
    if n = 7 then g
    else
      let m := FMap.getD g.p n 0#32
      { g with p := FMap.put g.p n (if r.val = 0 then m &&& ~~~(1#32 <<< l) else m ||| (1#32 <<< l)) }
  | .q n => if n = 7 then g else { g with q := if r.val = 0 then g.q &&& ~~~(1#8 <<< n) else g.q ||| (1#8 <<< n) }

/-- Several registers written, in order. -/
def Group.setAll (g : Group) (ws : List (Dst × Reg)) : Group := ws.foldl (fun g w => g.set w.1 w.2) g

/-- An outstanding write that a later write overtakes loses those destinations (R226). -/
def Pend.drop (p : Pend) (ds : List Dst) : Pend :=
  { p with dsts := p.dsts.map (fun o => match o with | some d => if ds.contains d then none else some d | none => none) }

/-- The destinations of an access that a lane executes again are overtaken by a later write too (R226, R227). -/
def Group.dropRedo (g : Group) (ds : List Dst) : Group :=
  if g.lanes.all (·.redo.isEmpty) then g
  else { g with lanes := g.lanes.map (fun x => { x with redo := x.redo.map (fun e => (e.1,
    { e.2 with dsts := e.2.dsts.map (fun o => match o with | some d => if ds.contains d then none else some d | none => none) })) }) }

/-- Fixed-latency writes: performed at once, and every older outstanding write to the same registers is discarded (R224, R226). -/
def Group.write (g : Group) (ws : List (Dst × Reg)) : Group :=
  let g := (g.setAll ws).dropRedo (ws.map (·.1))
  { g with pend := g.pend.map (fun p => p.drop (ws.map (·.1))) }

/-- A variable-latency result that is already known becomes outstanding (R224). -/
def Group.defer (g : Group) (id : Nat) (lane : Option Nat) (ws : List (Dst × Reg)) (mem : Bool) : Group :=
  { g with pend := g.pend ++ [{ id := id, lane := lane, dsts := ws.map (fun w => some w.1), st := .ready (ws.map (·.2)),
                                mem := mem, acc := none, mask := 0 }] }

/-- Whether a write to a register is outstanding (R224, R228, R416). -/
def Group.outstanding (g : Group) (d : Dst) : Bool :=
  g.pend.any (fun p => (match p.st with | .failed _ => false | _ => true) && p.dsts.contains (some d))

/-- A clean register value. -/
def reg (w : Word) : Reg := ⟨w, false⟩

/-- A predicate value as a register. -/
def preg (b : Bool) : Reg := ⟨if b then 1 else 0, false⟩

/-- The writes of a pair (R18). -/
def pairWrites (d l : Nat) (x : DWord) (t : Bool) : List (Dst × Reg) :=
  [(.v d l, ⟨loHalf x, t⟩), (.v (d + 1) l, ⟨hiHalf x, t⟩)]

/-- The writes of a uniform pair (R21). -/
def spairWrites (d : Nat) (x : DWord) (t : Bool) : List (Dst × Reg) :=
  [(.s d, ⟨loHalf x, t⟩), (.s (d + 1), ⟨hiHalf x, t⟩)]

/-- Whether a lane takes part in the group's life: neither ended nor stopped nor an idle helper (R134, R214). -/
def Lane.live (x : Lane) : Bool := x.st != .ended && x.st != .stopped && x.st != .idle

/-- The lanes that are not helpers. -/
def Group.nonHelpers (g : Group) : Word := maskWhere (fun l => !(g.lane l).helper)

/-- The ready lanes whose program counter is an address (R216). -/
def Group.readyAt (g : Group) (a : DWord) : Word :=
  maskWhere (fun l => (g.lane l).st == .ready && (g.lane l).pc == a)

end Sys2Proof.Machine
end

