-- ==== Sys2Proof/Machine/Flags.lean ====
section
/-! DEFINITION. Predicates: guards (R22, R81, R115), the comparisons that write them (R93, R97, R122) and predicate logic
(R94, R126). -/

namespace Sys2Proof.Machine

/-- ACTIVE of a lane instruction: the issuing lanes whose guard predicate is true (R81). -/
def activeMask (c : Issue) (g : Group) : Word := c.lanes &&& maskWhere (fun l => g.pred c.hdr.g.toNat l)

/-- ACTIVE in ascending lane order. -/
def activeLanes (c : Issue) (g : Group) : List Nat := lanesOf (activeMask c g)

/-- The lanes of ACTIVE that are not helpers. -/
def activeReal (c : Issue) (g : Group) : List Nat := (activeLanes c g).filter (fun l => !(g.lane l).helper)

/-- Whether a uniform instruction's guard lets it execute (R115). -/
def guardQ (c : Issue) (g : Group) : Bool := g.qpred c.hdr.g.toNat

/-- The integer comparisons of R93. -/
def cmpInt (cc : BitVec 4) (a b : Word) : Bool :=
  match cc.toNat with
  | 0 => a == b
  | 1 => a != b
  | 2 => a.slt b
  | 3 => a.sle b
  | 4 => b.slt a
  | 5 => b.sle a
  | 6 => a.ult b
  | 7 => a.ule b
  | 8 => b.ult a
  | 9 => b.ule a
  | 10 => (a &&& b) != 0
  | _ => (a &&& b) == 0

/-- The FP32 comparisons of R97. -/
def cmpFloat (cc : BitVec 4) (a b : Word) : Bool :=
  let x := fv32 a
  let y := fv32 b
  let un := x.isNan || y.isNan
  match cc.toNat with
  | 0 => Fv.eq x y
  | 1 => !un && !(Fv.eq x y)
  | 2 => Fv.lt x y
  | 3 => Fv.lt x y || Fv.eq x y
  | 4 => Fv.lt y x
  | 5 => Fv.lt y x || Fv.eq x y
  | 6 => !un
  | 7 => un
  | 8 => un || Fv.eq x y
  | 9 => un || !(Fv.eq x y)
  | 10 => un || Fv.lt x y
  | 11 => un || Fv.lt x y || Fv.eq x y
  | 12 => un || Fv.lt y x
  | _ => un || Fv.lt y x || Fv.eq x y

/-- The uniform comparisons of R122. -/
def cmpUni (k : BitVec 3) (a b : Word) : Bool :=
  match k.toNat with
  | 0 => a == b
  | 1 => a != b
  | 2 => a.slt b
  | 3 => a.sle b
  | 4 => a.ult b
  | 5 => a.ule b
  | 6 => (a &&& b) != 0
  | _ => (a &&& b) == 0

/-- Bit 2 × pa + pb of a table (R94, R126). -/
def lutBit (t : BitVec 4) (pa pb : Bool) : Bool := t.getLsbD (2 * bitOf pa + bitOf pb)

/-- FCLASS: one bit for the class of an FP32 value (R98). -/
def classF32 (a : Word) : Word :=
  let neg := a.getLsbD 31
  let ex := a.extractLsb' 23 8
  let man := a.extractLsb' 0 23
  let i :=
    if ex == 0xFF#8 then (if man == 0 then (if neg then 0 else 7) else (if man.getLsbD 22 then 9 else 8))
    else if ex == 0 then (if man == 0 then (if neg then 3 else 4) else (if neg then 2 else 5))
    else (if neg then 1 else 6)
  1#32 <<< i

end Sys2Proof.Machine
end

