-- ==== Sys2Proof/Machine/Memory.lean ====
section
/-! DEFINITION. Byte memory in its canonical form, the regions of the physical address space (R333), the homes of lines, and the
page walk with its TLBs (R326-R330, R334). -/

namespace Sys2Proof.Machine

/-! ## Byte memory -/

/-- A memory is in canonical form: addresses strictly rising and no entry equal to what an unlisted address reads as (zero). -/
def Memory.wf (m : List Host.Cell) : Bool := FMap.sorted m && m.all (fun e => e.2 != 0)

/-- The byte at an address; an address that is not listed reads zero (R342, R343). -/
def memRead (m : List Host.Cell) (a : Nat) : Byte := FMap.getD m a 0

/-- One byte written; a zero byte takes its entry out. -/
def memWrite (m : List Host.Cell) (a : Nat) (b : Byte) : List Host.Cell :=
  if b = 0 then FMap.erase m a else FMap.put m a b

/-- n bytes from an address. -/
def memReadN (m : List Host.Cell) (a : Nat) : Nat → List Byte
  | 0 => []
  | n + 1 => memRead m a :: memReadN m (a + 1) n

/-- Bytes written from an address on. -/
def memWriteN (m : List Host.Cell) (a : Nat) : List Byte → List Host.Cell
  | [] => m
  | b :: bs => memWriteN (memWrite m a b) (a + 1) bs

/-! ## Regions -/

/-- The regions of R333. -/
inductive Region
  | package (die bridge off : Nat)
  | berth (idx off : Nat)
  | fabric (off : Nat)
  | hole
deriving DecidableEq, Repr

/-- The capacity of a bridge (R333). -/
def Fitting.capacity : Fitting → Nat
  | .c => 0x1000000000
  | .m => 0x9000000000

/-- The region of a physical address (R333). -/
def regionOf (f : Fitting) (pa : Nat) : Region :=
  if bits pa 51 51 = 1 then .fabric (bits pa 50 0)
  else if bits pa 51 45 = 0 ∧ bits pa 44 41 < f.dies ∧ bits pa 39 0 < f.capacity then
    .package (bits pa 44 41) (bits pa 40 40) (bits pa 39 0)
  else if bits pa 51 44 = 0x10 ∧ bits pa 43 38 = 0 then .berth (bits pa 37 30) (bits pa 29 0)
  else .hole

/-- The ports of a fitting in die order (R2); the index is the port number of HYPID (R420). -/
def Fitting.ports : Fitting → List Nat
  | .c => [0, 11]
  | .m => [0, 1, 2, 3]

/-- The dies with UALink stations (R2). -/
def Fitting.stations : Fitting → List Nat
  | .c => [1, 2, 3, 4, 7, 8, 9, 10]
  | .m => []

/-- Whether an offset lies in the range of a valid fabric window entry (R359). -/
def Fwin.holds (e : Fwin) (off : Nat) : Bool :=
  let lo := e.lo.toNat
  (bits lo 63 62 == 1 || bits lo 63 62 == 2) &&
    decide (bits lo 50 30 * 2 ^ 30 ≤ off) && decide (off < bits lo 50 30 * 2 ^ 30 + 2 ^ bits lo 61 56)

/-- The fabric window entry that governs an offset: the lowest valid one whose range holds it (R359, R360). -/
def fwinMatch (x : Die) (off : Nat) : Option (Nat × Fwin) :=
  x.mg.fwin.find? (fun e => e.2.holds off)

/-- The target address on the far side of a fabric offset (R360). -/
def fwinTarget (e : Fwin) (off : Nat) : Nat :=
  bits e.hi.toNat 51 30 * 2 ^ 30 + off - bits e.lo.toNat 50 30 * 2 ^ 30

/-- The far side's address as one key: the kind, the package and the target (R359). -/
def farKey (e : Fwin) (off : Nat) : Nat :=
  (bits e.lo.toNat 63 62 * 1024 + bits e.hi.toNat 29 20) * 2 ^ 52 + fwinTarget e off

/-- Whether a page that begins at a physical address holds a byte of a hole, as one die decodes it (R334, R353). -/
def holeAt (s : State) (die pa : Nat) : Bool :=
  match regionOf s.fit pa with
  | .hole => true
  | .fabric off => (fwinMatch (s.die die) off).isNone
  | _ => false

/-- The die whose slice or port is home for an address, as one die sees it (R245, R349, R360). -/
def homeDie (s : State) (die pa : Nat) : Nat :=
  match regionOf s.fit pa with
  | .package d _ _ => d
  | .berth i _ => bits (FMap.getD (s.die die).mg.moor i {}).hi.toNat 19 16
  | .fabric off => match fwinMatch (s.die die) off with | some (_, e) => bits e.hi.toNat 19 16 | none => die
  | .hole => die

/-- Whether an address is memory of a die's own stacks. -/
def isLocal (s : State) (die pa : Nat) : Bool :=
  match regionOf s.fit pa with
  | .package d _ _ => d == die
  | _ => false

/-- The dies of the virtual function that owns a die: those latched to its world and virtual function (R309). -/
def vfDies (s : State) (die : Nat) : List Nat :=
  let x := s.die die
  (List.range s.fit.dies).filter (fun d => (s.die d).mg.world == x.mg.world && (s.die d).mg.vf == x.mg.vf || d == die)

/-- Whether an address is package memory of a die of the caller's virtual function (R167). -/
def inVf (s : State) (die pa : Nat) : Bool :=
  match regionOf s.fit pa with
  | .package d _ _ => (vfDies s die).contains d
  | _ => false

/-- Whether a gangway request from one die is admitted by another (R424). -/
def gangwayOk (s : State) (src dst : Nat) : Bool :=
  src == dst || ((s.die dst).mg.world == (s.die src).mg.world && (s.die dst).mg.world != 0)

/-- The extent of a die that a physical address lies in (R362). -/
def extOf (s : State) (die pa : Nat) : Option Extent :=
  match regionOf s.fit pa with
  | .package d b off => if d = die then FMap.get? (s.die die).dm.extents (576 * b + off / 2 ^ 30) else none
  | _ => none

/-! ## The bytes at their homes -/

/-- The 128-byte line of an address. -/
def lineOf (a : Nat) : Nat := a / 128

/-- The die whose slice is home for an address, and the key of the line there (R245, R357): the physical line, or for the far side a key of its
target's line. -/
def homeKey (s : State) (die pa : Nat) : Option (Nat × Nat) :=
  match regionOf s.fit pa with
  | .package d _ _ => some (d, lineOf pa)
  | .fabric off => (fwinMatch (s.die die) off).map (fun e => (bits e.2.hi.toNat 19 16, 2 ^ 60 + lineOf (farKey e.2 off)))
  | _ => none

/-- A die's own copy of a remotely homed line (R246). -/
def copyFind (s : State) (die line : Nat) : Option L2Line := (s.die die).dm.l2.find? (fun x => !x.own && x.line == line)

/-- A line that a die's L2 holds as its home (R246, R357). -/
def ownFind (x : Die) (key : Nat) : Option L2Line := x.dm.l2.find? (fun x => x.own && x.line == key)

/-- One byte as its home holds it, seen from a die. -/
def homeByte (s : State) (die pa : Nat) : Byte :=
  match regionOf s.fit pa with
  | .package _ _ _ => memRead s.mem.bytes pa
  | .berth _ _ => FMap.getD s.mem.berth (die * 2 ^ 52 + pa) 0
  | .fabric off => match fwinMatch (s.die die) off with | some (_, e) => memRead s.mem.far (farKey e off) | none => 0
  | .hole => 0

/-- n bytes as their home holds them. -/
def homeBytes (s : State) (die pa n : Nat) : List Byte := (List.range n).map (fun i => homeByte s die (pa + i))

/-- The line of an address as poison marks name it (R342, R350): a berth's lines are the die's own, a fabric line its target's. -/
def poisonKey (s : State) (die pa : Nat) : Nat :=
  match regionOf s.fit pa with
  | .berth _ _ => (die + 1) * 2 ^ 46 + lineOf pa
  | .fabric off => match fwinMatch (s.die die) off with | some (_, e) => 2 ^ 60 + lineOf (farKey e off) | none => lineOf pa
  | _ => lineOf pa

/-- The line at its home that an address lies in, where the home slice or port holds it. -/
def homeLine (s : State) (die pa : Nat) : Option L2Line := (homeKey s die pa).bind (fun k => ownFind (s.die k.1) k.2)

/-- Whether a line reads poisoned at its home: by its mark, or as the home slice holds it (R342, R344). -/
def poisonedLine (s : State) (die pa : Nat) : Bool :=
  s.mem.poison.contains (poisonKey s die pa) || (match homeLine s die pa with | some x => x.poison | none => false)

/-- A line's mark cleared (R342). -/
def State.clearPoison (s : State) (die pa : Nat) : State :=
  let s := match homeKey s die pa with
    | some k => s.updDie k.1 (fun x => { x with dm := { x.dm with l2 := x.dm.l2.map (fun (y : L2Line) => if y.own && y.line == k.2 then { y with poison := false } else y) } })
    | none => s
  { s with mem := { s.mem with poison := s.mem.poison.filter (· != poisonKey s die pa) } }

/-- A line's mark set (R342). -/
def State.setPoison (s : State) (die pa : Nat) : State :=
  if s.mem.poison.contains (poisonKey s die pa) then s else { s with mem := { s.mem with poison := s.mem.poison ++ [poisonKey s die pa] } }

/-- A saturating addition to a toll counter of a die (R429). -/
def State.toll (s : State) (die i n : Nat) : State :=
  if n = 0 then s
  else s.updMg die (fun m => { m with tolls := m.tolls.modify i (fun x => min (x + n) (2 ^ 64 - 1)) })

/-- Bytes that an access of a die carries to or from its home, counted where they pass (R429): at the gangway ports of both dies, at a CXL port or a
UALink station of the VIA die, as berth bytes. -/
def State.carry (s : State) (die pa n : Nat) (wr : Bool) : State :=
  let h := homeDie s die pa
  let s := if h = die then s else (s.toll die (if wr then 8 else 7) n).toll h (if wr then 7 else 8) n
  match regionOf s.fit pa with
  | .berth _ _ => (s.toll h 9 n).toll h 11 n
  | .fabric off => match fwinMatch (s.die die) off with
    | some (_, e) => s.toll h (if bits e.lo.toNat 63 62 = 1 then 10 else 9) n
    | none => s
  | _ => s

/-- What the executor of a die's atomic has of a byte once the die's own dirty copy has gone home (R157, R246). -/
def execByte (s : State) (die pa : Nat) : Byte :=
  match copyFind s die (lineOf pa) with
  | some x => if x.dirty.contains (pa % 128) then FMap.getD x.bytes (pa % 128) 0 else homeByte s die pa
  | none => homeByte s die pa

/-- What a die sees of a byte through its L2: its own copy of a remotely homed line, or the home (R246). -/
def l2Byte (s : State) (die pa : Nat) : Byte :=
  ((copyFind s die (lineOf pa)).bind (fun x => FMap.get? x.bytes (pa % 128))).getD (homeByte s die pa)

/-- n bytes through a die's L2. -/
def l2Bytes (s : State) (die pa n : Nat) : List Byte := (List.range n).map (fun i => l2Byte s die (pa + i))

/-! ## Translation -/

/-- The current generation of an address space (R26, R330). -/
def State.gen (s : State) (asid : Nat) : BitVec 16 := FMap.getD s.pkg.gens asid 0

/-- A context's address space, root and enable (R311). -/
def Ctx.asid (x : Ctx) : Nat := bits x.asctl.toNat 23 12
def Ctx.root (x : Ctx) : Nat := bits x.asctl.toNat 63 24 * 4096
def Ctx.xlOn (x : Ctx) : Bool := x.asctl.getLsbD 0

/-- What an access needs of a page (R327). -/
inductive Need
  | read
  | write
  | fetch
deriving DecidableEq, Repr

/-- How a translation fails (R327, R349, R424). -/
inductive XErr
  | page
  | protect
  | world
  | berth
deriving DecidableEq, Repr

/-- A page-table entry is malformed (R327, R334). -/
def pteBad (s : State) (die level : Nat) (e : Nat) : Bool :=
  let leaf := bit e 6
  bits e 63 52 != 0 || bits e 11 7 != 0 ||
  (leaf && decide (level ≥ 3)) || (!leaf && level == 0) ||
  (!leaf && bits e 5 1 != 0) ||
  (leaf && level == 1 && bits e 20 12 != 0) || (leaf && level == 2 && bits e 29 12 != 0) ||
  (leaf && holeAt s die (bits e 51 12 * 4096))

/-- One level of a walk (R326, R327): the entry's bytes give the leaf (its page size in bits, frame and bits), the next table, or PAGE. -/
def walkEntry (s : State) (die level : Nat) (bs : List Byte) : Except XErr (Nat × Nat × BitVec 6) ⊕ Nat :=
  let e := ofBytes bs
  if !(bit e 0) || pteBad s die level e then .inl (.error .page)
  else if bit e 6 then .inl (.ok (12 + 9 * level, bits e 51 12 * 4096, BitVec.ofNat 6 (bits e 5 0)))
  else .inr (bits e 51 12 * 4096)

/-- The address of a walk's entry at a level. -/
def walkAddr (va level table : Nat) : Nat := table + 8 * bits va (20 + 9 * level) (12 + 9 * level)

/-- The walk from a table at a level (R326): the leaf, or PAGE. -/
def walk (s : State) (die : Nat) (va : Nat) : Nat → Nat → Except XErr (Nat × Nat × BitVec 6)
  | level, table =>
    let pa := walkAddr va level table
    if !(gangwayOk s die (homeDie s die pa)) then .error .world
    else match walkEntry s die level (l2Bytes s die pa 8) with
      | .inl r => r
      | .inr next => match level with
        | 0 => .error .page
        | l + 1 => walk s die va l next

/-- A TLB entry answers for an address (R328). -/
def TlbEntry.hits (e : TlbEntry) (asid va : Nat) (gen : BitVec 16) : Bool :=
  e.asid == asid && e.gen == gen && va / 2 ^ e.bits == e.vpage

/-- An entry made the most recently used of a TLB of n entries (R328). -/
def tlbPut (n : Nat) (t : List TlbEntry) (e : TlbEntry) : List TlbEntry :=
  (e :: t.filter (fun x => !(x.asid == e.asid && x.vpage == e.vpage && x.bits == e.bits))).take n

/-- The last-level TLB's replacement: 8 ways of 2,048 sets, by the page number (R328; log entry 52). -/
def tlbPutSet (t : List TlbEntry) (e : TlbEntry) : List TlbEntry :=
  let set := fun (x : TlbEntry) => x.vpage % 2048
  let mine := (e :: (t.filter (fun x => set x == set e)).filter
    (fun x => !(x.asid == e.asid && x.vpage == e.vpage && x.bits == e.bits))).take 8
  mine ++ t.filter (fun x => set x != set e)

/-- A translated address and whether its page is host-coherent. -/
structure Xl where
  pa : Nat
  cbit : Bool
deriving DecidableEq, Repr

/-- Permission of a leaf for a ring (R327). -/
def permOk (perms : BitVec 6) (need : Need) (ring : BitVec 2) : Bool :=
  (match need with | .read => perms.getLsbD 1 | .write => perms.getLsbD 2 | .fetch => perms.getLsbD 3) &&
    !(perms.getLsbD 5 && ring == 0)

/-- The context's bit in the mask of every fabric window entry whose range holds a filled page (R365). -/
def State.noteFabric (s : State) (die ctx pa : Nat) : State :=
  match regionOf s.fit pa with
  | .fabric off =>
    s.updMg die (fun m => { m with fwin := FMap.mapV m.fwin (fun _ (e : Fwin) => if e.holds off then { e with mask := e.mask ||| (1#64 <<< ctx) } else e) })
  | _ => s

end Sys2Proof.Machine
end

