-- ==== Sys2Proof/Machine/Bridge.lean ====
section
/-! DEFINITION. A die's bridges (R335-R344): the link, the memory-side cache, the counters and the cipher of DRAM. What a bridge does never
changes a byte of package memory as its home holds it; it changes which level holds the byte, and what DRAM stores. -/

namespace Sys2Proof.Machine

/-- The part of the state that a die's bridges work on: the memory system, the die, what is logged, and whether the request has failed on the link
(R344). -/
structure Br where
  mem : MemSys
  x : Die
  log : List LogEnt := []
  bad : Bool := false
deriving DecidableEq, Repr

/-- A bridge's work laid back into the state. -/
def State.putBr (s : State) (die : Nat) (r : Br) : State :=
  ({ s with mem := r.mem, pkg := { s.pkg with log := s.pkg.log ++ r.log } }).putDie die r.x

def State.br (s : State) (die : Nat) : Br := { mem := s.mem, x := s.die die }

def Br.updDm (r : Br) (f : DieMem → DieMem) : Br := { r with x := { r.x with dm := f r.x.dm } }
def Br.updMg (r : Br) (f : DieMgmt → DieMgmt) : Br := { r with x := { r.x with mg := f r.x.mg } }

/-- A saturating addition to a toll counter (R429). -/
def Br.toll (r : Br) (i n : Nat) : Br :=
  if n = 0 then r else r.updMg (fun m => { m with tolls := m.tolls.modify i (fun x => min (x + n) (2 ^ 64 - 1)) })

/-- A line's 128 bytes as the bridge has them: under a byte that the home slice holds dirty, what memory behind it still holds (R246). -/
def Br.line (r : Br) (line : Nat) : List Byte :=
  let old := match ownFind r.x line with | some x => x.bytes | none => []
  (List.range 128).map (fun o => FMap.getD old o (memRead r.mem.bytes (line * 128 + o)))

/-- A line poisoned and logged (R342). -/
def Br.poison (r : Br) (line : Nat) : Br :=
  { r with mem := { r.mem with poison := if r.mem.poison.contains line then r.mem.poison else r.mem.poison ++ [line] },
           log := r.log ++ [LogEnt.badLine (line * 128)] }

/-- The replace-me notice (R433): DSTATUS.REPLACE, and a media event record. -/
def Br.replaceMe (r : Br) (die : Nat) : Br :=
  let r := r.updMg (fun m => { m with replace := true })
  { r with log := r.log ++ [LogEnt.media die] }

/-- An error that error correction repairs (R342), counted: more than 1,000 of a die within 24 hours of its counter raise the notice (R433). -/
def Br.repair (r : Br) (die : Nat) : Br :=
  let now := r.x.cycle
  let r := r.updMg (fun m => { m with repairs := (now :: m.repairs).take 1001 })
  match r.x.mg.repairs[1000]? with
  | some t => if now - t ≤ 73440000000000 then r.replaceMe die else r
  | none => r

/-! ## The link (R344) -/

/-- One more flit in each direction of a link: a request and its answer (log entry 23). -/
def Br.flits (r : Br) (bridge : Nat) : Br :=
  r.updDm (fun m => { m with nonces := (m.nonces.modify (2 * bridge) (· + 1)).modify (2 * bridge + 1) (· + 1) })

/-- A request over the link: one that is to meet its fourth tag failure completes so, the link is logged, and a second such failure raises the
replace-me notice (R344, R433; log entry 23). -/
def Br.request (r : Br) (die bridge line : Nat) (wr : Bool) : Br :=
  let r := r.flits bridge
  if r.mem.linkFails.contains (line, wr) then
    let r := { r with mem := { r.mem with linkFails := r.mem.linkFails.erase (line, wr) }, log := r.log ++ [LogEnt.link die bridge], bad := true }
    let again := decide (r.x.mg.linkErrs.getD bridge 0 ≥ 1)
    let r := r.updMg (fun m => { m with linkErrs := m.linkErrs.modify bridge (· + 1) })
    if again then r.replaceMe die else r
  else { r with bad := false }

/-! ## DRAM (R340-R342) -/

/-- A bridge's data key and integrity key (R340). -/
def brKeys (x : Die) (bridge : Nat) : BitVec 256 × BitVec 256 :=
  let k := x.mg.keys.getD {}
  if bridge = 0 then (k.data0, k.tag0) else (k.data1, k.tag1)

/-- The counter block of a line's 128-bit block i (R340). -/
def counterBlock (pa : Nat) (p : PageMeta) (i : Nat) : BitVec 128 :=
  BitVec.ofNat 128 (p.major.toNat * 2 ^ 64 + FMap.getD p.minors (pa / 128 % 32) 0 * 2 ^ 57 + bits pa 51 7 * 2 ^ 12 + i)

/-- A line's 128 bytes under its pad: a plaintext encrypted, or a ciphertext decrypted (R340). -/
def padLine (key : BitVec 256) (pa : Nat) (p : PageMeta) (bs : List Byte) : List Byte :=
  (List.range 8).flatMap (fun i =>
    List.zipWith (· ^^^ ·) (slice bs (16 * i) 16) (leBytes 16 (Config.aes256 key (counterBlock pa p i)).toNat))

/-- The four sector tags of a ciphertext (R342): the message's bytes in the rule's order, numbers lowest byte first (log entry 11). -/
def lineTags (key : BitVec 256) (pa : Nat) (p : PageMeta) (cipher : List Byte) : List Byte :=
  (List.range 4).map (fun k =>
    (Config.aesCmac key (slice cipher (32 * k) 32 ++ leBytes 16 (counterBlock pa p 0).toNat ++ [BitVec.ofNat 8 k])).setWidth 8)

/-- A line as DRAM stores it under a page's counters. -/
def dramLine (keys : BitVec 256 × BitVec 256) (pa : Nat) (p : PageMeta) (plain : List Byte) : DramLine :=
  let c := padLine keys.1 pa p plain
  ⟨c, lineTags keys.2 pa p c⟩

/-- The counters of a page that a write of line i leaves (R341): the minor counter rises, or at 127 the major counter does and every minor is
cleared; the line is fresh no more. -/
def PageMeta.bump (p : PageMeta) (i : Nat) : PageMeta :=
  let q := if FMap.getD p.minors i 0 = 127 then { p with major := p.major + 1, minors := [] }
    else { p with minors := FMap.put p.minors i (FMap.getD p.minors i 0 + 1) }
  { q with fresh := q.fresh &&& ~~~(1#32 <<< i) }

/-- The other lines of a page encrypted again under new counters, those that are not fresh (R341). The page's address is `pa` and its place in
DRAM `at_`. -/
def reencrypt (keys : BitVec 256 × BitVec 256) (old new : PageMeta) (pa at_ i : Nat) (d : FMap DramLine) : FMap DramLine :=
  (List.range 32).foldl (fun d j =>
    if j = i ∨ old.fresh.getLsbD j then d
    else match FMap.get? d (at_ / 128 + j) with
      | some x => FMap.put d (at_ / 128 + j) (dramLine keys (pa + 128 * j) new (padLine keys.1 (pa + 128 * j) old x.cipher))
      | none => d) d

/-- A line stored in DRAM (R341): of package memory under its bridge's keys, of a berth under its station's (R350). `at_` is where it lies. -/
def storeLine (keys : BitVec 256 × BitVec 256) (p : PageMeta) (pa at_ : Nat) (plain : List Byte) (d : FMap DramLine) : PageMeta × FMap DramLine :=
  let i := pa / 128 % 32
  let q := p.bump i
  let d := if FMap.getD p.minors i 0 = 127 then reencrypt keys p q (pa / 4096 * 4096) (at_ / 4096 * 4096) i d else d
  (q, FMap.put d (at_ / 128) (dramLine keys pa q plain))

/-- The page of a physical address, and its counters (R341). -/
def pageMeta (s : State) (pa : Nat) : PageMeta := FMap.getD s.mem.pages (pa / 4096) {}

/-- A page's counters looked up in the bridge's counter cache, the page the most recently used (R341). -/
def Br.counters (r : Br) (bridge page : Nat) : Br :=
  r.updDm (fun m => if bridge = 0 then { m with ctr0 := page :: m.ctr0.filter (· != page) } else { m with ctr1 := page :: m.ctr1.filter (· != page) })

/-- Whether a bridge's counter cache holds a page. -/
def Br.hasCounters (r : Br) (bridge page : Nat) : Bool := (if bridge = 0 then r.x.dm.ctr0 else r.x.dm.ctr1).contains page

/-- A page's counters fetched into the counter cache where they are not there (R341): metadata that fails poison every line of the page that is not
fresh (R342). -/
def Br.fetchCounters (r : Br) (bridge page : Nat) : Br :=
  let fresh := (FMap.getD r.mem.pages page {}).fresh
  let lost := r.mem.badPages.contains page && !r.hasCounters bridge page
  let r := r.counters bridge page
  if lost then
    let r := { r with mem := { r.mem with badPages := r.mem.badPages.filter (· != page) } }
    ((List.range 32).filter (fun i => !fresh.getLsbD i)).foldl (fun r i => r.poison (page * 32 + i)) r
  else r

/-- A line written to DRAM (R341), with the lines of its page that are encrypted again. An error that the line had met is written over. -/
def Br.dramWrite (r : Br) (bridge line : Nat) : Br :=
  let r := (r.fetchCounters bridge (line / 32)).toll 6 128
  let p := FMap.getD r.mem.pages (line / 32) {}
  let again := if FMap.getD p.minors (line % 32) 0 = 127 then
      ((List.range 32).filter (fun j => j != line % 32 && !p.fresh.getLsbD j && (FMap.get? r.mem.dram (line / 32 * 32 + j)).isSome)).length else 0
  let r := (r.toll 5 (128 * again)).toll 6 (128 * again)
  let out := storeLine (brKeys r.x bridge) (FMap.getD r.mem.pages (line / 32) {}) (line * 128) (line * 128) (r.line line) r.mem.dram
  { r with mem := { r.mem with pages := FMap.put r.mem.pages (line / 32) out.1, dram := out.2, damaged := r.mem.damaged.filter (· != line) } }

/-- Sectors of a line fetched from DRAM (R341, R342): a fresh line makes no access; a sector whose check fails poisons its line. -/
def Br.dramRead (r : Br) (bridge line n : Nat) : Br :=
  let fresh := (FMap.getD r.mem.pages (line / 32) {}).fresh
  let r := r.fetchCounters bridge (line / 32)
  if fresh.getLsbD (line % 32) then r
  else
    let r := r.toll 5 (32 * n)
    if r.mem.damaged.contains line then
      { r.poison line with mem := { (r.poison line).mem with damaged := r.mem.damaged.filter (· != line) } }
    else r

/-! ## The memory-side cache (R338, R339) -/

/-- The memory-side cache of a bridge. -/
def mscOf (m : DieMem) (bridge : Nat) : List MscLine := if bridge = 0 then m.msc0 else m.msc1

def setMsc (m : DieMem) (bridge : Nat) (ls : List MscLine) : DieMem :=
  if bridge = 0 then { m with msc0 := ls } else { m with msc1 := ls }

/-- The set of a line in its bridge's memory-side cache (R338). -/
def mscSet (line : Nat) : Nat := line % 32768

/-- The slots that lines of a physical line take in a set. -/
def physUsed (ls : List MscLine) (set phys : Nat) : Nat :=
  ((ls.filter (fun x => mscSet x.line == set && x.phys == phys)).map (·.size)).foldl (· + ·) 0

/-- A line leaves the memory-side cache; a dirty one is written to DRAM (R338). -/
def Br.mscEvict (r : Br) (bridge : Nat) (y : MscLine) : Br :=
  let r := if y.dirty then r.dramWrite bridge y.line else r
  r.updDm (fun m => setMsc m bridge ((mscOf m bridge).filter (fun z => z.line != y.line)))

/-- Lines of one physical line removed, least recently used first, until a size fits beside the rest; the lines removed, in order
of removal (R339). -/
def cascade (need : Nat) : List MscLine → List MscLine
  | [] => []
  | x :: xs => if ((x :: xs).map (·.size)).foldl (· + ·) 0 + need ≤ 4 then [] else x :: cascade need xs

/-- A line takes a size in its physical line: others make room, the most recent of them moving to another physical line that has the
slots, the rest being evicted (R339). The line becomes the most recently used. -/
def Br.mscGrow (r : Br) (bridge : Nat) (x : MscLine) : Br :=
  let ls := mscOf r.x.dm bridge
  let mates := (ls.filter (fun y => mscSet y.line == mscSet x.line && y.phys == x.phys && y.line != x.line)).reverse
  let out := cascade x.size mates
  let mover := out.getLast?
  let place := mover.bind (fun y => (List.range 8).find? (fun p => p != x.phys && decide (physUsed ls (mscSet x.line) p + y.size ≤ 4)))
  let gone := match mover, place with | some _, some _ => out.dropLast | _, _ => out
  let r := gone.foldl (fun r y => r.mscEvict bridge y) r
  let r := match mover, place with
    | some y, some p => r.updDm (fun m => setMsc m bridge ((mscOf m bridge).map (fun (z : MscLine) => if z.line == y.line then { z with phys := p } else z)))
    | _, _ => r
  r.updDm (fun m => setMsc m bridge (x :: (mscOf m bridge).filter (fun y => y.line != x.line)))

/-- The sectors of a set, in number. -/
def sectorCount (secs : BitVec 4) : Nat := ((List.range 4).filter (fun k => secs.getLsbD k)).length

/-- The slots that a line's footprint takes (R338): one for each valid sector, and with all four the size that the compressor makes of its bytes. -/
def Br.mscSize (r : Br) (line : Nat) (secs : BitVec 4) : Nat :=
  if secs = 0xF then (Config.lineSlots (r.line line)).toNat + 1 else sectorCount secs

/-- A line stands in the memory-side cache with its sectors and a size (R338): a new tag pushes out the least recently used of sixteen, and goes
where there is room or to the first physical line. -/
def Br.mscPut (r : Br) (bridge line : Nat) (secs : BitVec 4) (wr : Bool) : Br :=
  match (mscOf r.x.dm bridge).find? (fun y => y.line == line) with
  | some y =>
    let size := if secs = y.sectors && !wr then y.size else r.mscSize line secs
    r.mscGrow bridge { y with sectors := secs, dirty := y.dirty || wr, size := size }
  | none =>
    let set := (mscOf r.x.dm bridge).filter (fun y => mscSet y.line == mscSet line)
    let r := match (set.drop 15).getLast? with | some y => r.mscEvict bridge y | none => r
    let n := r.mscSize line secs
    let phys := ((List.range 8).find? (fun p => decide (physUsed (mscOf r.x.dm bridge) (mscSet line) p + n ≤ 4))).getD 0
    r.mscGrow bridge ⟨line, secs, wr, n, phys⟩

/-- The sectors of a line that the memory-side cache holds. -/
def Br.mscSectors (r : Br) (bridge line : Nat) : BitVec 4 :=
  match (mscOf r.x.dm bridge).find? (fun y => y.line == line) with | some y => y.sectors | none => 0

/-! ## Line accesses (R335) -/

/-- A read of sectors of a line (R335): the missing ones fetched, the line filled. -/
def Br.read (r : Br) (die bridge line : Nat) (secs : BitVec 4) : Br :=
  let r := r.request die bridge line false
  if r.bad then r
  else
    let have_ := r.mscSectors bridge line
    let miss := secs &&& ~~~have_
    let r := if miss = 0 then r else r.dramRead bridge line (sectorCount miss)
    r.mscPut bridge line (have_ ||| secs) false

/-- A write-back of a line's dirty bytes from L2 (R335): the line is filled first where sectors are absent, and merges; one of all 128 bytes
clears the poison mark (R342). One that the link drops leaves the line marked (R344). -/
def Br.write (r : Br) (die bridge line : Nat) (full : Bool) : Br :=
  let r := r.request die bridge line true
  if r.bad then { r with mem := { r.mem with poison := if r.mem.poison.contains line then r.mem.poison else r.mem.poison ++ [line] } }
  else
    let miss := ~~~(r.mscSectors bridge line)
    let r := if miss = 0 then r else r.dramRead bridge line (sectorCount miss)
    let r := r.mscPut bridge line 0xF true
    if full then { r with mem := { r.mem with poison := r.mem.poison.filter (· != line) } } else r

end Sys2Proof.Machine
end

