-- ==== Sys2Proof/Machine/Held.lean ====
section
/-! DEFINITION. Atomic operations (R166, R168), and the views of children of deterministic frames: what their held writes make of the bytes
they read (R272-R274, R436, R440). -/

namespace Sys2Proof.Machine

/-! ## Atomic operations -/

/-- old ⊕ x on n bits (R166); CAS takes x as the compare value and y as the new one. -/
def atomN {n : Nat} (op : AtomOp) (old x y : BitVec n) : BitVec n :=
  match op with
  | .add => old + x
  | .minS => minS old x
  | .maxS => maxS old x
  | .minN => minN old x
  | .maxN => maxN old x
  | .and => old &&& x
  | .or => old ||| x
  | .xor => old ^^^ x
  | .exch => x
  | .addF32 => (addF32 (old.setWidth 32) (x.setWidth 32)).setWidth n
  | .cas => if old = x then y else old
  | .read => old

/-- The new value of a 4- or 8-byte location. -/
def atomNew (op : AtomOp) (wide : Bool) (old x y : DWord) : DWord :=
  if wide then atomN op old x y else (atomN op (loHalf old) (loHalf x) (loHalf y)).setWidth 64

/-- The bytes of an atomic's location (R276). -/
def atomSize (wide : Bool) : Nat := if wide then 8 else 4

/-! ## Held writes -/

/-- Bytes laid over others where ranges meet: `bs` at `pa` over `old`, which begins at `base`. -/
def overlay (base : Nat) (old : List Byte) (pa : Nat) (bs : List Byte) : List Byte :=
  old.mapIdx (fun i b => if pa ≤ base + i ∧ base + i < pa + bs.length then bs.getD (base + i - pa) 0 else b)

/-- The locations that held atomics touch. -/
def heldAtoms (ops : List HeldOp) : List (Nat × Nat) :=
  ops.filterMap (fun o => match o.act with | .atomic _ w _ _ => some (o.pa, atomSize w) | .store _ _ => none)

/-- One held write laid over bytes that begin at `base`. -/
def HeldOp.lay (base : Nat) (bs : List Byte) (o : HeldOp) : List Byte :=
  match o.act with
  | .store d _ => overlay base bs o.pa d
  | .atomic op w x y =>
    let n := atomSize w
    if base ≤ o.pa ∧ o.pa + n ≤ base + bs.length then
      overlay base bs o.pa (leBytes n (atomNew op w (BitVec.ofNat 64 (ofBytes (slice bs (o.pa - base) n))) x y).toNat)
    else bs

/-- Bytes of a view (R272, R274): held writes laid in order over the given bytes, and under an atomic over those of its executor. The window is the
aligned 8-byte words that the bytes lie in, so that it holds whole every location of an atomic that it meets. -/
def heldView (s : State) (die : Nat) (ops : List HeldOp) (pa : Nat) (under : List Byte) : List Byte :=
  if ops.isEmpty then under
  else
    let lo := pa / 8 * 8
    let atoms := heldAtoms ops
    let base := (List.range (roundUp (pa + under.length) 8 - lo)).map (fun i =>
      let a := lo + i
      if atoms.any (fun e => decide (e.1 ≤ a) && decide (a < e.1 + e.2)) then execByte s die a
      else if pa ≤ a ∧ a < pa + under.length then under.getD (a - pa) 0
      else l2Byte s die a)
    slice (ops.foldl (HeldOp.lay lo) base) (pa - lo) under.length

/-- Whether a line reads poisoned in a view (R272, R342): its mark, then what held stores make of it. -/
def heldMark (ops : List HeldOp) (pa : Nat) (home : Bool) : Bool :=
  ops.foldl (fun b o => match o.act with
    | .store _ m => if lineOf o.pa = lineOf pa then m.getD b else b
    | .atomic _ _ _ _ => b) home

/-- The held writes that a child's reads see (R272): its own, and under them those of the deterministic children it stands in. -/
def heldChain (s : State) : Nat → Option Nat → List HeldOp
  | 0, _ => []
  | _, none => []
  | n + 1, some c =>
    match FMap.get? s.children c with
    | none => []
    | some x => heldChain s n x.owner ++ (if x.det then x.held else [])

/-- The held writes seen by a child of a deterministic frame, or by a party that is none. -/
def heldOf (s : State) (child : Option Nat) : List HeldOp := heldChain s 64 child

/-- Whether a line reads poisoned to a child of a deterministic frame, or to a party that is none (R272, R342). -/
def viewMark (s : State) (die : Nat) (child : Option Nat) (pa : Nat) : Bool := heldMark (heldOf s child) pa (poisonedLine s die pa)

/-- Whether a child's view takes in what another holds (R272). -/
def inChain (s : State) (k : Nat) : Nat → Option Nat → Bool
  | 0, _ => false
  | _, none => false
  | n + 1, some c => c == k || (match FMap.get? s.children c with | none => false | some x => inChain s k n x.owner)

/-- The lines of held writes. -/
def heldLines (ops : List HeldOp) : List Nat :=
  (ops.flatMap (fun o => match o.act with
    | .store d _ => if d.length = 0 then [] else [lineOf o.pa, lineOf (o.pa + d.length - 1)]
    | .atomic _ _ _ _ => [lineOf o.pa])).dedup

/-- The writes that an access would add to a deterministic child's held set. -/
def Access.heldOps (a : Access) : List HeldOp :=
  match a.kind with
  | .store bs => [⟨a.va.toNat / 128, a.pa, a.gen, .store bs (if a.full then some false else none), a.cbit⟩]
  | .atomic op wide x y _ _ _ => if op = .read then [] else [⟨a.va.toNat / 128, a.pa, a.gen, .atomic op wide x y, a.cbit⟩]
  | _ => []

/-- The pairs of child and held line of a context on a die (R273), those of writes on their way with them. -/
def heldPairs (s : State) (die ctx : Nat) : List (Nat × Nat) :=
  ((s.children.filter (fun e => e.2.die == die && e.2.ctx == ctx)).flatMap (fun e => (heldLines e.2.held).map (fun l => (e.1, l))) ++
    (s.flight.filter (fun a => a.die == die && a.ctx == ctx)).flatMap (fun a => a.child.flatMap (fun c => (heldLines a.heldOps).map (fun l => (c, l))))).dedup

/-- The shadow area's capacity in lines (R271). -/
def shadowLines (x : Ctx) : Nat := 2 ^ bits x.determ.toNat 61 57

/-- Whether pairs of child and line more would still fit the shadow area of a context (R273, R440). -/
def pairsFit (s : State) (die ctx : Nat) (more : List (Nat × Nat)) : Bool :=
  let have_ := heldPairs s die ctx
  let new := (more.filter (fun p => !have_.contains p)).dedup
  new.isEmpty || decide (have_.length + new.length ≤ shadowLines (s.ctx die ctx))

/-- Whether held writes of a child would fit it. -/
def heldFits (s : State) (cid : Nat) (c : Child) (ops : List HeldOp) : Bool :=
  pairsFit s c.die c.ctx ((heldLines ops).map (fun l => (cid, l)))

/-- The child of a deterministic frame that a child's accesses belong to: itself, or the nearest one above it (R272). -/
def detOwner (s : State) : Nat → Option Nat → Option Nat
  | 0, _ => none
  | _, none => none
  | n + 1, some c =>
    match FMap.get? s.children c with
    | none => none
    | some x => if x.det then some c else detOwner s n x.owner

/-- The deterministic child of a lane (R272, R436). -/
def laneDet (s : State) (g : Group) (l : Nat) : Option Nat := detOwner s 64 (g.lane l).child

/-- The children on whose behalf a uniform access of some lanes is made: those of the lanes that are no helpers, lowest lane first (R436). -/
def holdsOf (s : State) (g : Group) (lanes : Word) : List (Option Nat) :=
  match ((lanesOf lanes).filter (fun l => !(g.lane l).helper)).map (fun l => laneDet s g l) with
  | [] => [none]
  | hs => hs.reverse.dedup.reverse

/-- The first of them: whose view a uniform read takes (R436). -/
def holdOf (s : State) (g : Group) (lanes : Word) : Option Nat := (holdsOf s g lanes).headD none

end Sys2Proof.Machine
end

