-- ==== Sys2Proof/Machine/Caches.lean ====
section
/-! DEFINITION. L1 and its throttle's tags (R234, R243, R244), the lines of L2 at their homes and the copies of remotely homed ones (R245,
R246, R357), coherence objects (R259-R262, R264), writes at a home, and reconciliation at edges (R258). -/

namespace Sys2Proof.Machine

/-! ## L1 -/

/-- The sets of an L1: its bytes / 1,024, the L1 being what the scratchpad split leaves of 512 KiB (R238, R243). -/
def l1Sets (split : Nat) : Nat := (8 - split) * 64

/-- The sectors that a span of a line lies in (R243). -/
def sectorsOf (off n : Nat) : List Nat := (List.range 4).filter (fun k => decide (k * 32 < off + n) && decide (off < k * 32 + 32))

/-- Sectors as a mask. -/
def sectorMask (off n : Nat) : BitVec 4 := (sectorsOf off n).foldl (fun m k => m ||| (1#4 <<< k)) 0

/-- The bytes of an access that hits L1 (R243). -/
def l1Find (c : Core) (asid pa n : Nat) : Option (List Byte × Bool) :=
  match c.l1.find? (fun x => x.line == lineOf pa && x.asid == asid) with
  | none => none
  | some x =>
    if (sectorsOf (pa % 128) n).all (fun k => x.sectors.getLsbD k) then
      some ((List.range n).map (fun i => FMap.getD x.bytes (pa % 128 + i) 0), x.tags)
    else none

/-- A line made the most recently used of its set of eight; the line that falls out enters the victim tags (R234, R243). -/
def l1Put (c : Core) (x : L1Line) : Core :=
  let sets := l1Sets c.split
  let same := fun (y : L1Line) => y.line % sets == x.line % sets
  let set := x :: (c.l1.filter same).filter (fun y => !(y.line == x.line && y.asid == x.asid))
  { c with l1 := set.take 8 ++ c.l1.filter (fun y => !same y),
           victims := ((set.drop 8).map (·.line) ++ c.victims).take 256 }

/-- A hit line made the most recently used (R243). -/
def l1Touch (c : Core) (asid pa : Nat) : Core :=
  match c.l1.find? (fun x => x.line == lineOf pa && x.asid == asid) with
  | some x => l1Put c x
  | none => c

/-- The smallest naturally aligned span of 16, 32, 64 or 128 bytes that holds a range of a line (R337). -/
def spanOf (off n : Nat) : Nat × Nat :=
  match [16, 32, 64, 128].find? (fun k => decide (off / k = (off + n - 1) / k)) with
  | some k => (off / k * k, k)
  | none => (0, 128)

/-- A fill of the sectors of a requested span from given line bytes (R243, R337). -/
def l1Fill (c : Core) (asid line : Nat) (span : Nat × Nat) (data : List Byte) (bad : Bool) : Core :=
  let secs := sectorsOf span.1 span.2
  let old := (c.l1.find? (fun x => x.line == line && x.asid == asid)).getD ⟨line, asid, 0, [], false⟩
  let bytes := secs.foldl (fun m sec => (List.range 32).foldl
    (fun m i => FMap.put m (sec * 32 + i) (data.getD (sec * 32 + i) 0)) m) old.bytes
  l1Put c { old with sectors := old.sectors ||| sectorMask span.1 span.2, bytes := bytes, tags := old.tags || bad }

/-- A store's update of the sectors that L1 already holds (R243); the store that completes a whole line clears its tags (R342). A store is no
use of the line for the order of replacement (log entry 84). -/
def l1Store (c : Core) (asid pa : Nat) (bs : List Byte) (full : Bool) : Core :=
  { c with l1 := c.l1.map (fun x =>
      if x.line == lineOf pa && x.asid == asid then
        { x with tags := x.tags && !full, bytes := ((List.range bs.length).zip bs).foldl (fun m e =>
            if x.sectors.getLsbD ((pa % 128 + e.1) / 32) then FMap.put m (pa % 128 + e.1) e.2 else m) x.bytes }
      else x) }

/-- A line taken out of L1. -/
def l1Drop (c : Core) (asid line : Nat) : Core := { c with l1 := c.l1.filter (fun x => !(x.line == line && x.asid == asid)) }

/-- Self-invalidation: every L1 line of the address space goes (R244). -/
def l1Self (c : Core) (asid : Nat) : Core := { c with l1 := c.l1.filter (fun x => x.asid != asid) }

/-- A miss counted, and a lost hit when the line stands in the victim tags (R234). -/
def l1Miss (c : Core) (line : Nat) : Core :=
  { c with misses := c.misses + 1, lostHits := c.lostHits + bitOf (c.victims.contains line) }

/-! ## Where an access may go -/

/-- Why an access cannot be performed where it arrives (R330, R334, R349, R360, R365, R424). -/
inductive AErr
  | page
  | protect
  | world
  | stale
  | berth
  | lost
  | full
deriving DecidableEq, Repr

def XErr.toA : XErr → AErr
  | .page => .page
  | .protect => .protect
  | .world => .world
  | .berth => .berth

/-- The STATE of a die's berth entry (R348): a drain window that has run out has closed the berth (R351). -/
def berthState (s : State) (die i : Nat) : Nat :=
  let e := FMap.getD (s.die die).mg.moor i {}
  let st := bits e.lo.toNat 63 62
  match e.drainEnd with
  | some t => if st = 2 ∧ t ≤ (s.die die).cycle then 3 else st
  | none => st

/-- Whether the station that an entry names on its VIA die is enabled (R348, R359, R420). -/
def stationOn (s : State) (via : Nat) (hi : DWord) : Bool := (s.die via).mg.stnen.getLsbD (bits hi.toNat 15 14)

/-- Why an access may not be performed at the place that holds an address, if it may not: the gangway to the die that holds it or to the VIA die
(R349, R424), the berth's STATE (R349), a station that is not enabled (R420; log entry 81), a lost range (R365), an error answered by an expander
(R362) or a peer (R366). -/
def placeErr (s : State) (die pa : Nat) : Option AErr :=
  let at_ := homeDie s die pa
  let via := if gangwayOk s die at_ then none else some AErr.world
  match regionOf s.fit pa with
  | .package _ _ _ => via
  | .berth i _ =>
    if (berthState s die i = 1 ∨ berthState s die i = 2) ∧ stationOn s at_ (FMap.getD (s.die die).mg.moor i {}).hi then via else some .berth
  | .fabric off =>
    match fwinMatch (s.die die) off with
    | none => some .page
    | some (_, e) =>
      if e.lost then some .lost
      else if via.isSome then via
      else if bits e.lo.toNat 63 62 = 2 ∧ !stationOn s at_ e.hi then some .world
      else if s.mem.refused.contains (die, poisonKey s die pa) then some (if bits e.lo.toNat 63 62 = 1 then .protect else .world)
      else none
  | .hole => some .page

/-- Whether an access ends at the die's own copy of the line, or at a C line of its port's slice, and so never reaches the station or the far side, which
would refuse it (R334, R349, R351, R362): a read whose bytes are there, a write to a berth's copy that no drain window writes through. -/
def copyServes (s : State) (die pa n : Nat) (wr : Bool) : Bool :=
  match regionOf s.fit pa with
  | .berth i _ =>
    berthState s die i != 3 && (match copyFind s die (lineOf pa) with
      | some x => if wr then berthState s die i != 2 else (List.range n).all (fun k => (FMap.get? x.bytes (pa % 128 + k)).isSome)
      | none => false)
  | .fabric _ => !wr && (match copyFind s die (lineOf pa) with
      | some x => (List.range n).all (fun k => (FMap.get? x.bytes (pa % 128 + k)).isSome)
      | none => (homeLine s die pa).isSome)
  | _ => false

/-- Why a read or write of n bytes cannot be performed where it arrives. -/
def accessErr (s : State) (die pa n : Nat) (wr : Bool) : Option AErr :=
  match placeErr s die pa with
  | some .lost => some .lost
  | e => if copyServes s die pa n wr then none else e

/-! ## Subscribing, and the wake of a WAITGE (R145, R258) -/

/-- What is clean in the copies on a die that meet a test is dropped: of a dirty copy its dirty bytes stay (R258). -/
def dropClean (s : State) (die : Nat) (f : L2Line → Bool) : State :=
  s.updDm die (fun m => { m with l2 := m.l2.filterMap (fun x =>
    if x.own || !f x then some x
    else if x.dirty.isEmpty then none
    else some { x with bytes := x.bytes.filter (fun e => x.dirty.contains e.1) }) })

/-- The consumer half: L1 self-invalidation on the core, and from .ten on what is clean in every copy of the address space on the die goes
(R244, R258). -/
def consumerHalf (s : State) (die core asid : Nat) (wide : Bool) : State :=
  let s := s.updCore die core (fun c => l1Self c asid)
  if wide then dropClean s die (fun x => x.users.any (fun u => u.asid == asid)) else s

/-- A group parked at a WAITGE passes it (R145): the consumer half, and its lanes go on behind it. Nothing is outstanding then (R117), so that an S
marker does not hold it. -/
def passWait (s : State) (gid : Nat) (g : Group) : State :=
  let now := (s.die g.die).cycle
  let s := consumerHalf s g.die g.core (s.ctx g.die g.ctx).asid true
  let at_ := (g.lane ((lanesOf g.mask).headD 0)).pc
  let g := g.updLanes g.mask (fun _ x => { x with pc := x.pc + 4 })
  s.putGroup gid { g with wait := .run, readySince := now, ldy := 0, b := if g.b = at_ then at_ + 4 else g.b }

/-- The 64-bit word that a group parked at a WAITGE tests (R145, R274): as the child of its lowest issuing lane sees it, or at its home. -/
def waitValue (s : State) (g : Group) (pa : Nat) : Nat := ofBytes (heldView s g.die (heldOf s (holdOf s g g.mask)) pa (homeBytes s g.die pa 8))

/-- Every WAITGE that meets a condition on its group, its kind and its word is tested again, as something has reached the word (R145). -/
def retestWaits (s : State) (f : Group → Bool → Nat → Bool) : State :=
  foldNames s (namesWhere s.groups (fun _ g => match g.wait with | .waitge sys a _ => f g sys a | _ => false)) (fun s gid =>
    match FMap.get? s.groups gid with
    | some g => match g.wait with
      | .waitge _ a v => if v.toNat ≤ waitValue s g a then passWait s gid g else s
      | _ => s
    | none => s)

/-- Whether two addresses, each as a die has it, name one word of memory (R349, R359). -/
def sameWord (s : State) (die pa die' pa' : Nat) : Bool := poisonKey s die pa == poisonKey s die' pa' && pa / 8 % 16 == pa' / 8 % 16

/-- An add, atomic, RED or host AtomicOp has reached a word (R145). -/
def wakeWord (s : State) (die pa : Nat) : State := retestWaits s (fun g _ a => sameWord s g.die a die pa)

/-- An add or atomic has entered a deterministic child's view of a word (R145, R274): who waits in that view tests it again. -/
def wakeHeld (s : State) (k pa : Nat) : State :=
  retestWaits s (fun g _ a => a == pa / 8 * 8 && inChain s k 64 (holdOf s g g.mask))

/-! ## Bytes at their home -/

/-- Bytes of one line laid into memory at offsets from its base. -/
def memPut (m : List Host.Cell) (base : Nat) (es : List (Nat × Byte)) : List Host.Cell := es.foldl (fun m e => memWrite m (base + e.1) e.2) m

/-- Bytes from an offset on. -/
def runOf (off : Nat) (bs : List Byte) : List (Nat × Byte) := bs.mapIdx (fun i b => (off + i, b))

/-- Bytes become dirty in the line of a home slice: what memory behind holds under them is kept (R246). -/
def L2Line.soil (x : L2Line) (m : List Host.Cell) (base : Nat) (es : List (Nat × Byte)) : L2Line :=
  es.foldl (fun x e => if x.dirty.contains e.1 then x
    else { x with dirty := x.dirty ++ [e.1], bytes := FMap.put x.bytes e.1 (memRead m (base + e.1)) }) x

/-- A line at its home changed in place. -/
def updOwn (s : State) (die key : Nat) (f : L2Line → L2Line) : State :=
  s.updDm die (fun m => { m with l2 := m.l2.map (fun x => if x.own && x.line == key then f x else x) })

/-- Bytes of a line of package memory take their place at the home (R246, R335): in the slice's line, dirty there, or through the bridge. -/
def placeBytes (s : State) (d bridge line : Nat) (es : List (Nat × Byte)) : State :=
  let put := { s with mem := { s.mem with bytes := memPut s.mem.bytes (line * 128) es } }
  match ownFind (s.die d) line with
  | some _ => updOwn put d line (fun x => x.soil s.mem.bytes (line * 128) es)
  | none =>
    let r := (put.br d).write d bridge line (es.length == 128)
    if r.bad then s.putBr d { r with mem := { r.mem with bytes := s.mem.bytes } } else put.putBr d r

/-- A home slice's dirty line is written back to memory as it leaves the slice (R246, R335). What the link drops is lost (R344). -/
def homeOut (s : State) (die : Nat) (x : L2Line) : State :=
  if x.dirty.isEmpty then s
  else match x.line / 2 ^ 60, regionOf s.fit (x.line * 128) with
    | 0, .package _ b _ =>
      let r := (s.br die).write die b x.line (x.dirty.length == 128)
      s.putBr die (if r.bad then { r with mem := { r.mem with bytes := memPut r.mem.bytes (x.line * 128) x.bytes } } else r)
    | _, _ => s.toll die 10 (64 * (([0, 1] : List Nat).filter (fun h => x.dirty.any (fun o => o / 64 == h))).length)

/-- A write to a launch line whose take was abandoned has the line watched again (R441). -/
def State.rearm (s : State) (pa : Nat) : State :=
  if s.ctxs.all (fun e => e.2.rewatch.isEmpty) then s
  else { s with ctxs := FMap.mapV s.ctxs (fun k (x : Ctx) => { x with rewatch := x.rewatch.filter (fun l =>
    match walk s (k / 64) (x.llines.toNat + 128 * l) 4 x.root with
    | .ok (b, f, _) => lineOf (f + (x.llines.toNat + 128 * l) % 2 ^ b) != lineOf pa
    | .error _ => true) }) }

/-- A snoop-filter entry of the expander recalled from every holder that is not kept (R363): an Exclusive one returns its data, a free value
(log entry 27). -/
def recallSnoop (s : State) (die line : Nat) (keep : Word) : State :=
  match (s.die die).dm.expSnoop.find? (fun x => x.line == line) with
  | none => s
  | some x =>
    let left := x.holders &&& keep
    let s := if x.excl && left == 0 then
        let (n, s) := s.drawN 8
        match regionOf s.fit (line * 64) with
        | .package d b _ => placeBytes s d b (line / 2) (runOf (line % 2 * 64) (leBytes 64 n))
        | _ => s
      else s
    s.updDm die (fun m => { m with expSnoop := m.expSnoop.filterMap (fun y =>
      if y.line = line then (if left = 0 then none else some { y with holders := left }) else some y) })

/-- Every entry over a range recalled. -/
def recallRange (s : State) (die pa n : Nat) (keep : Word) : State :=
  if (s.die die).dm.expSnoop.isEmpty || n == 0 then s
  else foldNames s ((List.range ((pa + n - 1) / 64 + 1 - pa / 64)).map (fun i => pa / 64 + i)) (fun s l => recallSnoop s die l keep)

/-- The lender's frame of a berth's byte (R349), as a place of its own in `MemSys.dram`: package, then address. -/
def lenderAt (e : Moor) (off : Nat) : Nat := (bits e.lo.toNat 29 20 + 1) * 2 ^ 52 + bits e.lo.toNat 51 30 * 2 ^ 30 + off

/-- Whether a station's request is to meet its fourth lost flit (R344, R366). -/
def stationFails (s : State) (die pa : Nat) (wr : Bool) : Bool :=
  s.mem.linkFails.contains (poisonKey s die pa, wr) && (match regionOf s.fit pa with | .berth _ _ => true | .fabric _ => true | _ => false)

/-- It has met it: the request is over, and the station is logged; a second such failure at a die's stations raises the replace-me notice (R344,
R433; log entry 23). -/
def stationFailed (s : State) (die pa : Nat) (wr : Bool) : State :=
  let at_ := homeDie s die pa
  let again := decide ((s.die at_).mg.linkErrs.getD 2 0 ≥ 1)
  let s := { s with mem := { s.mem with linkFails := s.mem.linkFails.erase (poisonKey s die pa, wr) },
                    pkg := { s.pkg with log := s.pkg.log ++ [LogEnt.station at_] } }
  let s := s.updMg at_ (fun m => { m with linkErrs := m.linkErrs.modify 2 (· + 1) })
  if again then s.putBr at_ ((s.br at_).replaceMe at_) else s

/-- The metadata area of a berth (R348). -/
def Moor.metaBase (e : Moor) : Nat := bits e.hi.toNat 51 21 * 2 ^ 21

/-- A page's 64 bytes of counters in a berth's metadata area, and where a line's tags lie there (R341, R350; log entry 67): MAJOR, the minor counters,
and the FRESH mask inverted, so that an area of zeros says that every line is fresh. -/
def PageMeta.bytes (p : PageMeta) : List Byte :=
  leBytes 8 p.major.toNat ++ leBytes 28 ((List.range 32).foldl (fun n i => n + FMap.getD p.minors i 0 * 2 ^ (7 * i)) 0) ++
    leBytes 4 (~~~p.fresh).toNat ++ List.replicate 24 0
def Moor.pageAt (e : Moor) (pa : Nat) : Nat := e.metaBase + 64 * (pa % 2 ^ 30 / 4096)
def Moor.tagsAt (e : Moor) (pa : Nat) : Nat := e.metaBase + 2 ^ 24 + 4 * (pa % 2 ^ 30 / 128)

/-- Bytes of metadata written through the die's bridge. -/
def metaPut (s : State) (a : Nat) (bs : List Byte) : State :=
  match regionOf s.fit a with
  | .package d b _ => placeBytes s d b (lineOf a) (runOf (a % 128) bs)
  | _ => s

/-- Whether the metadata of a berth's line is not what the station wrote there (R342, R350): its page's counters, or the tags of a line that is not
fresh. -/
def metaBad (s : State) (die i pa : Nat) : Bool :=
  let e := FMap.getD (s.die die).mg.moor i {}
  let p := FMap.getD e.pages (pa / 4096) {}
  let tags := match FMap.get? s.mem.dram (lenderAt e (pa % 2 ^ 30) / 128) with | some x => x.tags | none => []
  memReadN s.mem.bytes (e.pageAt pa) 64 != p.bytes || (!p.fresh.getLsbD (pa / 128 % 32) && memReadN s.mem.bytes (e.tagsAt pa) 4 != tags)

/-- Bytes of a line written through a berth's station (R349, R350): the line is encrypted under the berth's keys and the counters of its entry, and
stored in the lender's frame; the page's counters and the line's tags go to the metadata area. -/
def stationPut (s : State) (die i pa : Nat) (es : List (Nat × Byte)) : State :=
  let base := pa / 128 * 128
  let s := { s with mem := { s.mem with berth := es.foldl (fun m e => FMap.put m (die * 2 ^ 52 + base + e.1) e.2) s.mem.berth } }
  let e := FMap.getD (s.die die).mg.moor i {}
  let out := storeLine (e.dataKey, e.tagKey) (FMap.getD e.pages (base / 4096) {}) base (lenderAt e (base % 2 ^ 30)) (homeBytes s die base 128) s.mem.dram
  let s := { s with mem := { s.mem with dram := out.2 } }
  let s := s.updMg die (fun m => { m with moor := FMap.put m.moor i { e with pages := FMap.put e.pages (base / 4096) out.1 } })
  let tags := match FMap.get? out.2 (lenderAt e (base % 2 ^ 30) / 128) with | some x => x.tags | none => []
  metaPut (metaPut s (e.pageAt base) out.1.bytes) (e.tagsAt base) tags

/-- Bytes of one line written at their home by a request that arrives there, without a place made for the line. The copies that a host or a requester of the expander holds are
recalled first (R357, R363), a write of the whole line clears its poison mark (R342), one that a lost window or an absent berth would take is
dropped (R349, R365), and one that the far side performs wakes a WAITGE.sys on the line (R361). -/
def arriveBytes (s : State) (die pa : Nat) (es : List (Nat × Byte)) : State :=
  let s := s.rearm pa
  match regionOf s.fit pa with
  | .package d b _ =>
    let s := recallRange s d (pa / 128 * 128 + (es.headD (0, 0)).1) ((es.getLastD (0, 0)).1 + 1 - (es.headD (0, 0)).1) 0
    let s := if es.length = 128 then s.clearPoison die pa else s
    let s := s.updDm d (fun m => { m with hostSnoop := m.hostSnoop.filter (· != lineOf pa) })
    placeBytes s d b (lineOf pa) es
  | .berth i _ =>
    if placeErr s die pa = none then stationPut (if es.length = 128 then s.clearPoison die pa else s) die i pa es else s
  | .fabric off =>
    match fwinMatch (s.die die) off with
    | some (_, e) =>
      if e.lost then s
      else
        let s := if es.length = 128 then s.clearPoison die pa else s
        let key := farKey e (off / 128 * 128)
        let put := { s with mem := { s.mem with far := memPut s.mem.far key es } }
        let port := bits e.hi.toNat 19 16
        let s := match ownFind (s.die port) (2 ^ 60 + lineOf key) with
          | some _ => updOwn put port (2 ^ 60 + lineOf key) (fun x => x.soil s.mem.far key es)
          | none => put
        retestWaits s (fun g sys a => sys && poisonKey s g.die a == poisonKey s die pa)
    | none => s
  | .hole => s

/-- Bytes of one line sent to their home; a write that the station loses is dropped, and its line marked (R344, R366). -/
def homeMerge (s : State) (die pa : Nat) (es : List (Nat × Byte)) : State :=
  if stationFails s die pa true then (stationFailed s die pa true).setPoison die pa else arriveBytes s die pa es

/-! ## Objects and L2 copies -/

/-- A context as the object tables of the virtual function name it: its lowest die × 64 + its number there (R259, R310). -/
def objCtx (s : State) (die ctx : Nat) : Nat := (s.ctx die ctx).dies.foldl min die * 64 + ctx

/-- The key of an object (R259). -/
def objKey (ctx i : Nat) : Nat := ctx * 4096 + i

/-- The object of a die's context that covers a virtual line (R259). -/
def objOf (s : State) (die ctx vline : Nat) : Option (Nat × ObjEnt) :=
  (s.die die).dm.objs.find? (fun e => e.2.ctx == objCtx s die ctx && decide (e.2.lo ≤ vline) && decide (vline ≤ e.2.hi))

/-- Whether a die's copy has been used under an object (R259). -/
def objHolds (s : State) (die : Nat) (e : ObjEnt) (x : L2Line) : Bool :=
  !x.own && x.users.any (fun u => e.ctx == objCtx s die u.ctx && decide (e.lo ≤ u.vline) && decide (u.vline ≤ e.hi))

/-- The contexts that wrote a copy's dirty bytes are to be told that their write-back was refused (R362, R366, R424). -/
def State.refuseBack (s : State) (die : Nat) (x : L2Line) (world : Bool) : State :=
  { s with pkg := { s.pkg with backErrs := s.pkg.backErrs ++
      (x.users.filter (·.wrote)).map (fun u => ⟨die, u.ctx, world, BitVec.ofNat 64 (u.vline * 128)⟩) } }

/-- The home takes the dirty bytes of a copy (R246, R264): in each byte where the copy is dirty. Bytes that may not arrive are dropped (R343,
R349, R365), and those that are refused besides reported (R362, R366, R424). Gangway bytes are counted (R429). -/
def writeBackLine (s : State) (die : Nat) (x : L2Line) : State :=
  let pa := x.line * 128
  if x.dirty.isEmpty then s
  else match placeErr s die pa with
  | some .world => s.refuseBack die x true
  | some .protect => s.refuseBack die x false
  | some _ => s
  | none =>
    let offs := (List.range 128).filter (fun o => x.dirty.contains o)
    let s := homeMerge s die pa (offs.map (fun o => (o, FMap.getD x.bytes o 0)))
    let s := if x.poison then s.setPoison die pa else s
    s.carry die pa x.dirty.length true

/-- Every dirty copy on a die that meets a test is written to its home and kept clean (R258, R262). -/
def writeBackWhere (s : State) (die : Nat) (f : L2Line → Bool) : State :=
  let ls := (s.die die).dm.l2.filter (fun x => !x.own && !x.dirty.isEmpty && f x)
  if ls.isEmpty then s
  else
    let s := ls.foldl (fun s x => writeBackLine s die x) s
    s.updDm die (fun m => { m with l2 := m.l2.map (fun x => if !x.own && f x then { x with dirty := [], users := x.users.map (fun u => { u with wrote := false }) } else x) })

/-- Copies on a die that meet a test are dropped. -/
def dropCopies (s : State) (die : Nat) (f : L2Line → Bool) : State :=
  s.updDm die (fun m => { m with l2 := m.l2.filter (fun x => x.own || !f x) })

/-- The dirty lines of an object on a die. -/
def objDirty (s : State) (die : Nat) (e : ObjEnt) : List L2Line := (s.die die).dm.l2.filter (fun x => !x.dirty.isEmpty && objHolds s die e x)

/-- Whether some die of the virtual function has a die recorded as an object's owner, or will have by a notice that travels (R259, R260). -/
def objNamed (s : State) (die key d : Nat) : Bool :=
  (vfDies s die).any (fun k => match FMap.get? (s.die k).dm.objs key with | some o => o.owner == some d | none => false) ||
    s.pkg.notices.any (fun n => objKey n.ctx n.obj == key && n.owner == d)

/-- The dies that are to write an object's dirty lines back: whoever is its owner on some die, or after a generation change every holder
(R259, R261). -/
def objHolders (s : State) (die key : Nat) (e : ObjEnt) : List Nat :=
  (vfDies s die).filter (fun d => (e.pull || objNamed s die key d) && !(objDirty s d e).isEmpty)

/-- An object's entry set on every die of the virtual function (R259). -/
def setObj (s : State) (die key : Nat) (f : ObjEnt → ObjEnt) : State :=
  (vfDies s die).foldl (fun s d => s.updDm d (fun m => { m with objs := updIn m.objs key f })) s

/-- The dirty lines of an object recalled from its owners, a new owner apart (R261). -/
def recallObj (s : State) (die key : Nat) (e : ObjEnt) (new : Option Nat) : State :=
  ((objHolders s die key e).filter (fun d => new != some d)).foldl (fun s d => writeBackWhere s d (objHolds s d e)) s

/-- A claim (R261): every owner writes back every dirty line of the object, and the entry becomes CLEAN on every die; notices of it that still
travel are done with, their data being home (log entry 79). -/
def claimObj (s : State) (die key : Nat) (e : ObjEnt) : State :=
  let s := setObj (recallObj s die key e none) die key (fun o => { o with owner := none, pull := false })
  { s with pkg := { s.pkg with notices := s.pkg.notices.filter (fun n => objKey n.ctx n.obj != key) } }

/-- Before a line is served: an object OWNED by another die is claimed first (R261). -/
def claimLine (s : State) (die ctx vline : Nat) : State :=
  match objOf s die ctx vline with
  | none => s
  | some (k, e) => if (e.owner.isSome && e.owner != some die) || e.pull then claimObj s die k e else s

/-- The OWNED objects under which another die of the virtual function holds a physical line dirty. -/
def lineOwners (s : State) (die line : Nat) : List (Nat × ObjEnt) :=
  ((vfDies s die).filter (· != die)).flatMap (fun d => match copyFind s d line with
    | none => []
    | some x => if x.dirty.isEmpty then [] else x.users.filterMap (fun u => (objOf s d u.ctx u.vline).bind (fun e =>
        if e.2.owner == some d || e.2.pull then some e else none)))

/-- Before a physical line is served at its home or to a die (R261): the object that its dirty bytes belong to on another die is claimed, under
whatever virtual line they were written. A berth is one die's own. -/
def claimPhys (s : State) (die pa : Nat) : State :=
  if (homeKey s die pa).isNone then s else (lineOwners s die (lineOf pa)).foldl (fun s e => claimObj s die e.1 e.2) s

/-- Both claims of an access (R261). -/
def claimFor (s : State) (die ctx vline pa : Nat) : State := claimPhys (claimLine s die ctx vline) die pa

/-- The physical line that places a line in its die's slices. -/
def L2Line.place (x : L2Line) : Nat := if x.line < 2 ^ 60 then x.line else x.slot

/-- The set of a physical line in its die's slices: 48 slices of 1,024 sets (R245). -/
def l2Set (line : Nat) : Nat × Nat := (line % 48, line / 48 % 1024)

/-- A line leaves a die's L2 (R245, R246, R264): dirty data go to memory or to the home, and an object that this die owns is resolved
first, all its dirty lines going home. -/
def l2Evict (s : State) (die : Nat) (y : L2Line) : State :=
  if y.own then homeOut s die y
  else if y.dirty.isEmpty then s
  else
    let s := writeBackLine s die y
    (y.users.filterMap (fun u => objOf s die u.ctx u.vline)).foldl (fun s e =>
      if e.2.owner == some die then setObj (writeBackWhere s die (objHolds s die e.2)) die e.1 (fun o => { o with owner := none }) else s) s

/-- A line made the most recently used of its slice's set of sixteen; what falls out leaves (R245). -/
def l2Put (s : State) (die : Nat) (x : L2Line) : State :=
  let ls := (s.die die).dm.l2
  let mine := x :: (ls.filter (fun y => l2Set y.place == l2Set x.place)).filter (fun y => !(y.line == x.line && y.own == x.own))
  let s := s.updDm die (fun m => { m with l2 := mine.take 16 ++ ls.filter (fun y => l2Set y.place != l2Set x.place) })
  (mine.drop 16).foldl (fun s y => l2Evict s die y) s

/-- A line of package memory takes its place in its home slice (R245, R246): the sectors of a read's span are fetched through the bridge
(R335, R337). -/
def homeTouch (s : State) (pa : Nat) (span : Nat × Nat) (wr : Bool) : State :=
  match regionOf s.fit pa with
  | .package d b _ =>
    let x := (ownFind (s.die d) (lineOf pa)).getD { line := lineOf pa, own := true }
    let need := if wr then 0 else sectorMask span.1 span.2 &&& ~~~x.sectors
    if need = 0 then l2Put s d x
    else
      let r := (s.br d).read d b (lineOf pa) need
      l2Put (s.putBr d r) d { x with sectors := x.sectors ||| need, poison := x.poison || r.bad }
  | _ => s

/-- A C line of the far side stands in its port's slice (R357, R358): both halves fetched, shared for a read, owned before a write. -/
def farTouch (s : State) (die pa : Nat) (wr : Bool) : State :=
  match regionOf s.fit pa, homeKey s die pa with
  | .fabric _, some (port, key) =>
    match ownFind (s.die port) key with
    | some x => l2Put s port { x with excl := x.excl || wr }
    | none => l2Put (s.toll port 10 128) port { line := key, slot := lineOf pa, own := true, sectors := 0xF, excl := wr }
  | _, _ => s

/-- A line of a host-coherent page stands in its port's slice before it is served (R357). -/
def holdC (s : State) (die pa : Nat) (cbit wr : Bool) : State := if cbit then farTouch s die pa wr else s

/-- Bytes written at their home, the line standing in the home slice (R246). -/
def homeWrite (s : State) (die pa : Nat) (bs : List Byte) : State :=
  homeMerge (homeTouch s pa (pa % 128, bs.length) true) die pa (runOf (pa % 128) bs)

/-- The Exclusive entries of the expander's snoop filter over a line recalled before it is read (R363). -/
def recallExcl (s : State) (pa : Nat) : State :=
  match regionOf s.fit pa with
  | .package d _ _ =>
    if (s.die d).dm.expSnoop.isEmpty then s
    else foldNames s (((s.die d).dm.expSnoop.filter (fun x => x.excl && x.line / 2 == lineOf pa)).map (·.line)) (fun s l => recallSnoop s d l 0)
  | _ => s

/-- A read of n bytes of a line arrives at its home (R246, R261, R335): owners claimed, the line fetched into the slice, a berth's line checked at its
station (R350). With it, whether the station lost the answer, which then is poisoned (R344, R366). -/
def homeRead (s : State) (die pa n : Nat) : Bool × State :=
  let bad := stationFails s die pa false
  let s := if bad then stationFailed s die pa false else s
  let s := homeTouch (recallExcl (claimPhys s die pa) pa) pa (spanOf (pa % 128) n) false
  if (match regionOf s.fit pa with | .berth i _ => s.mem.damaged.contains (poisonKey s die pa) || (!poisonedLine s die pa && metaBad s die i pa) | _ => false) then
    (bad, (({ s with mem := { s.mem with damaged := s.mem.damaged.filter (· != poisonKey s die pa) } }).setPoison die pa).logged (.badLine pa))
  else (bad, s)

/-- The copy of a line on a die, or an empty one, used by a context under a virtual line. -/
def l2Copy (s : State) (die line : Nat) (u : L2User) : L2Line :=
  let x := (copyFind s die line).getD { line := line }
  if x.users.contains u then x else { x with users := u :: x.users }

/-- A read of a remotely homed line fills the die's copy with the bytes it lacks of the sectors of the read's span (R246, R337). -/
def l2Fill (s : State) (die pa : Nat) (span : Nat × Nat) (vline asid ctx : Nat) : State :=
  let s := claimLine s die ctx vline
  let line := lineOf pa
  let x := l2Copy s die line ⟨ctx, asid, vline, false⟩
  let want := (sectorsOf span.1 span.2).flatMap (fun k => (List.range 32).map (fun i => 32 * k + i))
  let miss := want.filter (fun o => (FMap.get? x.bytes o).isNone)
  if miss.isEmpty then l2Put s die x
  else
    let (bad, s) := homeRead s die (line * 128 + span.1) span.2
    let s := s.carry die pa miss.length false
    let x := l2Copy s die line ⟨ctx, asid, vline, false⟩
    let bytes := miss.foldl (fun m o => if (FMap.get? m o).isSome then m else FMap.put m o (homeByte s die (line * 128 + o))) x.bytes
    l2Put s die { x with bytes := bytes, poison := x.poison || bad || poisonedLine s die pa }

/-- A write to a remotely homed line updates the die's copy and marks the bytes dirty (R246). -/
def l2Write (s : State) (die pa vline asid ctx : Nat) (bs : List Byte) : State :=
  let s := claimFor s die ctx vline pa
  let x := l2Copy s die (lineOf pa) ⟨ctx, asid, vline, true⟩
  let offs := (List.range bs.length).map (fun i => pa % 128 + i)
  let bytes := (offs.zip bs).foldl (fun m e => FMap.put m e.1 e.2) x.bytes
  let dirty := x.dirty ++ offs.filter (fun o => !x.dirty.contains o)
  l2Put s die { x with bytes := bytes, dirty := dirty, poison := x.poison && dirty.length != 128 }

/-- n bytes of a line as a unit reads them through a die's L2, without a copy made (R246; log entry 63), and whether they are poisoned. A copy that
serves is the most recently used (R245). -/
def l2Read (s : State) (die ctx vline pa n : Nat) : List Byte × Bool × State :=
  let s := claimLine s die ctx vline
  let whole := match copyFind s die (lineOf pa) with
    | some x => (List.range n).all (fun i => (FMap.get? x.bytes (pa % 128 + i)).isSome)
    | none => false
  let (lost, s) := if whole then (false, s) else homeRead s die pa n
  let s := if whole then s else s.carry die pa n false
  let bad := lost || match copyFind s die (lineOf pa) with | some x => x.poison | none => false
  (l2Bytes s die pa n, bad || poisonedLine s die pa, match copyFind s die (lineOf pa) with | some x => l2Put s die x | none => s)

/-! ## Reconciliation (R258, R260, R262) -/

/-- Whether a page-aligned walk of an object's hull meets a line homed outside the virtual function's dies (R262). -/
def hullOutside (s : State) (die : Nat) (e : ObjEnt) : Bool :=
  let x := s.ctx (e.ctx / 64) (e.ctx % 64)
  (List.range (e.hi / 32 + 1 - e.lo / 32)).any (fun i =>
    match walk s die ((e.lo / 32 + i) * 4096) 4 x.root with
    | .ok (b, f, _) => !(inVf s die (f + (e.lo / 32 + i) * 4096 % 2 ^ b))
    | .error _ => false)

/-- The eager part of a producer half: dirty copies of the context that no object covers, or whose object's hull holds a line homed
outside the virtual function; at .sys every dirty copy (R262). -/
def eagerBack (s : State) (die ctx : Nat) (sys : Bool) : State :=
  writeBackWhere s die (fun x => x.users.any (fun u => u.ctx == ctx && (sys || match objOf s die ctx u.vline with
    | some (_, e) => hullOutside s die e
    | none => true)))

/-- The objects whose ownership a .ten producer half must announce: with dirty lines here and not OWNED by this die (R260). -/
def noticesDue (s : State) (die ctx : Nat) : List Nat :=
  ((s.die die).dm.objs.filter (fun e => e.2.ctx == objCtx s die ctx && e.2.owner != some die && !(objDirty s die e.2).isEmpty)).map (·.1)

/-- Whether notices of a die for a context still travel (R260). -/
def noticesOut (s : State) (die ctx : Nat) : Bool := s.pkg.notices.any (fun n => n.owner == die && n.ctx == objCtx s die ctx)

/-- The producer half at .ten or .sys on the publisher's die (R258, R260, R262): eager write-back, then a notice for every object due.
Done when no notice is out. -/
def producerHalf (s : State) (die ctx : Nat) (sys : Bool) : State :=
  let s := eagerBack s die ctx sys
  let new : List Notice := (noticesDue s die ctx).flatMap (fun k => (vfDies s die).map (fun d => ⟨objCtx s die ctx, k % 4096, die, d⟩))
  { s with pkg := { s.pkg with notices := s.pkg.notices ++ new } }

/-- An object's owner recorded on every die (R260, R261): another owner's dirty lines go home first. -/
def giveOwner (s : State) (die k : Nat) : State :=
  match FMap.get? (s.die die).dm.objs k with
  | none => s
  | some e =>
    let other := e.pull || (vfDies s die).any (fun d => d != die && objNamed s die k d)
    setObj (if other then claimObj s die k e else s) die k (fun o => { o with owner := some die, pull := false })

/-- The producer half at .ten or .sys of a unit of the device, its notices sent and acknowledged within its own step (R258, R260, R262). -/
def producerNow (s : State) (die ctx : Nat) (sys : Bool) : State :=
  let s := eagerBack s die ctx sys
  (noticesDue s die ctx).foldl (fun s k => giveOwner s die k) s

/-- A line is poisoned and logged (R342). -/
def poisonLine (s : State) (die pa : Nat) : State := (s.setPoison die pa).logged (.badLine (lineOf pa * 128))

end Sys2Proof.Machine
end

