-- ==== Sys2Proof/Machine/Views.lean ====
section
/-! DEFINITION. Translation with its TLBs and walks (R326-R328), the reads and writes that engines and units make of virtual memory (R175, R179, R441),
and atomics at their executors (R168, R247). -/

namespace Sys2Proof.Machine

/-! ## The write sets of frames -/

/-- The object index of a virtual line enters the write set of a child's frame (R266). -/
def noteWs (s : State) (cid vline : Nat) : State :=
  match FMap.get? s.children cid with
  | none => s
  | some c =>
    match objOf s c.die c.ctx vline with
    | none => s
    | some (k, _) => s.updFrame c.frame (fun f =>
        if f.ws.contains (k % 4096) || f.wsovf then f
        else if f.ws.length < 22 then { f with ws := f.ws ++ [k % 4096] } else { f with wsovf := true })

/-- A write added to a child's held set (R272). Nothing of it is written to the shadow area (R273; log entry 83). -/
def addHeld (s : State) (cid : Nat) (o : HeldOp) : State :=
  noteWs (s.updChild cid (fun c => { c with held := c.held ++ [o] })) cid o.vl

/-- A write of a party that acts for children enters the write sets of their frames (R266). -/
def noteKids (s : State) (kids : List Nat) (vline : Nat) : State := kids.foldl (fun s c => noteWs s c vline) s

/-! ## Translation -/

/-- On whose behalf an address is translated (R326): a group, whose own writes on their way a read of a page table sees (R157, R254), and a child
of a deterministic frame, whose view it takes (R272). -/
structure By where
  gid : Option Nat := none
  child : Option Nat := none
deriving DecidableEq, Repr

/-- The writes that a party sees before they are performed for everyone. -/
def By.ops (s : State) (b : By) : List HeldOp :=
  heldOf s b.child ++ (match b.gid with
    | none => []
    | some g => (s.flight.filter (fun a => a.gid == g && a.op.isNone && (match b.child with | some c => a.child.contains c | none => a.child.isEmpty))).flatMap
        Access.heldOps)

/-- Why a page-table entry cannot be read where it lies (R326, R349, R360, R362, R366, R424); one in a lost range reads zero, which is no valid
entry (R327, R365). -/
def entryErr (s : State) (die pa : Nat) : Option XErr :=
  match accessErr s die pa 8 false with
  | none => none
  | some .world => some .world
  | some .protect => some .protect
  | some .berth => some .berth
  | some _ => some .page

/-- The walk from a table at a level (R326): each entry an 8-byte read through the die's L2 with the translated access as the reader. -/
def walkBy (s : State) (die ctx : Nat) (b : By) (va : Nat) : Nat → Nat → Except XErr (Nat × Nat × BitVec 6) × State
  | level, table =>
    let pa := walkAddr va level table
    match entryErr s die pa with
    | some e => (.error e, s)
    | none =>
      let (bs, _, s) := l2Read s die ctx (2 ^ 60) pa 8
      match walkEntry s die level (heldView s die (b.ops s) pa bs) with
      | .inl r => (r, s)
      | .inr next => match level with
        | 0 => (.error .page, s)
        | l + 1 => walkBy s die ctx b va l next

/-- The TLB entry for an address (R328): from the core's TLB, from the die's, or by a walk (R326). A unit of the die has no first-level TLB; it
names no core of the 192. -/
def findEntry (s : State) (die core ctx : Nat) (b : By) (va : Nat) : Except XErr TlbEntry × State :=
  let x := s.ctx die ctx
  let asid := x.asid
  let g := s.gen asid
  match (if core < 192 then (s.core die core).tlb.find? (fun e => e.hits asid va g) else none) with
  | some e => (.ok e, s)
  | none =>
    match (s.die die).dm.tlb.find? (fun e => e.hits asid va g) with
    | some e => (.ok e, s)
    | none =>
      match walkBy s die ctx b va 4 x.root with
      | (.error e, s) => (.error e, s)
      | (.ok (w, f, p), s) => (.ok ⟨asid, va / 2 ^ w, w, f, p, g⟩, s)

/-- An entry taken into the TLBs that it passes (R328), its context noted at the fabric window it leads to (R365). -/
def fillTlbs (s : State) (die core ctx : Nat) (e : TlbEntry) : State :=
  let s := if core < 192 then s.updCore die core (fun c => { c with tlb := tlbPut 128 c.tlb e }) else s
  (s.updDm die (fun m => { m with tlb := tlbPutSet m.tlb e })).noteFabric die ctx e.frame

/-- A translation (R326-R328): with EN clear every one is a PROTECT (R311); an address that is not canonical, which only units and engines can
form, has no page (log entry 19). The TLBs take the entry. -/
def translate (s : State) (die core ctx : Nat) (ring : BitVec 2) (need : Need) (va : DWord) (b : By := {}) : Except XErr Xl × State :=
  if !(s.ctx die ctx).xlOn then (.error .protect, s)
  else if !canonical va then (.error .page, s)
  else
    match findEntry s die core ctx b va.toNat with
    | (.error e, s) => (.error e, s)
    | (.ok e, s) =>
      let s := fillTlbs s die core ctx e
      if permOk e.perms need ring then (.ok ⟨e.frame + va.toNat % 2 ^ e.bits, e.perms.getLsbD 4⟩, s) else (.error .protect, s)

/-! ## Accesses of engines and units -/

/-- A range cut where it crosses a multiple of 128 bytes. -/
def chunks (va : Nat) (n : Nat) : List (Nat × Nat) :=
  if n = 0 then []
  else (List.range ((va + n - 1) / 128 + 1 - va / 128)).map (fun i =>
    let lo := max va ((va / 128 + i) * 128)
    (lo, min (va + n) ((va / 128 + i + 1) * 128) - lo))

/-- A write at the home from a die, laid also over that die's own copy (R246, R257). -/
def putHome (s : State) (die pa : Nat) (bs : List Byte) : State :=
  let s := homeWrite s die pa bs
  s.updDm die (fun m => { m with l2 := m.l2.map (fun x =>
    if !x.own && x.line == lineOf pa then
      { x with bytes := ((List.range bs.length).zip bs).foldl (fun b e =>
          match FMap.get? b (pa % 128 + e.1) with | some _ => FMap.put b (pa % 128 + e.1) e.2 | none => b) x.bytes }
    else x) })

/-- Bytes read by an engine or unit: translated, taken through the die's L2, seen through a deterministic child's view, with whether a
line is poisoned. The address that fails comes with the error. -/
def vReadChunks (s : State) (die core ctx : Nat) (ring : BitVec 2) (child : Option Nat) :
    List (Nat × Nat) → List Byte → Bool → Except (AErr × DWord) (List Byte × Bool) × State
  | [], acc, bad => (.ok (acc, bad), s)
  | (va, n) :: cs, acc, bad =>
    match translate s die core ctx ring .read (BitVec.ofNat 64 va) { child := child } with
    | (.error e, s) => (.error (e.toA, BitVec.ofNat 64 va), s)
    | (.ok x, s) =>
      match accessErr s die x.pa n false with
      | some e => (.error (e, BitVec.ofNat 64 va), s)
      | none =>
        let (under, mark, s) := l2Read (holdC s die x.pa x.cbit false) die ctx (va / 128) x.pa n
        let held := heldOf s child
        vReadChunks s die core ctx ring child cs (acc ++ heldView s die held x.pa under) (bad || heldMark held x.pa mark)

/-- Whether it is the translation of an address that fails (R396's FLAGS bit 3). -/
def failsXl (s : State) (die core ctx : Nat) (ring : BitVec 2) (need : Need) (va : DWord) (child : Option Nat) : Bool :=
  match (translate s die core ctx ring need va { child := child }).1 with
  | .error _ => true
  | .ok _ => false

/-- n bytes of virtual memory read by an engine or unit. -/
def vRead (s : State) (die core ctx : Nat) (ring : BitVec 2) (child : Option Nat) (va : DWord) (n : Nat) :
    Except (AErr × DWord) (List Byte × Bool) × State :=
  vReadChunks s die core ctx ring child (chunks va.toNat n) [] false

/-- Bytes written by an engine or unit, chunk by chunk; a poisoned write marks its lines, a deterministic child holds its bytes
(R180, R272, R342), and a write made for another child enters its frame's write set (R266). Any other is made at the line's home at once, with no dirty copy here (R246; log
entry 63). Chunks before the one that fails stay written. -/
def vWriteChunks (s : State) (die core ctx : Nat) (ring : BitVec 2) (child : Option Nat) (bad : Bool) (kid : Option Nat) :
    List (Nat × Nat) → List Byte → Except (AErr × DWord) Unit × State
  | [], _ => (.ok (), s)
  | (va, n) :: cs, bs =>
    match translate s die core ctx ring .write (BitVec.ofNat 64 va) { child := child } with
    | (.error e, s) => (.error (e.toA, BitVec.ofNat 64 va), s)
    | (.ok x, s) =>
      match placeErr s die x.pa with
      | some e => (.error (e, BitVec.ofNat 64 va), s)
      | none =>
        match child.bind (fun c => (FMap.get? s.children c).map (fun y => (c, y))) with
        | some (cid, y) =>
          let o : HeldOp := ⟨va / 128, x.pa, s.gen (s.ctx die ctx).asid, .store (bs.take n) (if bad then some true else if n = 128 then some false else none), x.cbit⟩
          if heldFits s cid y [o] then
            vWriteChunks (addHeld (noteKids s kid.toList (va / 128)) cid o) die core ctx ring child bad kid cs (bs.drop n)
          else (.error (.full, BitVec.ofNat 64 va), s)
        | none =>
          let s := claimFor (noteKids s kid.toList (va / 128)) die ctx (va / 128) x.pa
          let s := (putHome (holdC s die x.pa x.cbit true) die x.pa (bs.take n)).carry die x.pa n true
          let s := if bad then s.setPoison die x.pa else s
          vWriteChunks s die core ctx ring child bad kid cs (bs.drop n)

/-- Bytes of virtual memory written by an engine or unit, for a child where there is one (R266). -/
def vWrite (s : State) (die core ctx : Nat) (ring : BitVec 2) (child : Option Nat) (bad : Bool) (va : DWord) (bs : List Byte) (kid : Option Nat := none) :
    Except (AErr × DWord) Unit × State :=
  vWriteChunks s die core ctx ring child bad kid (chunks va.toNat bs.length) bs

/-- The executor of an atomic is made ready (R157, R168, R246, R361, R363): the die's own dirty bytes of the line go home, what another party holds of
it is recalled, and a C line of the far side is given back to it. -/
def atExecutor (s : State) (die pa n : Nat) : State :=
  let s := writeBackWhere s die (fun l => l.line == lineOf pa)
  match regionOf s.fit pa with
  | .package d _ _ => homeTouch (recallRange s d pa n 0) pa (pa % 128, n) false
  | .fabric _ => match homeKey s die pa with
    | some (port, key) => s.updDm port (fun m => { m with l2 := m.l2.filter (fun x => !(x.own && x.line == key)) })
    | none => s
  | _ => s

/-- An atomic performed at an address's home from a die, whose copy takes the result (R168, R246). The old value comes back. -/
def homeAtomic (s : State) (die pa : Nat) (op : AtomOp) (wide : Bool) (x y : DWord) : DWord × State :=
  let n := atomSize wide
  let s := (atExecutor s die pa n).carry die pa n (op != .read)
  let old := BitVec.ofNat 64 (ofBytes (homeBytes s die pa n))
  if op = .read then (old, s)
  else (old, putHome s die pa (leBytes n (atomNew op wide old x y).toNat))

end Sys2Proof.Machine
end

