-- ==== Sys2Proof/Machine/Kernels.lean ====
section
/-! DEFINITION. Kernel tables and entries (R312), what a block needs of a core (R31, R34, R241), and the special values (R26-R29). -/

namespace Sys2Proof.Machine

/-- The 64 bytes of a descriptor, with its entry list, break no limit of R312 (and R58). -/
def descOk (b : List Byte) : Bool :=
  let regs := field b 12 1
  let deep := field b 13 1
  let shape := field b 15 1
  field b 0 8 % 256 == 0 && canonical (BitVec.ofNat 64 (field b 0 8)) &&
  regs % 8 == 0 && decide (8 ≤ regs) && decide (regs ≤ 128) && deep % 8 == 0 && decide (deep ≤ 128) &&
  decide (1 ≤ field b 14 1) && decide (field b 14 1 ≤ 32) && decide (shape % 8 ≤ 4) && decide (shape < 128) &&
  field b 16 4 % 64 == 0 && decide (field b 16 4 ≤ 458752) && decide (field b 20 4 ≤ 16777216) &&
  field b 24 8 % 8 == 0 && canonical (BitVec.ofNat 64 (field b 24 8)) &&
  decide (1 ≤ field b 32 2) && decide (field b 32 2 ≤ 64) && zeroAt b 34 30

/-- A kernel from its descriptor's bytes and its entry list's (R312). -/
def kernelOf (idx : Nat) (b ents : List Byte) : Kernel :=
  let shape := field b 15 1
  { idx := idx, code := BitVec.ofNat 64 (field b 0 8), codelen := field b 8 4, regs := field b 12 1, deep := field b 13 1,
    groups := field b 14 1, tiles := shape % 8, gang := bit shape 3, clu := bits shape 6 4 + 1, spad := field b 16 4,
    frames := field b 20 4, entries := (List.range (field b 32 2)).map (fun i => BitVec.ofNat 64 (field ents (8 * i) 8)) }

/-- The core of a unit of the die: none, so that its translations use the die's TLB alone (R328). -/
def noCore : Nat := 0xFFFF

/-- A read of virtual memory by a unit of the device on a context's behalf (R441): with the driver ring's right to privileged pages. `kid` is the
deterministic child, if any, whose access it is (R272). -/
def unitRead (s : State) (die ctx : Nat) (va : DWord) (n : Nat) (kid : Option Nat := none) : Except (AErr × DWord) (List Byte × Bool) × State :=
  vRead s die noCore ctx 1 kid va n

/-- A write of virtual memory by a unit of the device (R441). -/
def unitWrite (s : State) (die ctx : Nat) (va : DWord) (bs : List Byte) (kid : Option Nat := none) : Except (AErr × DWord) Unit × State :=
  vWrite s die noCore ctx 1 kid false va bs

/-- Descriptor idx of a context's kernel table with its entry list, and whether it breaks no limit (R312); nothing past the table's end. An entry list
that its own fields misplace is empty. -/
def readDesc (s : State) (die ctx idx : Nat) (kid : Option Nat := none) : Except (AErr × DWord) (Option (Kernel × Bool)) × State :=
  let x := s.ctx die ctx
  if idx ≥ x.nkern then (.ok none, s)
  else
    match unitRead s die ctx (x.ktab + BitVec.ofNat 64 (64 * idx)) 64 kid with
    | (.error e, s) => (.error e, s)
    | (.ok (b, _), s) =>
      let listed := field b 24 8 % 8 == 0 && canonical (BitVec.ofNat 64 (field b 24 8)) && decide (1 ≤ field b 32 2) && decide (field b 32 2 ≤ 64)
      match unitRead s die ctx (BitVec.ofNat 64 (field b 24 8)) (if listed then 8 * field b 32 2 else 0) kid with
      | (.error e, s) => (.error e, s)
      | (.ok (ents, _), s) => (.ok (some (if listed then kernelOf idx b ents else { kernelOf idx b ents with entries := [] }, descOk b)), s)

/-- The kernel of a descriptor: none when it is out of range or malformed (R312, R316 code 2). -/
def readKernel (s : State) (die ctx idx : Nat) (kid : Option Nat := none) : Except (AErr × DWord) (Option Kernel) × State :=
  match readDesc s die ctx idx kid with
  | (.error e, s) => (.error e, s)
  | (.ok r, s) => (.ok (match r with | some (k, true) => some k | _ => none), s)

/-- The kernel that governs an address: the lowest-numbered whose entry list holds it, none where that one is malformed (R312). -/
def lookupEntry (die ctx : Nat) (kid : Option Nat) (va : DWord) : Nat → Nat → State → Except (AErr × DWord) (Option Kernel) × State
  | 0, _, s => (.ok none, s)
  | n + 1, idx, s =>
    match readDesc s die ctx idx kid with
    | (.error e, s) => (.error e, s)
    | (.ok (some (k, ok)), s) =>
      if k.entries.contains va then (.ok (if ok then some k else none), s) else lookupEntry die ctx kid va n (idx + 1) s
    | (.ok none, s) => lookupEntry die ctx kid va n (idx + 1) s

/-- The registered kernel of an entry address in a context (R312), as a deterministic child's SPAWN sees the table where `kid` names one. -/
def entryKernel (s : State) (die ctx : Nat) (va : DWord) (kid : Option Nat := none) : Except (AErr × DWord) (Option Kernel) × State :=
  lookupEntry die ctx kid va (s.ctx die ctx).nkern 0 s

/-! ## Room on a core -/

/-- The register slots a group of a kernel takes (R34). -/
def slotsOf (k : Kernel) : Nat := k.regs + k.deep

/-- The effective carve of a context on a die (R239). -/
def effCarve (s : State) (die ctx : Nat) : Nat :=
  min (bits (s.ctx die ctx).carve.toNat 2 0) (bits (s.die die).limit.toNat 2 0)

/-- A block's scratchpad grant (R241). -/
def grantOf (k : Kernel) : Nat := roundUp k.spad 4096

/-- The group places a block needs on each quarter (R34). -/
def placesOf (k : Kernel) : Nat := ceilDiv k.groups 4

/-- Whether a block fits on an empty core under a carve (R31, R34, R241). -/
def fitsEmpty (k : Kernel) (carve : Nat) : Bool :=
  decide (placesOf k ≤ min 16 (2048 / slotsOf k)) && decide (k.tiles ≤ 4) && decide (grantOf k ≤ carve * 65536)

/-- The resident groups of a quarter, handlers apart (R34, R401). -/
def quarterGroups (s : State) (die core q : Nat) : List (Nat × Group) :=
  s.groups.filter (fun e => e.2.die == die && e.2.core == core && e.2.quarter == q && e.2.loc == .resident &&
    (match e.2.kind with | .handler _ _ _ => false | _ => true))

/-- The blocks of a core, a free-standing group being a block of its own (R142, R212). -/
def coreBlocks (s : State) (die core : Nat) : List (Nat × Block) :=
  s.blocks.filter (fun e => e.2.die == die && e.2.core == core && !e.2.handler)

/-- The register slots taken on a quarter. -/
def slotsUsed (s : State) (die core q : Nat) : Nat :=
  ((quarterGroups s die core q).map (fun e => e.2.nregs + e.2.ndeep)).foldl (· + ·) 0

/-- Whether n more groups of a size find places and slots on a quarter (R34). -/
def quarterRoom (s : State) (die core q n slots : Nat) : Bool :=
  decide ((quarterGroups s die core q).length + n ≤ 16) && decide (slotsUsed s die core q + n * slots ≤ 2048)

/-- Whether n blocks of a kernel fit on a core now (R31, R34, R240, R241). -/
def coreFits (s : State) (die core ctx : Nat) (k : Kernel) (n : Nat) : Bool :=
  let c := s.core die core
  let bs := coreBlocks s die core
  let carve := effCarve s die ctx
  let granted := (bs.map (fun e => grantOf e.2.kernel)).foldl (· + ·) 0
  !c.fenced && !(s.die die).mg.failedCores.contains core && c.reserved.isNone && decide (core < 192) &&
  (List.range 4).all (fun q => quarterRoom s die core q (n * placesOf k) (slotsOf k)) &&
  decide (n * k.tiles ≤ (c.tiles.filter (fun t => t.owner.isNone)).length) &&
  (bs.isEmpty || c.split == carve) && decide (granted + n * grantOf k ≤ carve * 65536)

/-- Whether one does. -/
def coreRoom (s : State) (die core ctx : Nat) (k : Kernel) : Bool := coreFits s die core ctx k 1

/-- How many of them a core has room for now. -/
def coreHolds (s : State) (die core ctx : Nat) (k : Kernel) : Nat := ((List.range 64).filter (fun n => coreFits s die core ctx k (n + 1))).length

/-- The lowest number that no block of a core has; blocks keep it as their place in the order of R231. -/
def freeSeq (s : State) (die core : Nat) : Nat :=
  ((List.range 64).find? (fun n => (coreBlocks s die core).all (fun e => e.2.seq != n))).getD 0

/-- The free places of a core, over its quarters (R268). -/
def freePlaces (s : State) (die core : Nat) : Nat :=
  64 - ((List.range 4).map (fun q => (quarterGroups s die core q).length)).foldl (· + ·) 0

/-- The lowest free place of a quarter. -/
def freePlace (s : State) (die core q : Nat) : Nat :=
  ((List.range 16).find? (fun p => (quarterGroups s die core q).all (fun e => e.2.place != p))).getD 0

/-! ## The order of launches (R318, R319) -/

/-- The clusters of a grid that a die of several takes, and the blocks of its last one (R213, R318). -/
def shareOf (k : Kernel) (blocks n j : Nat) : Nat := (ceilDiv blocks k.clu + n - 1 - j) / n

/-- The clusters of a launch's share on a die. -/
def Launch.share (l : Launch) (die : Nat) : Nat :=
  shareOf l.kernel (l.gx * l.gy * l.gz) l.dies.length ((l.dies.takeWhile (· != die)).length)

/-- Whether a launch has blocks of its grid to place on a die. -/
def Launch.owes (l : Launch) (die : Nat) : Bool :=
  l.st == .placing && l.dies.contains die && decide (FMap.getD l.placed die 0 < l.share die)

/-- Whether a context's work may be placed on a die (R378, R407). -/
def mayPlace (s : State) (die ctx : Nat) : Bool :=
  let x := s.ctx die ctx
  x.sw == .run && (match x.line with | some l => l.since.isNone | none => true)

/-- The block children of a launch that wait on a die, the earliest first (R137, R319). -/
def heldBlocks (s : State) (die lid : Nat) : List Nat :=
  namesWhere s.children (fun _ c => c.kind == .block && c.st == .held && c.die == die && c.launch == lid)

/-- The launch at the head of a die's order (R319): highest priority, then earliest take, among those with blocks or block children to place. -/
def headLaunch (s : State) (die : Nat) : Option (Nat × Launch) :=
  let es := s.launches.filter (fun e => mayPlace s die e.2.ctx && (e.2.owes die || !(heldBlocks s die e.1).isEmpty))
  es.foldl (fun (acc : Option (Nat × Launch)) e => match acc with
    | none => some e
    | some a => if e.2.prio > a.2.prio then some e else some a) none

/-! ## Cores for a restore (R392) -/

/-- A core that may be reserved for a restore: it holds no block, no engine work and no reservation (R391, R392). -/
def emptyCore (s : State) (die core : Nat) : Bool :=
  let c := s.core die core
  decide (core < 192) && !c.fenced && !(s.die die).mg.failedCores.contains core && c.reserved.isNone && c.mq.isEmpty &&
  c.chan0.chains.isEmpty && c.chan1.chains.isEmpty &&
  !anyIn s.blocks (fun _ b => b.die == die && b.core == core && !b.handler)

/-- Cores for records by their original cores, grouped by hardware cluster: the same rank in one hardware cluster for each group, the
original one first, no core twice. -/
def pickCores (s : State) (die : Nat) : List (List Nat) → List Nat → Option (List Nat)
  | [], _ => some []
  | cs :: rest, taken =>
    let h₀ := cs.headD 0 / 8
    (h₀ :: (List.range 24).filter (· != h₀)).findSome? (fun h =>
      let new := cs.map (fun c => 8 * h + c % 8)
      if new.all (fun c => emptyCore s die c && !taken.contains c) then
        (pickCores s die rest (taken ++ new)).map (fun r => new ++ r)
      else none)

/-- Records ascend by core, so those of one hardware cluster stand together. -/
def byCluster : List Nat → List (List Nat)
  | [] => []
  | c :: cs =>
    match byCluster cs with
    | (d :: ds) :: rest => if c / 8 = d / 8 then (c :: d :: ds) :: rest else [c] :: (d :: ds) :: rest
    | rest => [c] :: rest

/-- A core for each record, in order, if the die has room for every one (R392). -/
def findCores (s : State) (die : Nat) (cores : List Nat) : Option (List Nat) := pickCores s die (byCluster cores) []

/-- The priority of a context's work on a die: that of its highest launch with blocks there (R321, R392). -/
def ctxPrio (s : State) (die ctx : Nat) : Nat :=
  ((s.blocks.filter (fun e => e.2.die == die && e.2.ctx == ctx && !e.2.handler)).map (fun e =>
    (FMap.getD s.launches e.2.launch {}).prio)).foldl max 0

/-- Whether the save engine is to restore a context of higher priority than a block's before it is placed (R392). -/
def restoreFirst (s : State) (die prio : Nat) : Bool :=
  (List.range 64).any (fun c => match s.ctx? die c with
    | some x => x.sw == .saved && decide (x.retryAt ≤ (s.die die).cycle) && (match x.switch with
      | some w => w.engine && decide (prio < ctxPrio s die c) && (findCores s die (w.recs.map (·.core))).isSome
      | none => false)
    | none => false)

/-! ## Special values -/

/-- The depth of a group's innermost open frame (R26). -/
def frameDepth (s : State) (g : Group) : Nat :=
  match g.frames with
  | [] => 0
  | f :: _ => (FMap.getD s.frames f {}).depth

/-- A special value in a lane (R26-R28). -/
def special (s : State) (g : Group) (i l : Nat) : Word :=
  let b := FMap.getD s.blocks g.block {}
  BitVec.ofNat 32 (match i with
    | 0 => l
    | 1 => l / 4
    | 2 => g.grp
    | 3 => b.bx
    | 4 => b.by_
    | 5 => b.bz
    | 6 => g.core / 8
    | 7 => b.gx
    | 8 => b.gy
    | 9 => b.gz
    | 10 => g.core
    | 11 => g.die
    | 12 => (g.lane l).strand.toNat
    | 13 => frameDepth s g
    | 14 => (s.die g.die).mg.world
    | _ => (s.gen (s.ctx g.die g.ctx).asid).toNat)

end Sys2Proof.Machine
end

