-- ==== Sys2Proof/Machine/Ops.lean ====
section
/-! DEFINITION. The named operations of an issue (R115, R216, R225), taking an exception and returning from one (R221-R223, R395-R405),
and the all-stop line (R407, R409). -/

namespace Sys2Proof.Machine

/-- What a step of the machine answers. -/
abbrev Out := Host.Outcome State Fault Refusal

/-- A turn named a move that cannot happen: nothing but the order of moves changes (log entry 2). -/
def State.pass (s : State) : State := { s with model := { s.model with passed := true } }

/-! ## Causes (R395) -/

def cUndef : Byte := 0x01
def cAddr : Byte := 0x02
def cPage : Byte := 0x03
def cGen : Byte := 0x04
def cBerth : Byte := 0x05
def cKv : Byte := 0x06
def cPoison : Byte := 0x07
def cProtect : Byte := 0x08
def cWorld : Byte := 0x09
def cViral : Byte := 0x0A
def cLost : Byte := 0x0B
def cHandler : Byte := 0x0C
def cTimeout : Byte := 0x0D
def cSoft : Byte := 0x0F

/-- The context-fatal causes (R395). -/
def fatalCause (c : Byte) : Bool := c == cPoison || c == cProtect || c == cWorld

/-- The cause of a failed access. -/
def AErr.cause : AErr → Byte
  | .page => cPage
  | .protect => cProtect
  | .world => cWorld
  | .stale => cGen
  | .berth => cBerth
  | .lost => cLost
  | .full => cAddr

/-- The rung a cause of a group or lane is first delivered to (R395). -/
def homeRung (c : Byte) : Nat := if fatalCause c || c == cViral || c == cLost then 2 else 0

/-- The ring of a rung's handler group (R401). -/
def rungRing (r : Nat) : Nat := if r ≤ 1 then 0 else r - 1

/-! ## Raising a trap -/

/-- Whether a context's trap slots may be written (R397). -/
def stopValid (x : Ctx) : Bool := x.stopbase.getLsbD 0

/-- The context that hosts rung P on a die (R400). -/
def hctxOf (s : State) (die : Nat) : Nat := bits (s.die die).trapcfg.toNat 13 8

/-- The context whose area holds a slot at a rung: the faulting one below P, HCTX at P and above (R397, R400). -/
def areaOf (s : State) (die ctx rung : Nat) : Nat := if rung ≤ 2 then ctx else hctxOf s die

/-- The address of a trap slot of a die in a context's area (R397). -/
def slotAddr (s : State) (die area i : Nat) : DWord :=
  let base := (s.ctx die area).stopbase &&& ~~~0x7FFFFF#64
  base + BitVec.ofNat 64 (0x100000 + 0x80000 * die + 128 * i)

/-- A rung of the context's own that cannot be used for want of an area passes to P (R397). -/
def usableRung (s : State) (die ctx rung : Nat) : Nat :=
  if rung ≤ 2 && !stopValid (s.ctx die ctx) then 3 else rung

/-- The all-stop line of a context goes up on every die of its DIES (R407). Where it is already up it stays as it is. -/
def raiseLine (s : State) (die ctx : Nat) (cause : Byte) : State :=
  (s.ctx die ctx).dies.foldl (fun s d => s.updCtx d ctx (fun x =>
    match x.line with | some _ => x | none => { x with line := some { cause := cause } })) s

/-- The trap that a handler group serves, with its rung (R401). -/
def Group.handling (g : Group) : Option (Nat × Nat) :=
  match g.kind with
  | .handler t r _ => some (t, r)
  | _ => none

/-- The rung of a nested trap: in LADDER mode the one above the handler's; in RING mode the cause's home rung when its ring is higher
than the handler's (R403). -/
def nestedRung (s : State) (die rung home : Nat) : Nat :=
  if (s.die die).trapcfg.getLsbD 0 && decide (rungRing home > rungRing rung) then home else min (rung + 1) 4

/-- Whether the all-stop line of a context is up, as a trap that arises on a die meets it (R407). -/
def lineUp (s : State) (die ctx : Nat) : Bool := (s.ctx die ctx).line.isSome

/-- Whether an ALLSTOP trap that arises once the slots have gone out carries NOREC: the line's records were not written (R397). -/
def lateNorec (s : State) (die ctx : Nat) : Bool := match (s.ctx die ctx).line with | some l => l.delivered && l.norec | none => false

/-- A trap about another: held while the line is up, unless the service of an ALLSTOP slot waits for it (R407; log entry 82). -/
def Trap.about (t : Trap) (s : State) (h : Trap) : Trap :=
  let x := h.allstop || h.exempt
  { t with exempt := x, held := lineUp s t.die t.ctx && !x }

/-- A trap raised for a party at its home rung (R395, R397, R398, R403, R407): a context-fatal one also raises the line and carries ALLSTOP,
unless a handler group raised it; the others are held while the line is up. What a handler's TRAP raises is no fault and no nested trap
(log entry 15). Its name comes back. -/
def raiseTrap (s : State) (t : Trap) (by_ : Option Group) : Nat × State :=
  let (id, s) := s.fresh
  let put := fun (s : State) (t : Trap) (rung : Nat) =>
    let rung := usableRung s t.die t.ctx rung
    s.putTrap id { t with rung := rung, home := t.rung, area := areaOf s t.die t.ctx rung }
  match by_.bind Group.handling with
  | some (ht, hr) =>
    let h := FMap.getD s.traps ht {}
    if t.fault.cause = cSoft then (id, put s (t.about s h) t.rung)
    else
      let link := match h.slot with | some i => slotAddr s h.die h.area i | none => 0
      (id, put s { t.about s h with nested := true, link := link } (nestedRung s t.die hr t.rung))
  | none =>
    let up := fatalCause t.fault.cause
    let s := put s { t with allstop := up, norec := up && lateNorec s t.die t.ctx, held := !up && lineUp s t.die t.ctx } t.rung
    (id, if up then raiseLine s t.die t.ctx t.fault.cause else s)

/-- A unit fault (R441): a unit's own access to what software names by address failed; one slot at rung P, or D for the trap unit in
HCTX's own area. It raises no line, and is held while one is up, but where the service of an ALLSTOP slot waits for it (R407; log entry 82). -/
def raiseUnit (s : State) (die ctx u : Nat) (w : UnitWork) (cause : Byte) (addr : DWord) : State :=
  let (id, s) := s.fresh
  let rung := if u = 8 ∧ ctx = hctxOf s die then 4 else 3
  let x := s.ctx die ctx
  let exempt := match w with
    | .stopRec _ => true
    | .trapSlot k => let t := FMap.getD s.traps k {}; t.allstop || t.exempt
    | _ => false
  s.putTrap id { die := die, ctx := ctx, rung := rung, home := rung, party := .unit u w, area := areaOf s die ctx rung,
                 exempt := exempt, held := lineUp s die ctx && !exempt,
                 fault := { cause := cause, kind := 2, addr := addr, word := BitVec.ofNat 32 u,
                            asid := BitVec.ofNat 16 x.asid, gen := s.gen x.asid } }

/-- Whether a unit holds a piece of work at a fault of its own (R441). -/
def unitHeld (s : State) (die ctx : Nat) (w : UnitWork) : Bool :=
  anyIn s.traps (fun _ t => t.die == die && t.ctx == ctx && (match t.party with | .unit _ v => v == w | _ => false))

/-- The group's place as a trap slot names it (R398). -/
def Group.gslot (g : Group) : Nat := g.quarter * 16 + g.place

/-- A record with the context's address space and generation (R396). -/
def stamp (s : State) (g : Group) (r : FaultRec) : FaultRec :=
  { r with asid := BitVec.ofNat 16 (s.ctx g.die g.ctx).asid, gen := s.gen (s.ctx g.die g.ctx).asid }

/-- Lanes at one program counter park with one record, which keeps the generation that its access carried (R396), and the trap that carries it is
raised (R154, R221). A lane that is parked already keeps its
first record, and waits for every trap. -/
def parkAt (s : State) (gid : Nat) (m : Word) (at_ : DWord) (r : FaultRec) (redo : Option Access) : State :=
  match FMap.get? s.groups gid with
  | none => s
  | some g =>
    let r := { r with resume := at_ }
    let (id, s) := raiseTrap s { die := g.die, ctx := g.ctx, rung := homeRung r.cause, fault := r, party := .lanes gid m,
                                 core := g.core, gslot := g.gslot, lanes := m } (some g)
    let g := g.updLanes m (fun _ x => { x with
      st := .parked, fault := if x.st = .parked then x.fault else r, redo := x.redo ++ (redo.map (fun a => (id, a))).toList })
    s.putGroup gid (match g.handling with
      | some _ => { g with holds := { g.holds with trap := some id } }
      | none => g)

/-- Lanes park with one record (R154, R221), in one trap for each program counter among them, the lowest lane's first; that one has the access executed
again when it returns. -/
def parkLanes (s : State) (gid : Nat) (mask : Word) (r : FaultRec) (redo : Option Access) : State :=
  match FMap.get? s.groups gid with
  | none => s
  | some g =>
    let m := mask &&& maskWhere (fun l => (g.lane l).live)
    let pc := fun (l : Nat) => (g.lane l).pc
    match lanesOf m with
    | [] => s
    | l :: ls =>
      let s := parkAt s gid (m &&& maskWhere (fun k => pc k == pc l)) (pc l) r redo
      (((ls.map pc).filter (· != pc l)).dedup).foldl (fun s a => parkAt s gid (m &&& maskWhere (fun k => pc k == a)) a r none) s

/-- The whole group stops with its program counters kept, and the trap is raised at the record's home rung (R223). -/
def stopGroup (s : State) (gid : Nat) (mask : Word) (rung : Nat) (r : FaultRec) : State :=
  match FMap.get? s.groups gid with
  | none => s
  | some g =>
    let r := stamp s g r
    let (id, s) := raiseTrap s { die := g.die, ctx := g.ctx, rung := rung, fault := r, party := .group gid mask,
                                 core := g.core, gslot := g.gslot, lanes := mask } (some g)
    s.updGroup gid (fun g => { g with holds := { g.holds with trap := some id } })

/-! ## Active and pending sets -/

/-- Whether a group could issue were it in its quarter's active set (R215, R231). -/
def Group.couldIssue (g : Group) : Bool :=
  g.loc == .resident && g.wait == .run && g.holds == {} && g.dbg != .stopped && (List.range 32).any (fun l => (g.lane l).st == .ready)

/-- Age as R231 orders it: who issued longest ago, then the lower %grp, then the lower block of the core. -/
def ageKey (s : State) (g : Group) : Nat := (g.lastIssue * 32 + g.grp) * 65536 + (FMap.getD s.blocks g.block {}).seq

/-- The ready pending group of a quarter of greatest age (R231, R232). -/
def readyPending (s : State) (die core q : Nat) : Option Nat :=
  let rs := (quarterGroups s die core q).filter (fun e => !e.2.active && e.2.couldIssue)
  (rs.find? (fun e => rs.all (fun f => decide (ageKey s e.2 ≤ ageKey s f.2)))).map (·.1)

/-- An active group gives its place to the ready pending group of greatest age; with none it stays (R146, R232). -/
def swapActive (s : State) (gid : Nat) (g : Group) : State :=
  match readyPending s g.die g.core g.quarter with
  | none => s
  | some k =>
    let now := (s.die g.die).cycle
    (s.updGroup gid (fun g => { g with active := false, readySince := now })).updGroup k (fun g => { g with active := true, entered := now })

/-- Active places that are free go to ready pending groups, the oldest first (R232). -/
def fillPlaces (s : State) : State :=
  foldNames s (namesWhere s.groups (fun _ g => !g.active && g.couldIssue)) (fun s k =>
    match FMap.get? s.groups k with
    | none => s
    | some g =>
      if ((quarterGroups s g.die g.core g.quarter).filter (fun e => e.2.active)).length ≥ 8 then s
      else match readyPending s g.die g.core g.quarter with
        | none => s
        | some p => s.updGroup p (fun x => { x with active := true, entered := (s.die x.die).cycle }))

/-- The quarters as a step finds them: a pending group that is not ready has been ready for no time yet (R233), and a ready one takes an active place that
has come free (R232). -/
def settleQuarters (s : State) : State :=
  fillPlaces { s with groups := FMap.mapV s.groups (fun _ (g : Group) =>
    if g.active || g.couldIssue then g else { g with readySince := (s.die g.die).cycle }) }

/-- The long-latency dependences that a group can park on (R232). -/
def Group.longWait (g : Group) : Bool :=
  match g.wait with
  | .smark => g.pend.any (·.mem)
  | .barrier _ _ _ => true
  | .waitge _ _ _ => true
  | .queue => true
  | .presence => true
  | .pool => true
  | .childRoom => true
  | .ldy _ _ => true
  | _ => false

/-- A group that has parked on a long-latency dependence leaves the active set if it can (R232). -/
def settleActive (s : State) (gid : Nat) : State :=
  match FMap.get? s.groups gid with
  | none => s
  | some g => if g.active && g.longWait then swapActive s gid g else s

/-- The issue in progress ends with nothing more done; a step asked for by the debugger ends with it (R415). -/
def endIssue (s : State) (gid : Nat) : State :=
  let s := s.updGroup gid (fun g => if g.dbg = .step then { g with dbg := .stopped } else g)
  settleActive { s with model := { s.model with cur := none } } gid

/-- The group stops before the instruction for the debugger (R228, R415). -/
def stopForDebugger (s : State) (gid : Nat) : State :=
  { s.updGroup gid (fun g => { g with dbg := .stopped }) with model := { s.model with cur := none } }

/-- TAKING AN EXCEPTION of a group: the instruction performs nothing, the record, with what it says of the access, names it, the group stops
(R223, R396). -/
def groupFaultBy (s : State) (c : Issue) (r : FaultRec) : State :=
  endIssue (stopGroup s c.gid c.lanes (homeRung r.cause) { r with kind := 1, pc := c.pc, resume := c.pc, word := c.word }) c.gid

/-- The same with a record that names no access (log entry 78). -/
def groupFault (s : State) (c : Issue) (cause : Byte) (addr : DWord) : State := groupFaultBy s c { cause := cause, addr := addr }

/-- A tagged value reached a store, an atomic, an address or a command: POISON at C, the record naming the register (R411). -/
def poisonFault (s : State) (c : Issue) (mask : Word) (dreg dspace : Nat) : State :=
  endIssue (stopGroup s c.gid mask 2
    { cause := cPoison, kind := 1, pc := c.pc, resume := c.pc, word := c.word,
      dreg := BitVec.ofNat 8 dreg, dspace := BitVec.ofNat 8 dspace }) c.gid

/-- The issuing lanes that are no helpers take a lane fault together with one record, their program counters at the instruction, which
issues again on resume; helper lanes go on (R145, R174, R214, R221). -/
def issueFault (s : State) (c : Issue) (r : FaultRec) : State :=
  match FMap.get? s.groups c.gid with
  | none => endIssue s c.gid
  | some g =>
    let helpers := c.lanes &&& ~~~g.nonHelpers
    let s := s.putGroup c.gid (g.updLanes helpers (fun _ x => { x with pc := c.pc + BitVec.ofNat 64 c.len }))
    endIssue (parkLanes s c.gid (c.lanes &&& g.nonHelpers) (stamp s g { r with kind := 0, pc := c.pc, word := c.word }) none) c.gid

/-! ## The course of an issue -/

/-- The meaning of a word needs an issue in progress. -/
def withIssue (s : State) (k : Issue → Group → Out) : Out :=
  match s.model.cur with
  | none => .fault .noIssue
  | some c =>
    match FMap.get? s.groups c.gid with
    | none => .fault .noIssue
    | some g => k c g

/-- Whether every outstanding result has been reported as a fault, or none is outstanding (R225). -/
def settled (g : Group) : Bool := g.pend.all (fun p => match p.st with | .failed _ => true | _ => false)

/-- The lanes that a failed result parks (R154, R170). -/
def Pend.parks (p : Pend) : Word := match p.lane with | some l => 1#32 <<< l | none => p.mask

/-- When a wait's results are all written or have faulted the group goes on, and the lanes of faulted results park (R225, R227). -/
def settle (s : State) (gid : Nat) : State :=
  match FMap.get? s.groups gid with
  | none => s
  | some g =>
    if (g.wait = .smark) && settled g then
      let s := s.putGroup gid { g with wait := .run, pend := [], readySince := (s.die g.die).cycle }
      g.pend.foldl (fun s p => match p.st with | .failed r => parkLanes s gid p.parks r (p.acc.map (fun a => { a with dsts := p.dsts })) | _ => s) s
    else s

/-- The lanes of a group's failed results park, whatever it waits for (R229). -/
def restGroup (s : State) (gid : Nat) : State :=
  match FMap.get? s.groups gid with
  | none => s
  | some g =>
    let w := match g.wait with
      | .smark => .run
      | .drain => .run
      | w => w
    let s := settle (s.putGroup gid { g with wait := .smark }) gid
    s.updGroup gid (fun g => { g with wait := w })

/-- A group that the all-stop line has stopped parks the lanes of its failed results once its results are all in (R407). -/
def lineRest (s : State) (gid : Nat) : State :=
  match FMap.get? s.groups gid with
  | some g => if g.holds.line && !g.pend.isEmpty && settled g then restGroup s gid else s
  | none => s

/-- Whether a group has accesses in flight. -/
def inFlight (s : State) (gid : Nat) : Bool := s.flight.any (fun a => a.gid == gid && a.op.isNone)

/-- A group that waits for its accesses to be performed goes on when none is in flight. -/
def undrain (s : State) (gid : Nat) : State :=
  if inFlight s gid then s
  else s.updGroup gid (fun g => if g.wait = .drain then g.wakeAt (s.die g.die).cycle else g)

/-- The broadcast address after an issue at B: the counter all issuing lanes took, else the fall-through when some lane fell through,
else the lowest lane's (R217). -/
def nextB (c : Issue) (pcs : Nat → DWord) : DWord :=
  let ls := lanesOf c.lanes
  let fall := c.pc + BitVec.ofNat 64 c.len
  match ls with
  | [] => fall
  | l :: _ => if ls.any (fun k => pcs k == fall) && ls.any (fun k => pcs k != pcs l) then fall else pcs l

/-- The issue ends with every issuing lane's next program counter given (R216, R217); a set switch marker parks the group until
its outstanding results are in (R225). -/
def retireAt (s : State) (c : Issue) (g : Group) (pcs : Nat → DWord) : State :=
  let g := g.updLanes c.lanes (fun l x => { x with pc := pcs l })
  let g := { g with b := if g.b = c.pc then nextB c pcs else g.b, lastIssue := (s.die g.die).cycle }
  let g := if c.hdr.m then { g with wait := if g.wait = .run then .smark else g.wait } else g
  settle (endIssue (s.putGroup c.gid g) c.gid) c.gid

/-- The issue ends and every issuing lane goes on at the next instruction. Every instruction but LDY clears the LDY level (R163). -/
def retire (s : State) (c : Issue) (g : Group) : State :=
  retireAt s c { g with ldy := 0 } (fun _ => c.pc + BitVec.ofNat 64 c.len)

/-- The group parks before the instruction has had any effect, and issues it again when it wakes (R215): the choice of its issue set stands (R219). -/
def stall (s : State) (c : Issue) (w : GWait) : State :=
  endIssue (s.updGroup c.gid (fun g => { g with wait := w, mask := c.lanes, again := some c.pc })) c.gid

/-- A uniform instruction: no effect under a false guard (R115). -/
def uniform (s : State) (k : Issue → Group → Out) : Out :=
  withIssue s (fun c g => if guardQ c g then k c g else .next (retire s c g))

/-- A lane instruction that writes fixed-latency results in each lane of ACTIVE (R81, R84). -/
def laneFixed (s : State) (f : Group → Nat → List (Dst × Reg)) : Out :=
  withIssue s (fun c g => .next (retire s c (g.write ((activeLanes c g).flatMap (f g)))))

/-- A lane instruction whose results are variable-latency: they are outstanding until they are written back (R84, R224). -/
def laneVariable (s : State) (f : Issue → Group → Nat → List (Dst × Reg)) : Out :=
  withIssue s (fun c g =>
    let r := (activeLanes c g).foldl (fun (p : State × Group) l =>
      let (id, s) := p.1.fresh
      (s, p.2.defer id (some l) (f c g l) false)) (s, g)
    .next (retire r.1 c r.2))

/-- A uniform instruction that writes fixed-latency results. -/
def uniFixed (s : State) (f : Group → List (Dst × Reg)) : Out :=
  uniform s (fun c g => .next (retire s c (g.write (f g))))

/-- The wait of R117: until every outstanding result is written or has faulted, the instruction has no effect; the lanes of faulted
results park at it. -/
def waitFirst (s : State) (c : Issue) (g : Group) (k : Out) : Out :=
  if g.pend.isEmpty then k else .next (settle (stall s c .smark) c.gid)

/-- The wait for a group's own accesses to be performed at their places (R157, R169, R209, R258). -/
def drainFirst (s : State) (c : Issue) (k : Out) : Out :=
  if inFlight s c.gid then .next (stall s c .drain) else k

/-! ## Releasing waits -/

/-! ## Delivery and return -/

/-- The bytes of a fault record (R396). -/
def FaultRec.bytes (r : FaultRec) : List Byte :=
  [r.cause, r.kind, r.flags, r.kvst, r.width, r.dreg, r.dspace, 0] ++ leBytes 8 r.pc.toNat ++ leBytes 8 r.resume.toNat ++
  leBytes 8 r.addr.toNat ++ leBytes 4 r.word.toNat ++ leBytes 4 r.code.toNat ++ leBytes 16 r.data.toNat ++
  leBytes 2 r.asid.toNat ++ leBytes 2 r.gen.toNat ++ [0, 0, 0, 0]

/-- The bytes of a trap slot with a given STATE (R398). -/
def Trap.bytes (t : Trap) (state : Nat) : List Byte :=
  [BitVec.ofNat 8 state, BitVec.ofNat 8 t.rung, 0,
   BitVec.ofNat 8 (bitOf t.allstop + 2 * bitOf t.nested + 4 * bitOf t.norec), BitVec.ofNat 8 t.ctx, BitVec.ofNat 8 t.die] ++
  leBytes 2 t.core ++ [BitVec.ofNat 8 t.gslot, 0, 0, 0] ++ leBytes 4 t.lanes.toNat ++ leBytes 8 t.link.toNat ++
  List.replicate 40 0 ++ t.fault.bytes

/-- TRAPVEC and TRAPTMO of a rung on a die, for a context (R36, R399). -/
def trapVec (s : State) (die ctx rung : Nat) : DWord :=
  if rung ≤ 2 then (s.ctx die ctx).trapvec.getD rung 0 else if rung = 3 then (s.die die).trapvecP else (s.die die).trapvecD
def trapTmo (s : State) (die ctx rung : Nat) : DWord :=
  if rung ≤ 2 then (s.ctx die ctx).traptmo.getD rung 0 else if rung = 3 then (s.die die).traptmoP else (s.die die).traptmoD

/-- The rung a trap is delivered at: past every rung whose handler is not enabled, or whose slots have no valid area (R397, log
entry 16), up to D (R399, R403). -/
def liveRung (s : State) (die ctx : Nat) : Nat → Nat → Nat
  | 0, r => r
  | n + 1, r =>
    if r ≥ 4 then 4
    else if (trapVec s die ctx r).getLsbD 0 && stopValid (s.ctx die (areaOf s die ctx r)) then r
    else liveRung s die ctx n (r + 1)

/-- Whether a slot of a die is free in an area (R398): its STATE byte is 0 or 3, and no trap is on its way to the next rung in it (R402). -/
def slotFree (s : State) (die area i : Nat) : Except (AErr × DWord) Bool × State :=
  if anyIn s.traps (fun _ t => t.die == die && t.area == area && t.slot == some i && t.st == .waiting) then (.ok false, s)
  else match unitRead s die area (slotAddr s die area i) 1 with
    | (.error e, s) => (.error e, s)
    | (.ok (b, _), s) => (.ok (field b 0 1 == 0 || field b 0 1 == 3), s)

/-- The first free one of n slots from i on. -/
def freeSlotFrom (die area : Nat) : Nat → Nat → State → Except (AErr × DWord) (Option Nat) × State
  | 0, _, s => (.ok none, s)
  | n + 1, i, s =>
    match slotFree s die area i with
    | (.error e, s) => (.error e, s)
    | (.ok true, s) => (.ok (some i), s)
    | (.ok false, s) => freeSlotFrom die area n (i + 1) s

/-- The lowest free slot of a die in an area (R398). -/
def freeSlot (s : State) (die area : Nat) : Except (AErr × DWord) (Option Nat) × State := freeSlotFrom die area 4096 0 s

/-- The first free handler place: the party's own quarter, the other quarters of its core, then every core in order (R401). -/
def handlerPlace (s : State) (die core q : Nat) : Option (Nat × Nat) :=
  let free := fun (p : Nat × Nat) => (s.core die p.1).handlers.getD p.2 none == none && !(s.core die p.1).fenced
  let own := (core, q) :: ((List.range 4).filter (· != q)).map (fun k => (core, k))
  let all := (List.range 192).flatMap (fun c => (List.range 4).map (fun k => (c, k)))
  (own ++ all).find? free

/-- The handler groups running at a rung on a die (R401). -/
def handlersAt (s : State) (die rung : Nat) : Nat :=
  (s.groups.filter (fun e => e.2.die == die && (match e.2.kind with | .handler _ r _ => r == rung | _ => false))).length

/-- STATE of a trap's slot written (R398). -/
def writeSlotState (s : State) (t : Trap) (i n : Nat) : Except (AErr × DWord) Unit × State :=
  unitWrite s t.die t.area (slotAddr s t.die t.area i) [BitVec.ofNat 8 n]

/-- A trap slot that the trap unit cannot reach while its handler group runs holds that group (R441). -/
def slotFault (s : State) (gid : Nat) (t : Trap) (tid : Nat) (e : AErr) (a : DWord) : State :=
  let n := s.model.nextId
  (raiseUnit s t.die t.area 8 (.trapSlot tid) e.cause a).updGroup gid (fun g => { g with holds := { g.holds with trap := some n } })

/-- A handler group as it starts: under R23, with the slot's address in s0:1 and the rung in s2 (R401). -/
def handlerGroup (s : State) (die ctx core q tid rung : Nat) (entry slot : DWord) : Group :=
  let ring : BitVec 2 := BitVec.ofNat 2 (rungRing rung)
  { die := die, core := core, quarter := q, place := 15, ctx := ctx, ring := ring, kind := .handler tid rung none,
    nregs := 32, ndeep := 0,
    s := ([(0, reg (loHalf slot)), (1, reg (hiHalf slot)), (2, reg (BitVec.ofNat 32 rung))] : FMap Reg).filter (fun e => e.2 != {}),
    lanes := List.replicate 32 { st := .ready, pc := entry }, b := entry,
    lastIssue := (s.die die).cycle, entered := (s.die die).cycle, readySince := (s.die die).cycle }

/-- Parked lanes of a mask become ready, those that no trap still concerns, that await no repeat of an access, and that have none to make
(R154, R215). -/
def wakeParked (s : State) (gid : Nat) (mask : Word) : State :=
  s.updGroup gid (fun g => g.updLanes mask (fun l x =>
    let held := anyIn s.traps (fun _ t => t.lanes.getLsbD l && (match t.party with | .lanes k _ => k == gid | _ => false))
    let repeating := g.pend.any (fun p => p.wake && p.parks.getLsbD l)
    if x.st = .parked ∧ x.redo = [] ∧ !held ∧ !repeating then { x with st := .ready } else x))

/-- A group's trap hold is let go; it is ready from now on (R233). -/
def unhold (s : State) (gid tid : Nat) : State :=
  s.updGroup gid (fun g => if g.holds.trap = some tid then { g with holds := { g.holds with trap := none }, readySince := (s.die g.die).cycle } else g)

/-- A group's engine operations are still outstanding (R134, R135). -/
def opsOpen (s : State) (g : Group) : Bool := g.ops.any (fun o => (FMap.get? s.ops o).isSome)

/-- Lanes waiting at a CONV are released at the address after it, as one issuing set (R132, R217). -/
def Group.release (g : Group) (a : DWord) (m : Word) : Group :=
  { g.updLanes m (fun _ x => { x with st := .ready, pc := a + 4, convMask := 0 }) with b := a + 4 }

/-- The lanes that wait at a CONV (R132, R214). -/
def Group.waitingAt (g : Group) (a : DWord) : Word :=
  maskWhere (fun l => (g.lane l).st == .waiting && (g.lane l).pc == a)

/-- Whether the wait set at a CONV is complete (R132, R214): the union of the masks of the lanes waiting there, without helpers and lanes
that have exited, all of whose lanes wait there. -/
def Group.setDone (g : Group) (a : DWord) : Bool :=
  let w := g.waitingAt a
  (List.range 32).all (fun l =>
    let x := g.lane l
    let named := (lanesOf w).any (fun k => !(g.lane k).helper && (g.lane k).convMask.getLsbD l)
    !named || x.helper || !x.live || w.getLsbD l)

/-- Complete wait sets are released; and when every live lane that is no helper waits, none is parked and no set is complete, the lanes at the
CONV of the lowest waiting lane are (R132, R133). -/
def Group.convSettle (g : Group) : Group :=
  let pcs := (((List.range 32).filter (fun l => (g.lane l).st == .waiting)).map (fun l => (g.lane l).pc)).dedup
  let g := pcs.foldl (fun (g : Group) a => if g.waitingAt a ≠ 0 ∧ g.setDone a then g.release a (g.waitingAt a) else g) g
  let real := (List.range 32).filter (fun l => !(g.lane l).helper && (g.lane l).live)
  match (List.range 32).find? (fun l => (g.lane l).st == .waiting) with
  | some l =>
    if !real.isEmpty && real.all (fun k => (g.lane k).st == .waiting) then g.release (g.lane l).pc (g.waitingAt (g.lane l).pc) else g
  | none => g

/-- A helper lane whose quad has no live lane besides helpers issues nothing more (R214). -/
def Group.idleHelpers (g : Group) : Group :=
  { g with lanes := g.lanes.mapIdx (fun l x =>
      if x.helper && (x.st == .ready || x.st == .waiting) &&
        !(List.range 4).any (fun i => let y := g.lane (l / 4 * 4 + i); !y.helper && y.live) then { x with st := .idle } else x) }

end Sys2Proof.Machine
end

