-- ==== Sys2Proof/Machine/Fetch.lean ====
section
/-! DEFINITION. Choosing and fetching an instruction (R216-R219, R222, R230-R234): the issue set, the broadcast address, the loop
buffers, the instruction cache, and what a fetch can meet. -/

namespace Sys2Proof.Machine

/-- Whether a group may issue (R215, R230, R231): it stands in its quarter's active set, or that set has room for it. -/
def canIssue (s : State) (g : Group) : Bool :=
  g.couldIssue &&
  (g.active || decide (((quarterGroups s g.die g.core g.quarter).filter (fun e => e.2.active)).length < 8))

/-- A group that issues stands in the active set. -/
def enterActive (s : State) (g : Group) : Group := if g.active then g else { g with active := true, entered := (s.die g.die).cycle }

/-- When no ready lane stands at B, B moves to the program counter of the lowest ready lane (R217). -/
def settleB (g : Group) : Group :=
  if g.readyAt g.b ≠ 0 then g
  else match (List.range 32).find? (fun l => (g.lane l).st == .ready) with
    | some l => { g with b := (g.lane l).pc }
    | none => g

/-- The ready lanes that are diverged, in the order that begins after the last leader (R219). -/
def divergedAfter (g : Group) : List Nat :=
  ((List.range 32).map (fun i => (g.leader + 1 + i) % 32)).filter (fun l => (g.lane l).st == .ready && (g.lane l).pc != g.b)

/-- The address and the group after the choice of R219: the subscribed set, unless it has been chosen 16 times running while a diverged
lane was ready; else the set of the first diverged lane after the last leader. A set that was chosen and has only waited is issued first. -/
def choose (g : Group) : DWord × Group :=
  let h := settleB { g with again := none }
  match g.again.filter (fun a => g.readyAt a != 0), divergedAfter h with
  | some a, _ => (a, h)
  | none, [] => (h.b, { h with sub := 0 })
  | none, l :: _ =>
    if h.sub < 16 then (h.b, { h with sub := h.sub + 1 })
    else ((h.lane l).pc, { h with sub := 0, leader := l })

/-- A word in the core's instruction cache (R218). A word that only a higher ring has fetched serves no user-ring fetch, which the page tables are
to permit first (R222, R327). -/
def icacheFind (c : Core) (asid : Nat) (gen : BitVec 16) (ring : BitVec 2) (a : DWord) : Option Word :=
  (c.icache.find? (fun e => e.1 == a && e.2.1 == asid && e.2.2.1 == gen && (e.2.2.2.1 || ring != 0))).map (·.2.2.2.2)

/-- How a fetch ends; `tr` where the failure was detected at translation. -/
inductive FetchRes
  | word (w : Word)
  | faulted (c : FetchCause) (va : DWord)
  | denied (va : DWord) (tr : Bool)
  | world (va : DWord) (tr : Bool)
  | range (va : DWord)
deriving DecidableEq, Repr

/-- Whether an ASGEN of an address space is under way: its new generation may be in force at some places and not at others (R149, R329). -/
def asgenOpen (s : State) (asid : Nat) : Bool := anyIn s.groups (fun _ g => match g.wait with | .asgen a _ _ => a == asid | _ => false)

/-- Whether a fetch meets the generation check of a place where a new one is already in force (R222, R330): while an ASGEN is under way, either may
happen, and a free value says which. -/
def fetchStale (s : State) (asid : Nat) : Bool × State :=
  if asgenOpen s asid then let (x, s) := s.draw; (x.getLsbD 0, s) else (false, s)

/-- One word fetched for a core (R218, R222, R327): from the instruction cache, else through the page tables and the die's L2. The four bytes are those at
the address, be it a multiple of 4 or not (log entry 66). `kid` is the deterministic child, if any, that the walk's reads are made for (R272, R326). -/
def fetchWord (s : State) (gid : Nat) (g : Group) (kid : Option Nat) (a : DWord) : FetchRes × State :=
  let asid := (s.ctx g.die g.ctx).asid
  let gen := s.gen asid
  if !(canonical a) then (.range a, s)
  else
    match icacheFind (s.core g.die g.core) asid gen g.ring a with
    | some w => (.word w, s)
    | none =>
      match translate s g.die g.core g.ctx g.ring .fetch a { gid := some gid, child := kid } with
      | (.error .page, s) => (.faulted .page a, s)
      | (.error .protect, s) => (.denied a true, s)
      | (.error .world, s) => (.world a true, s)
      | (.error .berth, s) => (.faulted .berthRevoked a, s)
      | (.ok x, s) =>
        match accessErr s g.die x.pa 4 false with
        | some .berth => (.faulted .berthRevoked a, s)
        | some .world => (.world a false, s)
        | some .protect => (.denied a false, s)
        | some _ => (.faulted .page a, s)
        | none =>
          match fetchStale s asid with
          | (true, s) => (.faulted .genStale a, s)
          | (false, s) =>
            let (bs, _, s) := l2Read (holdC s g.die x.pa x.cbit false) g.die g.ctx (a.toNat / 128) x.pa 4
            let w : Word := BitVec.ofNat 32 (ofBytes bs)
            (.word w, s.updCore g.die g.core (fun c => { c with icache := (a, asid, gen, g.ring == 0, w) :: c.icache }))

/-! ## Loop buffers (R218) -/

/-- A word that a lane's loop buffer holds under a generation. -/
def bufFind (x : Lane) (a : DWord) (gen : BitVec 16) : Option Word := (x.buf.find? (fun e => e.1 == a && e.2.1 == gen)).map (·.2.2)

/-- A word made the most recently used of a lane's loop buffer of 48; one that the lane holds already stays as it is. -/
def bufPut (x : Lane) (a : DWord) (gen : BitVec 16) (w : Word) : Lane :=
  { x with buf := ((a, gen, (bufFind x a gen).getD w) :: x.buf.filter (fun e => e.1 != a)).take 48 }

/-- The lanes of an issue set at A that fetch the word at an address themselves: all of a broadcast, and of a diverged set those whose loop buffer
has not got it. -/
def fetchers (s : State) (g : Group) (a at_ : DWord) : Word :=
  let gen := s.gen (s.ctx g.die g.ctx).asid
  if a = g.b then g.readyAt a else maskWhere (fun l => (g.readyAt a).getLsbD l && (bufFind (g.lane l) at_ gen).isNone)

/-- The word at an address for an issue set at A: broadcast, or in a diverged set the lowest lane's own (R218; log entry 66). -/
def fetchFor (s : State) (gid : Nat) (g : Group) (a at_ : DWord) : FetchRes × State :=
  let gen := s.gen (s.ctx g.die g.ctx).asid
  let own := if a = g.b then none else bufFind (g.lane ((lanesOf (g.readyAt a)).headD 0)) at_ gen
  let kid := holdOf s g (fetchers s g a at_)
  match own with
  | some w => if fetchers s g a at_ = 0 then (.word w, s) else
      match fetchWord s gid g kid at_ with
      | (.word _, s) => (.word w, s)
      | r => r
  | none => fetchWord s gid g kid at_

/-- The loop buffers after a diverged issue has fetched its words (R218). -/
def fillBuffers (s : State) (gid : Nat) (g : Group) (a : DWord) (ws : List (DWord × Word)) : State :=
  let gen := s.gen (s.ctx g.die g.ctx).asid
  if a = g.b then s
  else s.updGroup gid (fun h => h.updLanes (g.readyAt a) (fun _ x => ws.foldl (fun x e => bufPut x e.1 gen e.2) x))

/-- A lane global load: an LD of any width, LDY, LDKV or DLD (R234). -/
def isGlobalLoad : Instr → Bool
  | .ldB32 _ _ _ => true
  | .ldB64 _ _ _ => true
  | .ldB128 _ _ _ => true
  | .ldN8 _ _ _ => true
  | .ldS8 _ _ _ => true
  | .ldN16 _ _ _ => true
  | .ldS16 _ _ _ => true
  | .ldyB32 _ _ _ => true
  | .ldkv _ _ _ => true
  | .ldkvTrap _ _ _ => true
  | .dldB32 _ _ _ => true
  | _ => false

/-- What the fetch of an issue found: an instruction with its header and word, or what takes its place. -/
inductive Fetched
  | instr (h : Hdr) (i : Instr) (w : Word)
  | unassigned (w : Word)
  | failed (f : FetchRes)
deriving DecidableEq, Repr

/-- Fetching and decoding for the issue set at an address (R45, R49, R218, R222): a SLIT takes its literal with it, fetched with the word, so that a
fault of that fetch comes before the word is found unassigned (log entry 66); a register above the declaration makes the word unassigned (R19). -/
def fetchDecode (s : State) (gid : Nat) (g : Group) (a : DWord) : Fetched × State :=
  match fetchFor s gid g a a with
  | (.word w, s) =>
    match (if wordIsSlit w then fetchFor s gid g a (a + 4) else (.word 0, s)) with
    | (.word lit, s) =>
      let s := fillBuffers s gid g a ((a, w) :: (if wordIsSlit w then [(a + 4, lit)] else []))
      match decode w lit with
      | .ok (h, i) => if i.regsOk g.nregs then (.instr h i w, s) else (.unassigned w, s)
      | .error _ => (.unassigned w, s)
    | (f, s) => (.failed f, s)
  | (f, s) => (.failed f, s)

/-! ## Whose turn it is (R230-R236) -/

/-- The cycles that an instruction holds its pipe (R84, R116, R158). -/
def interval : Instr → Nat
  | .addB64 _ _ _ => 2
  | .mulhS32 _ _ _ => 2
  | .mulhN32 _ _ _ => 2
  | .lea _ _ _ => 2
  | .leaX4 _ _ _ => 2
  | .rcp _ _ => 4
  | .rsq _ _ => 4
  | .sqrt _ _ => 4
  | .exp2 _ _ => 4
  | .log2 _ _ => 4
  | .sin _ _ => 4
  | .cos _ _ => 4
  | .tanh _ _ => 4
  | .sincos _ _ => 8
  | .perm _ _ _ => 2
  | .topkMax _ _ _ => 8
  | .topkMin _ _ _ => 8
  | .ldB64 _ _ _ => 2
  | .stB64 _ _ _ => 2
  | .ldsB64 _ _ _ => 2
  | .stsB64 _ _ _ => 2
  | .ldkv _ _ _ => 2
  | .ldkvTrap _ _ _ => 2
  | .ldB128 _ _ _ => 4
  | .stB128 _ _ _ => 4
  | .ldsB128 _ _ _ => 4
  | .stsB128 _ _ _ => 4
  | .atom _ _ _ _ w => w.toNat + 1
  | .atomPub _ _ _ _ w => w.toNat + 1
  | .red _ _ _ _ w => w.toNat + 1
  | .ldSub _ _ _ w => w.toNat + 1
  | .cas _ _ _ w => 2 * (w.toNat + 1)
  | .casPub _ _ _ w => 2 * (w.toNat + 1)
  | .smul _ _ _ => 2
  | .smulhS32 _ _ _ => 2
  | .smulhN32 _ _ _ => 2
  | .sminS32 _ _ _ => 2
  | .smaxS32 _ _ _ => 2
  | .sminN32 _ _ _ => 2
  | .smaxN32 _ _ _ => 2
  | .srot _ _ _ => 2
  | .saddB64 _ _ _ => 2
  | .ssubB64 _ _ _ => 2
  | .sandB64 _ _ _ => 2
  | .sorB64 _ _ _ => 2
  | .sxorB64 _ _ _ => 2
  | .sshlB64 _ _ _ => 2
  | .sshrN64 _ _ _ => 2
  | .sshrS64 _ _ _ => 2
  | _ => 1

/-- A quarter's pipe for a word, 0 the lane pipe and 1 the uniform pipe, as its place among a core's eight. -/
def pipeOf (g : Group) (w : Word) : Nat := 2 * g.quarter + bitOf (w.getLsbD 31)

/-- What a group's chosen issue set is to issue. -/
def chosen (s : State) (gid : Nat) (g : Group) : Fetched := let (a, g) := choose g; (fetchDecode s gid g a).1

/-- The word of a chosen instruction. -/
def Fetched.word : Fetched → Option Word
  | .instr _ _ w => some w
  | .unassigned w => some w
  | .failed _ => none

/-- Whether it is a lane global load. -/
def Fetched.loads : Fetched → Bool
  | .instr _ i _ => isGlobalLoad i
  | _ => false

/-- The other active groups of a group's quarter that could issue now and come before it (R231). -/
def elders (s : State) (gid : Nat) (g : Group) : List (Nat × Group) :=
  (quarterGroups s g.die g.core g.quarter).filter (fun e => e.1 != gid && e.2.active && e.2.couldIssue &&
    decide (e.2.busy ≤ (s.die g.die).cycle) && decide (ageKey s e.2 < ageKey s g))

/-- Whether a group holds a load permit or needs none (R234): the λ oldest of those whose chosen instruction is a lane global load hold one. -/
def hasPermit (s : State) (gid : Nat) (g : Group) (f : Fetched) : Bool :=
  !f.loads || decide (((elders s gid g).filter (fun e => (chosen s e.1 e.2).loads)).length < (s.core g.die g.core).lambda.getD g.quarter 8)

/-- Whether it is a group's turn at its pipe (R231): its issue interval has run out, the pipe is free, it has its permit, and no older group that is
ready needs that pipe. -/
def itsTurn (s : State) (gid : Nat) (g : Group) (f : Fetched) : Bool :=
  match f.word with
  | none => true
  | some w =>
    decide (g.busy ≤ (s.die g.die).cycle) && decide ((s.core g.die g.core).pipes.getD (pipeOf g w) 0 ≤ (s.die g.die).cycle) && hasPermit s gid g f &&
    (elders s gid g).all (fun e => let x := chosen s e.1 e.2
      x.word.map (pipeOf e.2) != some (pipeOf g w) || !hasPermit s e.1 e.2 x)

/-- An issue holds its pipe, and its group, for its interval (R220, R231). -/
def holdPipe (s : State) (gid : Nat) (g : Group) (w : Word) (n : Nat) : State :=
  let till := (s.die g.die).cycle + n
  (s.updGroup gid (fun g => { g with busy := till })).updCore g.die g.core (fun c => { c with pipes := c.pipes.set (pipeOf g w) till })

/-- The first issue of a handler group writes STATE 2 into its slot and starts its timer (R401, R404). Where the slot cannot be written the group is
held after that issue, and the write made again at its next (R441). -/
def beginHandler (s : State) (gid : Nat) : State :=
  match (FMap.get? s.groups gid).map Group.kind with
  | some (.handler t r none) =>
    match FMap.get? s.traps t with
    | none => s
    | some tr =>
      let started := fun (s : State) => s.updGroup gid (fun g => { g with kind := .handler t r (some (s.die g.die).cycle) })
      match tr.slot with
      | none => started s
      | some i => match writeSlotState s tr i 2 with
        | (.ok _, s) => started s
        | (.error (e, a), s) => slotFault s gid tr t e a
  | _ => s

/-- CYCLE after a step: one cycle and e more, never past what its 64 bits hold, which a product's life does not reach (R38). -/
def laterCycle (n e : Nat) : Nat := min (2 ^ 64 - 1) (n + 1 + e)

/-- Time passes on every die (R38): by one cycle and by a free number more. A launch that has come to the head of a die's order waits from now on
(R321), and active places that have come free are taken (R232). -/
def tick (s : State) : State :=
  let e := Config.elapsed s.model.freeCtr
  let s := { s with model := { s.model with freeCtr := s.model.freeCtr + 1, passed := false } }
  settleQuarters ((List.range s.fit.dies).foldl (fun s d =>
    let h := (headLaunch s d).map (·.1)
    s.updDie d (fun x => { x with cycle := laterCycle x.cycle e, head := h, headSince := if x.head = h then x.headSince else laterCycle x.cycle e })) s)

/-- The state in which a chosen issue's instruction has its meaning. -/
def withIssueOf (s : State) (gid : Nat) (a : DWord) (lanes : Word) (h : Hdr) (w : Word) (len : Nat) : State :=
  { s with model := { s.model with cur := some ⟨gid, a, lanes, h, w, len⟩ } }

/-- The state in which an event has its meaning. -/
def withEvent (s : State) (e : Ev) : State := { s with model := { s.model with ev := some e } }

end Sys2Proof.Machine
end

