-- ==== Sys2Proof/Machine/Kv.lean ====
section
/-! DEFINITION. Residency-map entries (R280-R284), the blocks they name, and the bridge codec (R346, R347). -/

namespace Sys2Proof.Machine

/-- The fields of a residency-map entry (R280). -/
def kvAddr (b : List Byte) : Nat := field b 0 8
def kvSize (b : List Byte) : Nat := field b 8 2
def kvEfmt (b : List Byte) : Nat := field b 10 1
def kvDimCode (b : List Byte) : Nat := field b 11 1
def kvStatus (b : List Byte) : Nat := field b 12 1
def kvRaw (b : List Byte) : Bool := bit (field b 13 1) 0

/-- The head dimension of an entry (R280). -/
def kvDim (b : List Byte) : Nat := 64 * 2 ^ (kvDimCode b % 4)

/-- Whether a format is one of an entry's (R280), and its element size. -/
def kvFmtOk (f : Nat) : Bool := [1, 2, 5, 6].contains f
def kvEs (f : Nat) : Nat := if f = 5 ∨ f = 6 then 2 else 1

/-- The uncompressed size of a block (R280). -/
def kvRawBytes (b : List Byte) : Nat := 128 * kvDim b * kvEs (kvEfmt b)

/-- A block lies wholly in package memory of the reading party's virtual function (R281). -/
def kvHeld (s : State) (die : Nat) (b : List Byte) : Bool :=
  inVf s die (kvAddr b) && inVf s die (kvAddr b + 32 * kvSize b - 1) &&
    homeDie s die (kvAddr b) == homeDie s die (kvAddr b + 32 * kvSize b - 1)

/-- An entry is ill-formed (R281). SIZE and the block are read only when STATUS is OK, so that their rules bind an OK entry alone. -/
def kvIll (s : State) (die : Nat) (b : List Byte) : Bool :=
  bits (kvAddr b) 63 52 != 0 || decide (kvDimCode b ≥ 3) || decide (kvStatus b > 4) ||
  decide (field b 13 1 > 1) || field b 14 2 != 0 || !(kvFmtOk (kvEfmt b)) ||
  (kvStatus b == 0 &&
    ((if kvRaw b then kvSize b != kvRawBytes b / 32 else decide (kvSize b = 0) || decide (kvSize b ≥ kvRawBytes b / 32)) ||
      !(kvHeld s die b)))

/-- The status that readers see: an ill-formed entry is POISON (R281). -/
def kvSeen (s : State) (die : Nat) (b : List Byte) : Nat := if kvIll s die b then 4 else kvStatus b

/-- Exponent and mantissa widths of a key-value format (R346). -/
def kvWidths (f : Nat) : Nat × Nat :=
  match f with
  | 5 => (8, 7)
  | 6 => (5, 10)
  | 1 => (4, 3)
  | _ => (5, 2)

/-- The bits of bytes, lowest first (R346). -/
def bitsOf (bs : List Byte) : List Bool := bs.flatMap (fun b => (List.range 8).map (fun i => b.getLsbD i))

/-- The number that the next n bits hold, lowest first, and what follows; nothing past the end. -/
def takeBits : Nat → List Bool → Option (Nat × List Bool)
  | 0, bs => some (0, bs)
  | _ + 1, [] => none
  | n + 1, b :: bs =>
    match takeBits n bs with
    | some (x, r) => some (bitOf b + 2 * x, r)
    | none => none

/-- Consecutive one bits, at most n. -/
def countOnes : Nat → List Bool → Nat
  | 0, _ => 0
  | _ + 1, [] => 0
  | n + 1, b :: bs => if b then 1 + countOnes n bs else 0

/-- One exponent of the stream, and what follows (R347). -/
def codecExp (base k xe : Nat) (st : List Bool) : Option (Int × List Bool) :=
  let q := countOnes 16 st
  let st := st.drop q
  if q < 16 then
    match st with
    | [] => none
    | _ :: st =>
      match takeBits k st with
      | none => none
      | some (x, st) =>
        let u := q * 2 ^ k + x
        some ((base : Int) + (if u % 2 = 0 then ((u / 2 : Nat) : Int) else -(((u + 1) / 2 : Nat) : Int)), st)
  else
    match takeBits xe st with
    | none => none
    | some (x, st) => some ((x : Int), st)

/-- The elements of a block, in order, with the bits left over in stream and plane (R347). -/
def codecElems (base k xe m w : Nat) : Nat → List Bool → List Bool → List Nat → Option (List Nat × List Bool × List Bool)
  | 0, st, pl, acc => some (acc.reverse, st, pl)
  | n + 1, st, pl, acc =>
    match codecExp base k xe st, takeBits (m + 1) pl with
    | some (e, st), some (res, pl) =>
      if 0 ≤ e ∧ e < ((2 ^ xe : Nat) : Int) then
        codecElems base k xe m w n st pl ((res / 2 ^ m * 2 ^ (w - 1) + e.toNat * 2 ^ m + res % 2 ^ m) :: acc)
      else none
    | _, _ => none

/-- A compressed block decoded to its raw bytes; nothing when it is undecodable (R347). -/
def codecDecode (f d : Nat) (blk : List Byte) : Option (List Byte) :=
  let (xe, m) := kvWidths f
  let ebits := field blk 4 4
  let planeAt := 32 + 4 * ceilDiv ebits 32
  if field blk 0 1 ≠ 1 ∨ field blk 2 1 > 7 ∨ field blk 3 1 ≠ 0 ∨ zeroAt blk 8 24 = false then none
  else
    let st := bitsOf (blk.drop 32)
    let pl := bitsOf (blk.drop planeAt)
    match codecElems (field blk 1 1) (field blk 2 1) xe m (1 + xe + m) (128 * d) st pl [] with
    | none => none
    | some (xs, st', _) =>
      if st.length - st'.length = ebits ∧ roundUp (planeAt + ceilDiv (128 * d * (m + 1)) 8) 32 = blk.length then
        some (xs.flatMap (fun x => leBytes (kvEs f) x))
      else none

/-- Bytes at a package address as the home holds them, under a child's view. -/
def viewBytes (s : State) (die : Nat) (child : Option Nat) (pa n : Nat) : List Byte :=
  heldView s die (heldOf s child) pa (homeBytes s die pa n)

/-- A line is made ready to be read by its bridge's codec (R246, R261, R345): owners are claimed, the home slice's dirty bytes go to memory, and the
bridge fetches the line for the reader without a place in the slice. With it, whether the link failed (R344). -/
def codecLine (p : Bool × State) (die line : Nat) : Bool × State :=
  let pa := line * 128
  let s := recallExcl (claimPhys p.2 die pa) pa
  match regionOf s.fit pa with
  | .package d b _ =>
    let s := match ownFind (s.die d) line with
      | some x => updOwn (homeOut s d x) d line (fun x => { x with dirty := [], bytes := [] })
      | none => s
    let r := (s.br d).read d b line 0xF
    (p.1 || r.bad, (s.putBr d r).carry die pa 128 false)
  | _ => p

/-- Every line of a block made ready for its reader: the reading die's own dirty bytes go home first (R157, R254). -/
def blockReady (s : State) (die : Nat) (b : List Byte) : Bool × State :=
  let lo := lineOf (kvAddr b)
  let hi := lineOf (kvAddr b + 32 * kvSize b - 1)
  let s := writeBackWhere s die (fun x => decide (lo ≤ x.line) && decide (x.line ≤ hi))
  ((List.range (hi + 1 - lo)).map (lo + ·)).foldl (fun p l => codecLine p die l) (false, s)

/-- Whether a line of an entry's block is poisoned (R283). -/
def kvPoisoned (s : State) (die : Nat) (child : Option Nat) (b : List Byte) : Bool :=
  (chunks (kvAddr b) (32 * kvSize b)).any (fun c => viewMark s die child c.1)

/-- What a reader finds in an OK entry's block (R283, R347): its raw bytes, poison, or an undecodable block. -/
inductive KvData
  | raw (bs : List Byte)
  | poisoned
  | undecodable
deriving DecidableEq, Repr

/-- An OK entry's block read through the codec of its bridge (R283, R345, R347). -/
def kvBlock (s : State) (die : Nat) (child : Option Nat) (b : List Byte) : KvData × State :=
  let (bad, s) := blockReady s die b
  if bad || kvPoisoned s die child b then (.poisoned, s)
  else
    let stored := viewBytes s die child (kvAddr b) (32 * kvSize b)
    (if kvRaw b then .raw stored else match codecDecode (kvEfmt b) (kvDim b) stored with
      | some bs => .raw bs
      | none => .undecodable, s)

/-- A map entry read (R164, R200, R284), with whether its line is poisoned: at its home, the reading die's own dirty bytes of the line gone home first
(R157), or of a berth's line from the die's copy, where that has it (R334). `span` is what the request asks for of the line (R337). -/
def entryAt (s : State) (die ctx : Nat) (child : Option Nat) (vl pa : Nat) (span : Nat × Nat) : List Byte × Bool × State :=
  let s := claimLine s die ctx vl
  if copyServes s die pa 16 false then
    let (bs, bad, s) := l2Read s die ctx vl pa 16
    (heldView s die (heldOf s child) pa bs, heldMark (heldOf s child) pa bad, s)
  else
    let (lost, s) := homeRead (writeBackWhere s die (fun x => x.line == lineOf pa)) die (lineOf pa * 128 + span.1) span.2
    let s := s.carry die pa 16 false
    (viewBytes s die child pa 16, lost || viewMark s die child pa, s)

/-- What LDKV finds in an entry for a word of a position (R164): a word out of range, a status, or the word. -/
inductive KvRes
  | range
  | status (c : Nat)
  | word (w : Word)
deriving DecidableEq, Repr

/-- The reading of one word through an entry (R164, R282). -/
def kvWord (s : State) (die : Nat) (child : Option Nat) (b : List Byte) (pos w : Nat) : KvRes × State :=
  if kvSeen s die b ≠ 0 then (.status (kvSeen s die b), s)
  else if w ≥ kvDim b * kvEs (kvEfmt b) / 2 then (.range, s)
  else match kvBlock s die child b with
    | (.raw bs, s) => (.word (BitVec.ofNat 32 (field bs (2 * kvDim b * kvEs (kvEfmt b) * (pos % 64) + 4 * w) 4)), s)
    | (_, s) => (.status 4, s)

end Sys2Proof.Machine
end

