-- ==== Sys2Proof/Machine/LaneInt.lean ====
section
/-! DEFINITION. The lane integer and address instructions (R87-R92): each writes its destination in every lane of ACTIVE, tagged when
a source is (R24), before the group's next issue (R84). -/

namespace Sys2Proof.Machine

/-- d := f(a, b) in each lane. -/
def lane3 (s : State) (d a b : BitVec 7) (f : Word → Word → Word) : Out :=
  laneFixed s (fun g l => [(.v d.toNat l, ⟨f (g.vv a l) (g.vv b l), g.vt a l || g.vt b l⟩)])

/-- d := f(d, a, b) in each lane. -/
def lane3d (s : State) (d a b : BitVec 7) (f : Word → Word → Word → Word) : Out :=
  laneFixed s (fun g l => [(.v d.toNat l, ⟨f (g.vv d l) (g.vv a l) (g.vv b l), g.vt d l || g.vt a l || g.vt b l⟩)])

/-- d := f(a) in each lane. -/
def lane2 (s : State) (d a : BitVec 7) (f : Word → Word) : Out :=
  laneFixed s (fun g l => [(.v d.toNat l, ⟨f (g.vv a l), g.vt a l⟩)])

/-- d := f(d, a) in each lane. -/
def lane2d (s : State) (d a : BitVec 7) (f : Word → Word → Word) : Out :=
  laneFixed s (fun g l => [(.v d.toNat l, ⟨f (g.vv d l) (g.vv a l), g.vt d l || g.vt a l⟩)])

/-- The position and length of a bit field (R88). -/
def fieldPos (b : Word) : Nat := b.toNat % 256
def fieldLen (b : Word) : Nat := min (b.toNat / 256 % 256) 32

/-- BFE, with the sign choice given apart (R88, R121). -/
def bfe (a b : Word) (sx : Bool) : Word :=
  let pos := fieldPos b
  let len := fieldLen b
  if len = 0 ∨ pos ≥ 32 then 0
  else
    let w := min len (32 - pos)
    let f := (a >>> pos) &&& shrN 0xFFFFFFFF#32 (32 - w)
    if sx && f.getLsbD (w - 1) then f ||| shlW 0xFFFFFFFF#32 w else f

/-- BFI into an old value (R88). -/
def bfi (old a b : Word) : Word :=
  let pos := fieldPos b
  let len := fieldLen b
  if len ≠ 0 ∧ pos < 32 then
    let w := min len (32 - pos)
    let m := shrN 0xFFFFFFFF#32 (32 - w) <<< pos
    (old &&& ~~~m) ||| ((a <<< pos) &&& m)
  else old

/-- ADD_B32 (R87): d := a + b. -/
def execAddB32 (d a b : BitVec 7) (s : State) : Out := lane3 s d a b (fun x y => x + y)

/-- SUB_B32 (R87): d := a − b. -/
def execSubB32 (d a b : BitVec 7) (s : State) : Out := lane3 s d a b (fun x y => x - y)

/-- ADD_B64 (R87): the pair sum modulo 2^64; a tagged half of a source tags both halves (R24). -/
def execAddB64 (d a b : BitVec 7) (s : State) : Out :=
  laneFixed s (fun g l => pairWrites d.toNat l (g.vPair a l + g.vPair b l) (g.vPairT a l || g.vPairT b l))

/-- MUL_B32 (R87): the low half of the product. -/
def execMulB32 (d a b : BitVec 7) (s : State) : Out := lane3 s d a b (fun x y => x * y)

/-- MULH_S32 (R87): the high half of the signed product. -/
def execMulhS32 (d a b : BitVec 7) (s : State) : Out := lane3 s d a b (fun x y => mulHighS x y)

/-- MULH_N32 (R87): the high half of the unsigned product. -/
def execMulhN32 (d a b : BitVec 7) (s : State) : Out := lane3 s d a b (fun x y => mulHighN x y)

/-- MAC_B32 (R87): d := d + low half of the product. -/
def execMacB32 (d a b : BitVec 7) (s : State) : Out := lane3d s d a b (fun o x y => o + x * y)

/-- MIN_S32 (R87): signed minimum. -/
def execMinS32 (d a b : BitVec 7) (s : State) : Out := lane3 s d a b (fun x y => minS x y)

/-- MAX_S32 (R87): signed maximum. -/
def execMaxS32 (d a b : BitVec 7) (s : State) : Out := lane3 s d a b (fun x y => maxS x y)

/-- AND (R87): bitwise and. -/
def execAnd (d a b : BitVec 7) (s : State) : Out := lane3 s d a b (fun x y => x &&& y)

/-- OR (R87): bitwise or. -/
def execOr (d a b : BitVec 7) (s : State) : Out := lane3 s d a b (fun x y => x ||| y)

/-- XOR (R87): bitwise exclusive or. -/
def execXor (d a b : BitVec 7) (s : State) : Out := lane3 s d a b (fun x y => x ^^^ y)

/-- SHL (R87): shift left; 0 from 32 on. -/
def execShl (d a b : BitVec 7) (s : State) : Out := lane3 s d a b (fun x y => shlW x y.toNat)

/-- SHR_N32 (R87): zero-filled shift right; 0 from 32 on. -/
def execShrN32 (d a b : BitVec 7) (s : State) : Out := lane3 s d a b (fun x y => shrN x y.toNat)

/-- SHR_S32 (R87): sign-filled shift right; the sign from 32 on. -/
def execShrS32 (d a b : BitVec 7) (s : State) : Out := lane3 s d a b (fun x y => shrS x y.toNat)

/-- FSH (R87): right funnel shift of a above the old d by b[4:0]. -/
def execFsh (d a b : BitVec 7) (s : State) : Out := lane3d s d a b (fun o x y => ((x ++ o) >>> (y.toNat % 32)).setWidth 32)

/-- BFE (R88): bit-field extraction. -/
def execBfe (d a b : BitVec 7) (s : State) : Out := lane3 s d a b (fun x y => bfe x y (y.getLsbD 16))

/-- BFI (R88): bit-field insertion into the old d. -/
def execBfi (d a b : BitVec 7) (s : State) : Out := lane3d s d a b (fun o x y => bfi o x y)

/-- MOV (R89): d := a, with its tag. -/
def execMov (d a : BitVec 7) (s : State) : Out := lane2 s d a (fun x => x)

/-- SHL_IMM (R89): shift left by n. -/
def execShlImm (d a : BitVec 7) (n : BitVec 5) (s : State) : Out := lane2 s d a (fun x => x <<< n.toNat)

/-- NOT (R89): bitwise complement. -/
def execNot (d a : BitVec 7) (s : State) : Out := lane2 s d a (fun x => ~~~x)

/-- SHR_N32_IMM (R89): zero-filled shift right by n. -/
def execShrN32Imm (d a : BitVec 7) (n : BitVec 5) (s : State) : Out := lane2 s d a (fun x => x >>> n.toNat)

/-- NEG (R89): 0 − a. -/
def execNeg (d a : BitVec 7) (s : State) : Out := lane2 s d a (fun x => -x)

/-- SHR_S32_IMM (R89): sign-filled shift right by n. -/
def execShrS32Imm (d a : BitVec 7) (n : BitVec 5) (s : State) : Out := lane2 s d a (fun x => x.sshiftRight n.toNat)

/-- ABS_S32 (R89): |a|; 0x8000_0000 stays. -/
def execAbsS32 (d a : BitVec 7) (s : State) : Out := lane2 s d a (fun x => if x.getLsbD 31 then -x else x)

/-- POPC (R89): the number of one bits. -/
def execPopc (d a : BitVec 7) (s : State) : Out := lane2 s d a (fun x => BitVec.ofNat 32 (popCount x))

/-- CLZ (R89): the number of leading zero bits. -/
def execClz (d a : BitVec 7) (s : State) : Out := lane2 s d a (fun x => BitVec.ofNat 32 (leadingZeros x))

/-- BREV (R89): the bits in reverse. -/
def execBrev (d a : BitVec 7) (s : State) : Out := lane2 s d a (fun x => bitReverse x)

/-- MOV_SPECIAL (R89): a special value, read at issue (R26-R29). -/
def execMovSpecial (d : BitVec 7) (i : BitVec 6) (s : State) : Out :=
  laneFixed s (fun g l => [(.v d.toNat l, reg (special s g i.toNat l))])

/-- ROT_IMM (R89): left rotation by 8, 16 or 24: the field k holds 1, 2 or 3. -/
def execRotImm (d a : BitVec 7) (k : BitVec 2) (s : State) : Out := lane2 s d a (fun x => x.rotateLeft (8 * k.toNat))

/-- LEA (R90): sK:K+1 + sext(va), modulo 2^64. -/
def execLea (d a : BitVec 7) (k : BitVec 6) (s : State) : Out :=
  laneFixed s (fun g l => pairWrites d.toNat l (g.sPair k + (g.vv a l).signExtend 64) (g.sPairT k || g.vt a l))

/-- LEA_X4 (R90): sK:K+1 + 4 × sext(va), modulo 2^64. -/
def execLeaX4 (d a : BitVec 7) (k : BitVec 6) (s : State) : Out :=
  laneFixed s (fun g l => pairWrites d.toNat l (g.sPair k + 4 * (g.vv a l).signExtend 64) (g.sPairT k || g.vt a l))

/-- MOVI (R91): d := sext(imm14). -/
def execMovi (d : BitVec 7) (i : BitVec 14) (s : State) : Out :=
  laneFixed s (fun _ l => [(.v d.toNat l, reg (i.signExtend 32))])

/-- ADDI (R91): d := d + sext(imm14). -/
def execAddi (d : BitVec 7) (i : BitVec 14) (s : State) : Out :=
  laneFixed s (fun g l => [(.v d.toNat l, ⟨g.vv d l + i.signExtend 32, g.vt d l⟩)])

/-- MIN_N32 (R92): unsigned minimum of d and a. -/
def execMinN32 (d a : BitVec 7) (s : State) : Out := lane2d s d a (fun o x => minN o x)

/-- MAX_N32 (R92): unsigned maximum of d and a. -/
def execMaxN32 (d a : BitVec 7) (s : State) : Out := lane2d s d a (fun o x => maxN o x)

/-- ROT (R92): d rotated left by a[4:0]. -/
def execRot (d a : BitVec 7) (s : State) : Out := lane2d s d a (fun o x => o.rotateLeft (x.toNat % 32))

/-- ROTR (R92): d rotated right by a[4:0]. -/
def execRotr (d a : BitVec 7) (s : State) : Out := lane2d s d a (fun o x => o.rotateRight (x.toNat % 32))

/-- ADD_S32_SAT (R92): the signed sum, clamped. -/
def execAddS32Sat (d a : BitVec 7) (s : State) : Out := lane2d s d a (fun o x => satS32 (o.toInt + x.toInt))

/-- SUB_S32_SAT (R92): the signed difference d − a, clamped. -/
def execSubS32Sat (d a : BitVec 7) (s : State) : Out := lane2d s d a (fun o x => satS32 (o.toInt - x.toInt))

/-- SEL (R92): d := pN ? a : d, with the tag of the source taken (R24). -/
def execSel (d a : BitVec 7) (n : BitVec 3) (s : State) : Out :=
  laneFixed s (fun g l => [(.v d.toNat l, if g.pred n.toNat l then g.readV a.toNat l else g.readV d.toNat l)])

/-- SEL_NOT (R92): d := pN ? d : a, with the tag of the source taken (R24). -/
def execSelNot (d a : BitVec 7) (n : BitVec 3) (s : State) : Out :=
  laneFixed s (fun g l => [(.v d.toNat l, if g.pred n.toNat l then g.readV d.toNat l else g.readV a.toNat l)])

end Sys2Proof.Machine
end

