-- ==== Sys2Proof/Machine/Sfu.lean ====
section
/-! DEFINITION. The SFU functions (R106-R108) and the MAU's exponential (R286): the result is a free value of Config held to the bound
that the rule sets around the exact result; where it falls outside, the exact result rounded once stands for it (log entry 9). Exact results
are held as whole multiples of 2^−600, rounded down: the smallest argument's cube, which decides where a result of SIN or TANH lies against
its argument, is above 2^−450. -/

namespace Sys2Proof.Machine

/-- Fraction bits of a fixed-point number here. -/
def fxBits : Nat := 600

/-- The unit: 1 in fixed point. -/
def fxOne : Nat := 2 ^ fxBits

/-- The whole square root, by n bits from the highest. -/
def isqrtAux (x : Nat) : Nat → Nat → Nat
  | 0, r => r
  | n + 1, r => if (r + 2 ^ n) * (r + 2 ^ n) ≤ x then isqrtAux x n (r + 2 ^ n) else isqrtAux x n r

/-- The whole square root of a number. -/
def isqrt (x : Nat) : Nat := isqrtAux x (Nat.log2 x / 2 + 1) 0

/-- z + z^3/3 + z^5/5 + … from a term: z the odd power reached, z2 the square. -/
def atanhSum (z2 : Nat) : Nat → Nat → Nat → Nat
  | 0, _, _ => 0
  | n + 1, k, p => p / (2 * k + 1) + atanhSum z2 n (k + 1) (p * z2 / fxOne)

/-- atanh z for 0 ≤ z ≤ 1/3. -/
def fxAtanh (z : Nat) : Nat := atanhSum (z * z / fxOne) 200 0 z

/-- ln 2 = 2 atanh(1/3). -/
def fxLn2 : Nat := 2 * fxAtanh (fxOne / 3)

/-- The alternating arctangent series of 1/q. -/
def atanInvSum (q2 : Nat) : Nat → Nat → Nat → Int
  | 0, _, _ => 0
  | n + 1, k, p => ((p / (2 * k + 1) : Nat) : Int) - atanInvSum q2 n (k + 1) (p / q2)

/-- π/2 = 8 atan(1/5) − 2 atan(1/239), with 600 more fraction bits than the rest, for the reduction of large arguments. -/
def fxHalfPi2 : Nat :=
  (8 * atanInvSum 25 360 0 (fxOne * fxOne / 5) - 2 * atanInvSum 57121 160 0 (fxOne * fxOne / 239)).toNat

/-- Σ (±z)^k / k! from a term. -/
def expSum (z : Nat) (alt : Bool) : Nat → Nat → Nat → Int
  | 0, _, _ => 0
  | n + 1, k, t =>
    let rest := expSum z alt n (k + 1) (t * z / fxOne / (k + 1))
    (t : Int) + (if alt then -rest else rest)

/-- e^(−z) for 0 ≤ z < 2^9: the series at z / 2^12, squared twelve times. -/
def fxExpNeg (z : Nat) : Nat :=
  let e := (expSum (z / 4096) true 60 0 fxOne).toNat
  (List.range 12).foldl (fun x _ => x * x / fxOne) e

/-- e^z for 0 ≤ z < 1. -/
def fxExp (z : Nat) : Nat := (expSum z false 150 0 fxOne).toNat

/-- sin z for 0 ≤ z < 2 in fixed point, its terms from z on. -/
def sinSum (z2 : Nat) : Nat → Nat → Nat → Int
  | 0, _, _ => 0
  | n + 1, k, t => (t : Int) - sinSum z2 n (k + 2) (t * z2 / fxOne / ((k + 1) * (k + 2)))

def fxSin (z : Nat) : Nat := (sinSum (z * z / fxOne) 80 1 z).toNat
def fxCos (z : Nat) : Nat := (sinSum (z * z / fxOne) 80 0 fxOne).toNat

/-- A magnitude m × 2^e in fixed point. -/
def fxOf (m : Nat) (e : Int) : Nat := scaleDown m (e + fxBits)

/-- The largest finite FP32 value in fixed point. -/
def fxMax : Nat := (2 ^ 24 - 1) * 2 ^ 104 * fxOne

/-- floor(log2 y) of a fixed-point number. -/
def fxLog (y : Nat) : Int := (Nat.log2 y : Int) - fxBits

/-- Whether a word is a value within `half` / 2 units of the exact result ±y (R107); below the subnormal range only a zero of y's sign or
the nearest subnormal is. -/
def sfuOk (half : Nat) (neg : Bool) (y : Nat) (w : Word) : Bool :=
  match fv32 w with
  | .fin n m e =>
    let ulp := scaleDown 1 (max (fxLog y) (-126) - 23 + fxBits)
    let d : Int := (if n then -(fxOf m e : Int) else (fxOf m e : Int)) - (if neg then -(y : Int) else (y : Int))
    if y < scaleDown 1 (fxBits - 149) then n == neg && (m == 0 || (m == 1 && e == -149))
    else decide (2 * d.natAbs ≤ half * ulp)
  | _ => false

/-- A free word held to its bound (R106, R107); beyond the largest finite value, an infinity. -/
def sfuPick (half : Nat) (free : Word) (neg : Bool) (y : Nat) : Word :=
  if y > fxMax then (if neg then 0xFF800000#32 else 0x7F800000#32)
  else if sfuOk half neg y free then free
  else BitVec.ofNat 32 (fp32.roundFin .rne neg y (-fxBits))

def nan32 : Word := 0x7FC00000#32
def inf32 (neg : Bool) : Word := if neg then 0xFF800000#32 else 0x7F800000#32
def zero32 (neg : Bool) : Word := if neg then 0x80000000#32 else 0#32

/-- RCP (R106, R107), exact where a power of two has a normal reciprocal (R304). -/
def sfuRcp (a : Word) : Word :=
  match fv32 a with
  | .nan => nan32
  | .inf n => zero32 n
  | .fin n m e =>
    if m = 0 then inf32 n
    else
      let y := scaleDown fxOne (fxBits - e) / (m * fxOne)
      sfuPick (if m = 2 ^ Nat.log2 m ∧ scaleDown 1 (fxBits - 126) ≤ y then 0 else 2) (Config.sfuRcp a) n y

/-- RSQ (R106, R107). -/
def sfuRsq (a : Word) : Word :=
  match fv32 a with
  | .nan => nan32
  | .inf n => if n then nan32 else 0
  | .fin n m e =>
    if m = 0 then inf32 n else if n then nan32
    else sfuPick 2 (Config.sfuRsq a) false (isqrt (scaleDown (fxOne * fxOne) (2 * fxBits - e) / (m * fxOne * fxOne)))

/-- SQRT, correctly rounded (R106, R107). -/
def sfuSqrt (a : Word) : Word :=
  match fv32 a with
  | .nan => nan32
  | .inf n => if n then nan32 else inf32 false
  | .fin n m e =>
    if m = 0 then a else if n then nan32
    else
      let x := m * 2 ^ (64 + (e % 2).toNat)
      let r := isqrt x
      BitVec.ofNat 32 (fp32.roundFin .rne false (2 * r + bitOf (r * r != x)) ((e - e % 2) / 2 - 33))

/-- 2^x for a finite x in fixed point, between the limits outside which the result is far beyond a format's range. -/
def fxExp2 (n : Bool) (m : Nat) (e : Int) : Nat :=
  if m = 0 then fxOne
  else if (Nat.log2 m : Int) + e ≥ 9 then (if n then 0 else 2 * fxMax)
  else
    let z : Int := if n then -(fxOf m e : Int) else (fxOf m e : Int)
    let k := z / fxOne
    let f := fxExp ((z % fxOne).toNat * fxLn2 / fxOne)
    scaleDown (if z % fxOne = 0 then fxOne else f) k

/-- EXP2 (R106, R107): exact at the whole numbers whose power is representable. -/
def sfuExp2 (a : Word) : Word :=
  match fv32 a with
  | .nan => nan32
  | .inf n => if n then 0 else inf32 false
  | .fin n m e =>
    if m = 0 then 0x3F800000#32
    else
      let y := fxExp2 n m e
      let whole := match Fv.toInt .rz (.fin n m e) with | some i => Fv.eq (.fin n m e) (.fin (decide (i < 0)) i.natAbs 0) | none => false
      if whole && decide (y ≥ scaleDown 1 (fxBits - 149)) then sfuPick 0 (Config.sfuExp2 a) false y
      else sfuPick 2 (Config.sfuExp2 a) false y

/-- log2 of m × 2^e in fixed point, signed. -/
def fxLog2 (m : Nat) (e : Int) : Int :=
  let k := Nat.log2 m
  let x := m * fxOne / 2 ^ k
  let z := (x - fxOne) * fxOne / (x + fxOne)
  ((k : Int) + e) * fxOne + ((2 * fxAtanh z * fxOne / fxLn2 : Nat) : Int)

/-- LOG2 (R106, R107). -/
def sfuLog2 (a : Word) : Word :=
  match fv32 a with
  | .nan => nan32
  | .inf n => if n then nan32 else inf32 false
  | .fin n m e =>
    if m = 0 then inf32 true else if n then nan32
    else
      let y := fxLog2 m e
      if y = 0 then 0 else sfuPick 3 (Config.sfuLog2 a) (decide (y < 0)) y.natAbs

/-- The quadrant and the rest of a magnitude divided by π/2, reduced exactly (R107). -/
def fxReduce (m : Nat) (e : Int) : Nat × Nat :=
  let x := scaleDown m (e + 2 * fxBits)
  (x / fxHalfPi2, x % fxHalfPi2 / fxOne)

/-- sin of quadrant q and rest r: sign and magnitude. -/
def fxSinQ (q r : Nat) : Bool × Nat := (decide (q % 4 ≥ 2), if q % 2 = 0 then fxSin r else fxCos r)

/-- SIN (R106, R107). -/
def sfuSin (a : Word) : Word :=
  match fv32 a with
  | .nan => nan32
  | .inf _ => nan32
  | .fin n m e =>
    if m = 0 then a
    else
      let (q, r) := fxReduce m e
      let (sg, y) := fxSinQ q r
      sfuPick 3 (Config.sfuSin a) (sg != n) y

/-- COS (R106, R107). -/
def sfuCos (a : Word) : Word :=
  match fv32 a with
  | .nan => nan32
  | .inf _ => nan32
  | .fin _ m e =>
    if m = 0 then 0x3F800000#32
    else
      let (q, r) := fxReduce m e
      let (sg, y) := fxSinQ (q + 1) r
      sfuPick 3 (Config.sfuCos a) sg y

/-- TANH (R106, R107). -/
def sfuTanh (a : Word) : Word :=
  match fv32 a with
  | .nan => nan32
  | .inf n => if n then 0xBF800000#32 else 0x3F800000#32
  | .fin n m e =>
    if m = 0 then a
    else
      let t := if (Nat.log2 m : Int) + e ≥ 7 then 0 else fxExpNeg (2 * fxOf m e)
      sfuPick 4 (Config.sfuTanh a) n (min ((fxOne - t) * fxOne / (fxOne + t)) (fxOne - 1))

end Sys2Proof.Machine
end

