-- ==== Sys2Proof/Machine/LaneFp.lean ====
section
/-! DEFINITION. The lane comparisons and votes (R93-R95, R97), FP32 and packed arithmetic (R96-R101), conversions (R102-R105) and
the SFU functions (R106-R108). -/

namespace Sys2Proof.Machine

/-! ## Comparisons and predicates -/

/-- A comparison that writes a predicate: POISON from a tagged source in a lane that is no helper, no write in a helper lane with one
(R82, R86). -/
def laneCompare (s : State) (e : BitVec 3) (a b : BitVec 7) (f : Word → Word → Bool) : Out :=
  withIssue s (fun c g =>
    let bad := (activeReal c g).filter (fun l => g.vt a l || g.vt b l)
    if bad ≠ [] then
      .next (poisonFault s c (maskOf bad) (if bad.any (fun l => g.vt a l) then a.toNat else b.toNat) 0)
    else
      .next (retire s c (g.write (((activeLanes c g).filter (fun l => !(g.vt a l || g.vt b l))).map
        (fun l => (.p e.toNat l, preg (f (g.vv a l) (g.vv b l))))))))

/-- CMPI (R93). -/
def execCmpi (e : BitVec 3) (a b : BitVec 7) (k : BitVec 4) (s : State) : Out := laneCompare s e a b (cmpInt k)

/-- CMPF (R97). -/
def execCmpf (e : BitVec 3) (a b : BitVec 7) (k : BitVec 4) (s : State) : Out := laneCompare s e a b (cmpFloat k)

/-- PLOP (R94). -/
def execPlop (e f h : BitVec 3) (t : BitVec 4) (s : State) : Out :=
  laneFixed s (fun g l => [(.p e.toNat l, preg (lutBit t (g.pred f.toNat l) (g.pred h.toNat l)))])

/-- A vote: its outcome over the inputs is written in every lane of ACTIVE (R95). -/
def vote (s : State) (e f : BitVec 3) (r : List Bool → Bool) : Out :=
  laneVariable s (fun c g l => [(.p e.toNat l, preg (r ((activeReal c g).map (fun k => g.pred f.toNat k))))])

/-- VOTE_ANY (R95). -/
def execVoteAny (e f : BitVec 3) (s : State) : Out := vote s e f (fun bs => bs.any id)

/-- VOTE_ALL (R95). -/
def execVoteAll (e f : BitVec 3) (s : State) : Out := vote s e f (fun bs => bs.all id)

/-- VOTE_EQ (R95). -/
def execVoteEq (e f : BitVec 3) (s : State) : Out := vote s e f (fun bs => bs.all id || bs.all (fun b => !b))

/-- VOTE_BALLOT (R95): the mask of the inputs whose predicate is true, a variable-latency write of a uniform register. -/
def execVoteBallot (f : BitVec 3) (k : BitVec 6) (s : State) : Out :=
  withIssue s (fun c g =>
    let m := maskOf ((activeReal c g).filter (fun l => g.pred f.toNat l))
    let (id, s) := s.fresh
    .next (retire s c (g.defer id none [(.s k.toNat, reg m)] false)))

/-! ## FP32 -/

/-- Toll counter 4 counts n operations per lane of ACTIVE (R429; log entry 30). -/
def fpOps (s : State) (n : Nat) : State :=
  match s.model.cur with
  | none => s
  | some c =>
    match FMap.get? s.groups c.gid with
    | none => s
    | some g => s.toll g.die 4 (n * (activeLanes c g).length)

/-- A result of three-operand FP32 arithmetic in .rne. -/
def fp3 (s : State) (d a b : BitVec 7) (f : Fv → Fv → Fv) : Out :=
  lane3 s d a b (fun x y => toF32 (f (fv32 x) (fv32 y)))

/-- FADD_F32 (R96). -/
def execFaddF32 (d a b : BitVec 7) (s : State) : Out := fp3 (fpOps s 1) d a b (fun x y => Fv.add false x y)

/-- FSUB_F32 (R96). -/
def execFsubF32 (d a b : BitVec 7) (s : State) : Out := fp3 (fpOps s 1) d a b (fun x y => Fv.add false x y.neg)

/-- FMUL_F32 (R96). -/
def execFmulF32 (d a b : BitVec 7) (s : State) : Out := fp3 (fpOps s 1) d a b (fun x y => Fv.mul x y)

/-- FMAC_F32 (R96): d + a × b with one rounding. -/
def execFmacF32 (d a b : BitVec 7) (s : State) : Out := lane3d (fpOps s 2) d a b (fun o x y => fmaF32 x y o)

/-- FMA_F32 (R96): a × d + sK with one rounding. -/
def execFmaF32 (d a : BitVec 7) (k : BitVec 6) (s : State) : Out :=
  laneFixed (fpOps s 2) (fun g l => [(.v d.toNat l, ⟨fmaF32 (g.vv a l) (g.vv d l) (g.sv k), g.vt a l || g.vt d l || g.st k⟩)])

/-- FMA_F32_NEG (R96): −(a × d) + sK with one rounding. -/
def execFmaF32Neg (d a : BitVec 7) (k : BitVec 6) (s : State) : Out :=
  laneFixed (fpOps s 2) (fun g l =>
    [(.v d.toNat l, ⟨toF32 (Fv.add false (Fv.mul (fv32 (g.vv a l)) (fv32 (g.vv d l))).neg (fv32 (g.sv k))),
                     g.vt a l || g.vt d l || g.st k⟩)])

/-- The smaller of two FP32 words (R96): −0 < +0, a NaN loses to a number, two NaNs give the canonical one. -/
def fminW (a b : Word) : Word :=
  let x := fv32 a
  let y := fv32 b
  if x.isNan then (if y.isNan then nan32 else b) else if y.isNan then a
  else if Fv.lt x y then a else if Fv.lt y x then b else a ||| b

/-- The larger of two FP32 words, by the same rules (R96). -/
def fmaxW (a b : Word) : Word :=
  let x := fv32 a
  let y := fv32 b
  if x.isNan then (if y.isNan then nan32 else b) else if y.isNan then a
  else if Fv.lt x y then b else if Fv.lt y x then a else a &&& b

/-- FMIN_F32 (R96). -/
def execFminF32 (d a b : BitVec 7) (s : State) : Out := lane3 s d a b fminW

/-- FMAX_F32 (R96). -/
def execFmaxF32 (d a b : BitVec 7) (s : State) : Out := lane3 s d a b fmaxW

/-- FABS_F32 (R98): bit 31 cleared, a NaN's payload kept. -/
def execFabsF32 (d a : BitVec 7) (s : State) : Out := lane2 s d a (fun x => x &&& 0x7FFFFFFF#32)

/-- FNEG_F32 (R98): bit 31 inverted. -/
def execFnegF32 (d a : BitVec 7) (s : State) : Out := lane2 s d a (fun x => x ^^^ 0x80000000#32)

/-- FCLASS_F32 (R98). -/
def execFclassF32 (d a : BitVec 7) (s : State) : Out := lane2 s d a classF32

/-- A rounding field (R100, R102): 0 .rne, 1 .rz, 2 .ru, 3 .rd, 4 .rna, 5 .rs with its seed and element index (R71). -/
def rndOf (r : Nat) (seed : Word) (idx : Nat) : Rnd :=
  match r with
  | 0 => .rne
  | 1 => .rz
  | 2 => .ru
  | 3 => .rd
  | 4 => .rna
  | _ => .rs (rsBits seed idx)

/-- An FP32 word rounded to an integral value (R98). -/
def frnd (mode : Rnd) (a : Word) : Word :=
  match fv32 a with
  | .nan => nan32
  | .inf _ => a
  | .fin n m e =>
    match Fv.toInt mode (.fin n m e) with
    | some i => if 0 ≤ e then a else BitVec.ofNat 32 (fp32.roundFin .rne n i.natAbs 0)
    | none => a

/-- FRND_F32 (R98). -/
def execFrndF32 (d a : BitVec 7) (r : BitVec 3) (s : State) : Out := lane2 s d a (frnd (rndOf r.toNat 0 0))

/-! ## Packed halves -/

/-- Half h of a word. -/
def half (x : Word) (h : Nat) : Nat := bits x.toNat (16 * h + 15) (16 * h)

/-- Two halves as a word. -/
def halves (lo hi : Nat) : Word := BitVec.ofNat 32 (lo % 65536 + 65536 * (hi % 65536))

/-- A function of values applied to each half in a format, rounded once (R99). -/
def packed2 (f : Fmt) (op : Fv → Fv → Fv) (x y : Word) : Word :=
  let r := fun h => f.round .rne (op (f.decode (half x h)) (f.decode (half y h)))
  halves (r 0) (r 1)

/-- d + a × b in each half, rounded once (R99). -/
def packed3 (f : Fmt) (o x y : Word) : Word :=
  let r := fun h => f.round .rne (Fv.add false (f.decode (half o h)) (Fv.mul (f.decode (half x h)) (f.decode (half y h))))
  halves (r 0) (r 1)

/-- HADD2_BF16 (R99). -/
def execHadd2Bf16 (d a b : BitVec 7) (s : State) : Out := lane3 (fpOps s 2) d a b (packed2 bf16 (fun x y => Fv.add false x y))

/-- HMUL2_BF16 (R99). -/
def execHmul2Bf16 (d a b : BitVec 7) (s : State) : Out := lane3 (fpOps s 2) d a b (packed2 bf16 (fun x y => Fv.mul x y))

/-- HFMA2_BF16 (R99). -/
def execHfma2Bf16 (d a b : BitVec 7) (s : State) : Out := lane3d (fpOps s 4) d a b (packed3 bf16)

/-- HADD2_F16 (R99). -/
def execHadd2F16 (d a b : BitVec 7) (s : State) : Out := lane3 (fpOps s 2) d a b (packed2 fp16 (fun x y => Fv.add false x y))

/-- HMUL2_F16 (R99). -/
def execHmul2F16 (d a b : BitVec 7) (s : State) : Out := lane3 (fpOps s 2) d a b (packed2 fp16 (fun x y => Fv.mul x y))

/-- HFMA2_F16 (R99). -/
def execHfma2F16 (d a b : BitVec 7) (s : State) : Out := lane3d (fpOps s 4) d a b (packed3 fp16)

/-- One of the four E4M3 products of a DOT4 (R101). -/
def dotTerm (x y : Word) (i : Nat) : Fv :=
  Fv.mul (e4m3.decode (bits x.toNat (8 * i + 7) (8 * i))) (e4m3.decode (bits y.toNat (8 * i + 7) (8 * i)))

/-- d plus four E4M3 products, summed exactly and rounded once (R101). -/
def dot4 (o x y : Word) : Word := toF32 ((List.range 4).foldl (fun acc i => Fv.add false acc (dotTerm x y i)) (fv32 o))

/-- DOT4_E4M3 (R101). -/
def execDot4E4m3 (d a b : BitVec 7) (s : State) : Out := lane3d (fpOps s 8) d a b dot4

/-! ## Two-address forms with a rounding mode -/

/-- One operation in a format with a mode and .ftz (R65, R100). -/
def moded (f : Fmt) (r : BitVec 3) (z : BitVec 1) (op : Bool → Fv → Fv → Fv) (x y : Nat) : Nat :=
  let ftz := z == 1#1
  let mode := rndOf r.toNat 0 0
  f.flush ftz (f.round mode (op (decide (mode = .rd)) (f.decode (f.flush ftz x)) (f.decode (f.flush ftz y))))

/-- The FP32 two-address forms: d := d op a (R100). -/
def two32 (s : State) (d a : BitVec 7) (r : BitVec 3) (z : BitVec 1) (op : Bool → Fv → Fv → Fv) : Out :=
  lane2d s d a (fun o x => BitVec.ofNat 32 (moded fp32 r z op o.toNat x.toNat))

/-- The packed two-address forms (R100). -/
def two16 (s : State) (f : Fmt) (d a : BitVec 7) (r : BitVec 3) (z : BitVec 1) (op : Bool → Fv → Fv → Fv) : Out :=
  lane2d s d a (fun o x => halves (moded f r z op (half o 0) (half x 0)) (moded f r z op (half o 1) (half x 1)))

/-- FADD_F32_2A (R100). -/
def execFaddF322a (d a : BitVec 7) (r : BitVec 3) (z : BitVec 1) (s : State) : Out := two32 (fpOps s 1) d a r z (fun n x y => Fv.add n x y)

/-- FSUB_F32_2A (R100): d − a. -/
def execFsubF322a (d a : BitVec 7) (r : BitVec 3) (z : BitVec 1) (s : State) : Out := two32 (fpOps s 1) d a r z (fun n x y => Fv.add n x y.neg)

/-- FMUL_F32_2A (R100). -/
def execFmulF322a (d a : BitVec 7) (r : BitVec 3) (z : BitVec 1) (s : State) : Out := two32 (fpOps s 1) d a r z (fun _ x y => Fv.mul x y)

/-- HADD2_BF16_2A (R100). -/
def execHadd2Bf162a (d a : BitVec 7) (r : BitVec 3) (z : BitVec 1) (s : State) : Out := two16 (fpOps s 2) bf16 d a r z (fun n x y => Fv.add n x y)

/-- HMUL2_BF16_2A (R100). -/
def execHmul2Bf162a (d a : BitVec 7) (r : BitVec 3) (z : BitVec 1) (s : State) : Out := two16 (fpOps s 2) bf16 d a r z (fun _ x y => Fv.mul x y)

/-- HADD2_F16_2A (R100). -/
def execHadd2F162a (d a : BitVec 7) (r : BitVec 3) (z : BitVec 1) (s : State) : Out := two16 (fpOps s 2) fp16 d a r z (fun n x y => Fv.add n x y)

/-- HMUL2_F16_2A (R100). -/
def execHmul2F162a (d a : BitVec 7) (r : BitVec 3) (z : BitVec 1) (s : State) : Out := two16 (fpOps s 2) fp16 d a r z (fun _ x y => Fv.mul x y)

/-! ## Conversions -/

/-- The mode of a conversion for element j of a lane's result; .rs takes its seed from s60 (R71, R103). -/
def cvtMode (g : Group) (r l j : Nat) : Rnd := rndOf r (g.readS 60).val (8 * l + j)

/-- Whether .rs makes the result depend on a tagged s60 (R24, R103; log entry 13). -/
def cvtTag (g : Group) (r : Nat) : Bool := r == 5 && (g.readS 60).tag

/-- A conversion of one source. -/
def cvt1 (s : State) (d a : BitVec 7) (r : Nat) (f : Rnd → Word → Word) : Out :=
  laneFixed s (fun g l => [(.v d.toNat l, ⟨f (cvtMode g r l 0) (g.vv a l), g.vt a l || cvtTag g r⟩)])

/-- A conversion that also reads d. -/
def cvt2 (s : State) (d a : BitVec 7) (r j0 j1 : Nat) (f : Rnd → Rnd → Word → Word → Word) : Out :=
  laneFixed s (fun g l => [(.v d.toNat l,
    ⟨f (cvtMode g r l j0) (cvtMode g r l j1) (g.vv d l) (g.vv a l), g.vt d l || g.vt a l || cvtTag g r⟩)])

/-- FP32 to a float format, in the low bits (R72, R102). -/
def encF (f : Fmt) (mode : Rnd) (x : Word) : Word := BitVec.ofNat 32 (f.round mode (fv32 x))

/-- A float format to FP32, exactly (R102). -/
def decF (f : Fmt) (n : Nat) (x : Word) : Word := toF32 (f.decode (x.toNat % 2 ^ n))

/-- FP32 to an integer between two ends (R72). -/
def encI (lo hi : Int) (mode : Rnd) (x : Word) : Word :=
  match fv32 x with
  | .nan => 0
  | .inf n => BitVec.ofInt 32 (if n then lo else hi)
  | .fin n m e => match Fv.toInt mode (.fin n m e) with | some i => BitVec.ofInt 32 (max lo (min hi i)) | none => 0

/-- An integer to FP32 (R102). -/
def decI (mode : Rnd) (i : Int) : Word := BitVec.ofNat 32 (fp32.roundFin mode (decide (i < 0)) i.natAbs 0)

/-- CVT_ENC_F16 (R102). -/
def execCvtEncF16 (d a : BitVec 7) (r : BitVec 3) (s : State) : Out := cvt1 s d a r.toNat (encF fp16)

/-- CVT_ENC_BF16 (R102). -/
def execCvtEncBf16 (d a : BitVec 7) (r : BitVec 3) (s : State) : Out := cvt1 s d a r.toNat (encF bf16)

/-- CVT_ENC_E4M3 (R102). -/
def execCvtEncE4m3 (d a : BitVec 7) (r : BitVec 3) (s : State) : Out := cvt1 s d a r.toNat (encF e4m3)

/-- CVT_ENC_E5M2 (R102). -/
def execCvtEncE5m2 (d a : BitVec 7) (r : BitVec 3) (s : State) : Out := cvt1 s d a r.toNat (encF e5m2)

/-- CVT_ENC_S32 (R102). -/
def execCvtEncS32 (d a : BitVec 7) (r : BitVec 3) (s : State) : Out := cvt1 s d a r.toNat (encI (-2147483648) 2147483647)

/-- CVT_ENC_N32 (R102). -/
def execCvtEncN32 (d a : BitVec 7) (r : BitVec 3) (s : State) : Out := cvt1 s d a r.toNat (encI 0 4294967295)

/-- CVT_DEC_F16 (R102). -/
def execCvtDecF16 (d a : BitVec 7) (s : State) : Out := lane2 s d a (decF fp16 16)

/-- CVT_DEC_BF16 (R102). -/
def execCvtDecBf16 (d a : BitVec 7) (s : State) : Out := lane2 s d a (decF bf16 16)

/-- CVT_DEC_E4M3 (R102). -/
def execCvtDecE4m3 (d a : BitVec 7) (s : State) : Out := lane2 s d a (decF e4m3 8)

/-- CVT_DEC_E5M2 (R102). -/
def execCvtDecE5m2 (d a : BitVec 7) (s : State) : Out := lane2 s d a (decF e5m2 8)

/-- CVT_DEC_S32 (R102). -/
def execCvtDecS32 (d a : BitVec 7) (r : BitVec 3) (s : State) : Out := cvt1 s d a r.toNat (fun mode x => decI mode x.toInt)

/-- CVT_DEC_N32 (R102). -/
def execCvtDecN32 (d a : BitVec 7) (r : BitVec 3) (s : State) : Out := cvt1 s d a r.toNat (fun mode x => decI mode x.toNat)

/-- Two FP32 sources packed: d's in the low half, a's in the high (R102). -/
def packF (f : Fmt) (m0 m1 : Rnd) (o x : Word) : Word := halves (f.round m0 (fv32 o)) (f.round m1 (fv32 x))

/-- CVT_PK_BF16 (R102). -/
def execCvtPkBf16 (d a : BitVec 7) (r : BitVec 3) (s : State) : Out := cvt2 s d a r.toNat 0 1 (packF bf16)

/-- CVT_PK_F16 (R102). -/
def execCvtPkF16 (d a : BitVec 7) (r : BitVec 3) (s : State) : Out := cvt2 s d a r.toNat 0 1 (packF fp16)

/-- A BF16 pair encoded into bytes 2 and 3 above the old high half (R102). -/
def pack2F (f : Fmt) (m0 m1 : Rnd) (o x : Word) : Word :=
  (o >>> 16) ||| halves 0 (f.round m0 (bf16.decode (half x 0)) + 256 * f.round m1 (bf16.decode (half x 1)))

/-- CVT_PK2_E4M3 (R102). -/
def execCvtPk2E4m3 (d a : BitVec 7) (r : BitVec 3) (s : State) : Out := cvt2 s d a r.toNat 2 3 (pack2F e4m3)

/-- CVT_PK2_E5M2 (R102). -/
def execCvtPk2E5m2 (d a : BitVec 7) (r : BitVec 3) (s : State) : Out := cvt2 s d a r.toNat 2 3 (pack2F e5m2)

/-- The mode of a block conversion: .rne, or .rs when the bit is set (R104). -/
def blkMode (g : Group) (r : BitVec 1) (l j : Nat) : Rnd := cvtMode g (if r = 1#1 then 5 else 0) l j

/-- CVT_BLK_PK (R104): two BF16 halves of va quantised under the scale in va+1 into byte 3 of d. -/
def execCvtBlkPk (d a : BitVec 7) (r : BitVec 1) (s : State) : Out :=
  laneFixed s (fun g l =>
    let sc := (g.readV (a.toNat + 1) l).val
    let x := g.vv a l
    let q := fun h j => quantise sc (blkMode g r l j) (bf16.decode (half x h))
    [(.v d.toNat l, ⟨(g.vv d l >>> 8) ||| (BitVec.ofNat 32 (q 0 6 + 16 * q 1 7) <<< 24),
      g.vt d l || g.vPairT a l || cvtTag g (if r = 1#1 then 5 else 0)⟩)])

/-- CVT_BLK_ENC (R104): the FP32 in va quantised under the scale in va+1 into the top nibble of d. -/
def execCvtBlkEnc (d a : BitVec 7) (r : BitVec 1) (s : State) : Out :=
  laneFixed s (fun g l =>
    let sc := (g.readV (a.toNat + 1) l).val
    [(.v d.toNat l, ⟨(g.vv d l >>> 4) ||| (BitVec.ofNat 32 (quantise sc (blkMode g r l 7) (fv32 (g.vv a l))) <<< 28),
      g.vt d l || g.vPairT a l || cvtTag g (if r = 1#1 then 5 else 0)⟩)])

/-- CVT_BLK_DEC (R104): the two codes of byte k of va under the scale in va+1, as BF16; a bad scale gives 0x7FC0. -/
def execCvtBlkDec (d a : BitVec 7) (k : BitVec 2) (s : State) : Out :=
  laneFixed s (fun g l =>
    let sc := (g.readV (a.toNat + 1) l).val
    let byte := bits (g.vv a l).toNat (8 * k.toNat + 7) (8 * k.toNat)
    let q := fun c => if scaleE sc = 255 then 0x7FC0 else bf16.round .rne (e2m1Val sc c)
    [(.v d.toNat l, ⟨halves (q (byte % 16)) (q (byte / 16)), g.vPairT a l⟩)])

/-- The mantissa sum 256 + M that an exponent E needs for the magnitude m × 2^e over 6 (R105). -/
def bscaleNeed (m : Nat) (e : Int) (ex : Nat) : Nat := ceilDiv (m * 2 ^ (e + 135 - ex).toNat) (6 * 2 ^ (-(e + 135 - ex)).toNat)

/-- BSCALE's scale word, above its low half (R105). -/
def bscaleOf (a : Word) : Word :=
  match fv32 a with
  | .nan => 0xFF000000#32
  | .inf _ => 0xFF000000#32
  | .fin _ m e =>
    if m = 0 then 0
    else match ((List.range 254).map (· + 1)).find? (fun ex => decide (bscaleNeed m e ex ≤ 511)) with
      | some ex => BitVec.ofNat 32 (ex * 2 ^ 24 + (max (bscaleNeed m e ex) 256 - 256) * 2 ^ 16)
      | none => 0xFEFF0000#32

/-- BSCALE (R105). -/
def execBscale (d a : BitVec 7) (s : State) : Out := lane2 s d a bscaleOf

/-- BSCALE_KEEPX (R105): d[15:0] stays. -/
def execBscaleKeepx (d a : BitVec 7) (s : State) : Out := lane2d s d a (fun o x => bscaleOf x ||| (o &&& 0xFFFF#32))

/-! ## The SFU -/

/-- An SFU function of one source (R84, R106). -/
def sfu1 (s : State) (d a : BitVec 7) (f : Word → Word) : Out :=
  laneVariable s (fun _ g l => [(.v d.toNat l, ⟨f (g.vv a l), g.vt a l⟩)])

/-- RCP (R106). -/
def execRcp (d a : BitVec 7) (s : State) : Out := sfu1 s d a sfuRcp

/-- RSQ (R106). -/
def execRsq (d a : BitVec 7) (s : State) : Out := sfu1 s d a sfuRsq

/-- SQRT (R106). -/
def execSqrt (d a : BitVec 7) (s : State) : Out := sfu1 s d a sfuSqrt

/-- EXP2 (R106). -/
def execExp2 (d a : BitVec 7) (s : State) : Out := sfu1 s d a sfuExp2

/-- LOG2 (R106). -/
def execLog2 (d a : BitVec 7) (s : State) : Out := sfu1 s d a sfuLog2

/-- SIN (R106). -/
def execSin (d a : BitVec 7) (s : State) : Out := sfu1 s d a sfuSin

/-- COS (R106). -/
def execCos (d a : BitVec 7) (s : State) : Out := sfu1 s d a sfuCos

/-- SINCOS (R106): sine to vd, cosine to vd+1. -/
def execSincos (d a : BitVec 7) (s : State) : Out :=
  laneVariable s (fun _ g l =>
    [(.v d.toNat l, ⟨sfuSin (g.vv a l), g.vt a l⟩), (.v (d.toNat + 1) l, ⟨sfuCos (g.vv a l), g.vt a l⟩)])

/-- TANH (R106). -/
def execTanh (d a : BitVec 7) (s : State) : Out := sfu1 s d a sfuTanh

end Sys2Proof.Machine
end

