-- ==== Sys2Proof/Machine/LaneCross.lean ====
section
/-! DEFINITION. The cross-lane instructions (R109-R113) and the deep-register moves (R114). -/

namespace Sys2Proof.Machine

/-- A lane's value of a register as another lane reads it: the reader's own when the source lies outside ACTIVE (R83). -/
def crossRead (c : Issue) (g : Group) (a : BitVec 7) (l src : Nat) : Reg :=
  g.readV a.toNat (if src < 32 ∧ (activeMask c g).getLsbD src = true then src else l)

/-- Each lane receives a from a source lane. -/
def exchange (s : State) (d a : BitVec 7) (src : Nat → Nat) : Out :=
  laneVariable s (fun c g l => [(.v d.toNat l, crossRead c g a l (src l))])

/-- QXCH_PAIR (R109): from lane l XOR 1. -/
def execQxchPair (d a : BitVec 7) (s : State) : Out := exchange s d a (fun l => l ^^^ 1)

/-- QXCH_HALF (R109): from lane l XOR 2. -/
def execQxchHalf (d a : BitVec 7) (s : State) : Out := exchange s d a (fun l => l ^^^ 2)

/-- QXCH_DIAG (R109): from lane l XOR 3. -/
def execQxchDiag (d a : BitVec 7) (s : State) : Out := exchange s d a (fun l => l ^^^ 3)

/-- QXCH_BC (R109): from lane k of the quad. -/
def execQxchBc (d a : BitVec 7) (k : BitVec 2) (s : State) : Out := exchange s d a (fun l => l / 4 * 4 + k.toNat)

/-- The operations of QRED (R110). -/
def qredOp (o : Nat) (x y : Word) : Word :=
  match o with
  | 0 => addF32 x y
  | 1 => fmaxW x y
  | 2 => fminW x y
  | 3 => x + y
  | 4 => maxS x y
  | 5 => minS x y
  | 6 => maxN x y
  | _ => minN x y

/-- The identities of QRED (R110). -/
def qredId (o : Nat) : Word :=
  match o with
  | 0 => 0x80000000#32
  | 1 => 0xFF800000#32
  | 2 => 0x7F800000#32
  | 3 => 0
  | 4 => 0x80000000#32
  | 5 => 0x7FFFFFFF#32
  | 6 => 0
  | _ => 0xFFFFFFFF#32

/-- QRED (R110): op(op(w0, w1), op(w2, w3)) of each quad, to every lane of the quad in ACTIVE. -/
def execQred (d a : BitVec 7) (o : BitVec 3) (s : State) : Out :=
  laneVariable s (fun c g l =>
    let w := fun i =>
      let k := l / 4 * 4 + i
      if (activeMask c g).getLsbD k && !(g.lane k).helper then g.readV a.toNat k else reg (qredId o.toNat)
    let op := qredOp o.toNat
    [(.v d.toNat l, ⟨op (op (w 0).val (w 1).val) (op (w 2).val (w 3).val), (w 0).tag || (w 1).tag || (w 2).tag || (w 3).tag⟩)])

/-- SHFL_UP (R111): from lane l − δ. -/
def execShflUp (d a : BitVec 7) (n : BitVec 5) (s : State) : Out :=
  exchange s d a (fun l => if n.toNat ≤ l then l - n.toNat else l)

/-- SHFL_DOWN (R111): from lane l + δ. -/
def execShflDown (d a : BitVec 7) (n : BitVec 5) (s : State) : Out :=
  exchange s d a (fun l => l + n.toNat)

/-- SHFL_XOR (R111): from lane l XOR δ. -/
def execShflXor (d a : BitVec 7) (n : BitVec 5) (s : State) : Out :=
  exchange s d a (fun l => l ^^^ n.toNat)

/-- PERM (R112): from the lane that b[4:0] names. -/
def execPerm (d a b : BitVec 7) (s : State) : Out :=
  laneVariable s (fun c g l =>
    let r := crossRead c g a l ((g.vv b l).toNat % 32)
    [(.v d.toNat l, ⟨r.val, r.tag || g.vt b l⟩)])

/-- Whether candidate j stands before candidate l (R113): NaNs after every number, equal values in lane order. -/
def topkBefore (hi : Bool) (g : Group) (a : BitVec 7) (j l : Nat) : Bool :=
  let x := fv32 (g.vv a j)
  let y := fv32 (g.vv a l)
  if x.isNan then y.isNan && decide (j < l)
  else if y.isNan then true
  else if (if hi then Fv.lt y x else Fv.lt x y) then true
  else if (if hi then Fv.lt x y else Fv.lt y x) then false
  else decide (j < l)

/-- TOPK (R113). -/
def topk (s : State) (hi : Bool) (d a : BitVec 7) (k : BitVec 6) : Out :=
  laneVariable s (fun c g l =>
    let cs := activeReal c g
    let n := min (g.sv k).toNat 32
    let t := g.st k || cs.any (fun j => g.vt a j)
    match (if l < min n cs.length then
        cs.find? (fun j => (cs.filter (fun i => topkBefore hi g a i j)).length == l) else none) with
    | some j => [(.v d.toNat l, ⟨g.vv a j, t⟩), (.v (d.toNat + 1) l, ⟨BitVec.ofNat 32 j, t⟩)]
    | none => [(.v d.toNat l, ⟨inf32 hi, t⟩), (.v (d.toNat + 1) l, ⟨0xFFFFFFFF#32, t⟩)])

/-- TOPK_MAX (R113). -/
def execTopkMax (d a : BitVec 7) (k : BitVec 6) (s : State) : Out := topk s true d a k

/-- TOPK_MIN (R113). -/
def execTopkMin (d a : BitVec 7) (k : BitVec 6) (s : State) : Out := topk s false d a k

/-! ## Deep registers -/

/-- The place of a destination in a result's list. -/
def Pend.find (p : Pend) (d : Dst) : Option Nat := p.dsts.findIdx? (fun x => x == some d)

/-- A deep register as the group's issue order has it (R114): the newest outstanding result for it, or the register; nothing while that
result is still to come. -/
def Group.deepNow (g : Group) (r l : Nat) : Option Reg :=
  match g.pend.reverse.find? (fun p => (p.find (.deep r l)).isSome) with
  | none => some (g.readDeep r l)
  | some p =>
    match p.st, p.find (.deep r l) with
    | .ready vals, some i => some (vals.getD i {})
    | .waiting, _ => none
    | _, _ => some (g.readDeep r l)

/-- VX (R114): the deep register at sK + imm7, a variable-latency result; ADDR when the index is outside the declaration (R20). -/
def execVx (d i : BitVec 7) (k : BitVec 6) (s : State) : Out :=
  withIssue s (fun c g =>
    let n := (g.sv k).toNat + i.toNat
    let ls := activeLanes c g
    if decide (n ≥ g.ndeep) && !ls.isEmpty then .next (groupFault s c cAddr 0)
    else if ls.any (fun l => (g.deepNow n l).isNone) then .next (stall s c .drain)
    else laneVariable s (fun _ g l => let r := (g.deepNow n l).getD {}; [(.v d.toNat l, ⟨r.val, r.tag || g.st k⟩)]))

/-- VXW (R114): the deep register at sK + imm7 takes d. -/
def execVxw (d i : BitVec 7) (k : BitVec 6) (s : State) : Out :=
  withIssue s (fun c g =>
    let n := (g.sv k).toNat + i.toNat
    if decide (n ≥ g.ndeep) && !(activeLanes c g).isEmpty then .next (groupFault s c cAddr 0)
    else laneFixed s (fun g l => [(.deep n l, ⟨g.vv d l, g.vt d l || g.st k⟩)]))

end Sys2Proof.Machine
end

