-- ==== Sys2Proof/Machine/Access.lean ====
section
/-! DEFINITION. The course of a global access: its address, its checks and translation at issue (R151, R154-R157, R167), the
result that waits for it, and its performance at the place it goes to (R246, R247, R330, R349, R365, R438). -/

namespace Sys2Proof.Machine

/-! ## At issue -/

/-- The registers of a destination as a fault record names them (R396). -/
def dstReg : List (Option Dst) → Byte × Byte
  | some (.v r _) :: _ => (BitVec.ofNat 8 r, 0)
  | some (.deep r _) :: _ => (BitVec.ofNat 8 r, 1)
  | some (.s r) :: _ => (BitVec.ofNat 8 r, 2)
  | none :: ds => dstReg ds
  | _ => (0, 3)

/-- The size of an access in bytes. -/
def AccKind.size : AccKind → Nat
  | .load n _ => n
  | .store bs => bs.length
  | .atomic _ wide _ _ _ _ _ => atomSize wide
  | .kv _ _ _ => 4
  | .pref _ => 1

/-- The bytes that an access's request asks for at its address (R337): an LDKV reads a whole map entry there. -/
def AccKind.asked : AccKind → Nat
  | .kv _ _ _ => 16
  | k => k.size

/-- Whether an access returns something, is executed again after a fault, and reads or writes its page (R154, R327). -/
def AccKind.returns : AccKind → Bool
  | .load _ _ => true
  | .atomic _ _ _ _ ret _ _ => ret
  | .kv _ _ _ => true
  | _ => false

def AccKind.needs : AccKind → List Need
  | .store _ => [.write]
  | .atomic .read _ _ _ _ _ _ => [.read]
  | .atomic _ _ _ _ ret _ _ => if ret then [.read, .write] else [.write]
  | _ => [.read]

/-- The data that a fault record keeps of an access (R396). -/
def AccKind.data : AccKind → BitVec 128
  | .store bs => BitVec.ofNat 128 (ofBytes bs)
  | .atomic op wide x y _ _ _ =>
    let n := atomSize wide
    if op = .read then 0
    else if op = .cas then BitVec.ofNat 128 (ofBytes (leBytes n x.toNat ++ leBytes n y.toNat))
    else BitVec.ofNat 128 (ofBytes (leBytes n x.toNat))
  | _ => 0

/-- The fault record of an access (R396); `tr` when it failed at translation. -/
def Access.record (a : Access) (cause : Byte) (tr : Bool) : FaultRec :=
  let (dr, ds) := if a.kind.returns then dstReg a.dsts else (0, 3)
  { cause := cause, kind := 0,
    flags := BitVec.ofNat 8 ((if a.kind.returns then 1 else 2) + 8 * bitOf tr),
    width := BitVec.ofNat 8 a.kind.size, dreg := dr, dspace := ds,
    pc := a.pc, addr := a.va, word := a.word, data := a.kind.data, gen := a.gen, asid := BitVec.ofNat 16 a.asid }

/-- Whether an address is package memory. -/
def inPackage (s : State) (pa : Nat) : Bool := match regionOf s.fit pa with | .package _ _ _ => true | _ => false

/-- The record of an access that stops its group (R396): ADDR is raised before there is an access (log entry 78). -/
def Access.stopped (a : Access) (cause : Byte) (tr : Bool) : FaultRec :=
  if cause = cAddr then { cause := cause, addr := a.va } else a.record cause tr

/-- Translating an access (R327), with the check of another world's memory (R424). -/
def xlNeeds (s : State) (die core ctx : Nat) (ring : BitVec 2) (va : DWord) (ns : List Need) (b : By := {}) : Except AErr Xl × State :=
  match ns with
  | [] => (.error .page, s)
  | [n] =>
    match translate s die core ctx ring n va b with
    | (.error e, s) => (.error e.toA, s)
    | (.ok x, s) => if gangwayOk s die (homeDie s die x.pa) || !(inPackage s x.pa) then (.ok x, s) else (.error .world, s)
  | n :: ns =>
    match translate s die core ctx ring n va b with
    | (.error e, s) => (.error e.toA, s)
    | (.ok _, s) => xlNeeds s die core ctx ring va ns b

/-- An access of a group as its instruction makes it, before translation. -/
def Group.access (s : State) (c : Issue) (g : Group) (batch : Nat) (lane : Option Nat) (va : DWord) (kind : AccKind) (mp : MeetPt)
    (dsts : List Dst) (child : Option Nat) : Access :=
  let x := s.ctx g.die g.ctx
  { id := batch, gid := c.gid, lane := lane, op := none, die := g.die, core := g.core, ctx := g.ctx, ring := g.ring, asid := x.asid,
    gen := s.gen x.asid, va := va, pa := 0, cbit := false, mp := mp, kind := kind, child := child.toList, pend := none,
    dsts := dsts.map some, mask := (match lane with | some l => 1#32 <<< l | none => c.lanes &&& g.nonHelpers), pc := c.pc, word := c.word, published := false, full := false,
    kids := match lane with
      | some l => (g.lane l).child.toList
      | none => (((lanesOf (c.lanes &&& g.nonHelpers)).filter (fun l => laneDet s g l == child)).filterMap (fun l => (g.lane l).child)).dedup }

/-- Whether an access belongs to a helper lane. -/
def Access.byHelper (g : Group) (a : Access) : Bool := match a.lane with | some l => (g.lane l).helper | none => false

/-- An access with its outcome at translation. -/
abbrev Tried := Access × Option AErr

/-- On whose behalf an access is made. -/
def Access.by_ (a : Access) : By := { gid := some a.gid, child := a.child.head? }

/-- Every access of an instruction translated, in order. -/
def tryAll (s : State) (g : Group) : List Access → List Tried → List Tried × State
  | [], acc => (acc.reverse, s)
  | a :: as, acc =>
    match xlNeeds s g.die g.core g.ctx g.ring a.va a.kind.needs a.by_ with
    | (.error e, s) => tryAll s g as ((a, some e) :: acc)
    | (.ok x, s) => tryAll s g as (({ a with pa := x.pa, cbit := x.cbit }, none) :: acc)

/-- The coalescer's one request for each line that the lanes of an instruction touch (R337): its span holds every byte that they ask for there. -/
def coalesce (ts : List Tried) : List Tried :=
  ts.map (fun t =>
    let mine := (ts.filter (fun u => u.2.isNone && lineOf u.1.pa == lineOf t.1.pa)).map (fun u => (u.1.pa % 128, u.1.pa % 128 + u.1.kind.asked))
    let lo := (mine.map (·.1)).foldl min 127
    let hi := (mine.map (·.2)).foldl max 0
    ({ t.1 with span := spanOf lo (hi - lo) }, t.2))

/-- Whether a translation failure stops the whole instruction (R327, R424). -/
def fatalErr : Option AErr → Bool
  | some .protect => true
  | some .world => true
  | _ => false

/-- The zeros that a helper lane's failed access writes (R155). -/
def zeroWrites (ds : List (Option Dst)) : List (Dst × Reg) := ds.filterMap (fun o => o.map (fun d => (d, reg 0)))

/-- A loaded byte list as register values (R159, R160). -/
def formVals (form : LoadForm) (bs : List Byte) : List Word :=
  match form with
  | .words => wordsOf bs
  | .n8 => [BitVec.ofNat 32 (field bs 0 1)]
  | .s8 => [wordOfInt (sfield bs 0 1)]
  | .n16 => [BitVec.ofNat 32 (field bs 0 2)]
  | .s16 => [wordOfInt (sfield bs 0 2)]

/-- A load's register values: a poisoned source gives 0 with the tag set in every destination (R156). -/
def loadRegs (form : LoadForm) (bs : List Byte) (bad : Bool) : List Reg :=
  (formVals form bs).map (fun w => if bad then ⟨0, true⟩ else reg w)

/-- Whether a group has an access of its own in flight to a line, a prefetch apart: a later load is not to pass it (R157, R255). -/
def ownFlight (s : State) (gid line : Nat) : Bool :=
  s.flight.any (fun a => a.gid == gid && a.op.isNone && lineOf a.pa == line && (match a.kind with | .pref _ => false | _ => true))

/-- The bytes of a plain load that L1 serves (R243): not for a C-bit page, not for a deterministic child's view, not while accesses of the group's own
to the line travel (R157, R255), and not in a lost range (R365). -/
def l1Serves (s : State) (a : Access) : Option (List Byte × Bool) :=
  match a.kind, a.mp with
  | .load n _, .plain =>
    if a.cbit || !a.child.isEmpty || ownFlight s a.gid (lineOf a.pa) || placeErr s a.die a.pa == some .lost then none
    else l1Find (s.core a.die a.core) a.asid a.pa n
  | _, _ => none

/-- One translated access enters the memory system: served from L1 at once, dropped where a helper lane's translation failed, or sent off
with its result outstanding. Each plain load sent off counts as an L1 miss (R234; log entry 84). -/
def launchAccess (s : State) (g : Group) (t : Tried) : State × Group :=
  let a := t.1
  let h := a.byHelper g
  match t.2 with
  | some _ =>
    if h && !a.dsts.isEmpty then let (id, s) := s.fresh; (s, g.defer id a.lane (zeroWrites a.dsts) true) else (s, g)
  | none =>
    match l1Serves s a, a.kind with
    | some (bs, bad), .load _ form =>
      let (id, s) := s.fresh
      let s := s.updCore a.die a.core (fun c => l1Touch c a.asid a.pa)
      (s, g.defer id a.lane ((a.dsts.filterMap (fun d => d)).zip (loadRegs form bs bad)) true)
    | _, _ =>
      let s := match a.kind, a.mp with
        | .load _ _, .plain => s.updCore a.die a.core (fun c => l1Miss c (lineOf a.pa))
        | _, _ => s
      if a.dsts.isEmpty then ({ s with flight := s.flight ++ [a] }, g)
      else
        let (id, s) := s.fresh
        let a := { a with pend := some id }
        ({ s with flight := s.flight ++ [a] },
         { g with pend := g.pend ++ [{ id := id, lane := a.lane, dsts := a.dsts, st := .waiting, mem := true, acc := some a, mask := a.mask }] })

/-- A load-type access is kept, to be executed again on resume (R154). -/
def Access.redo (a : Access) : Option Access := if a.kind.returns then some a else none

/-- Accesses that an instruction makes, the checks before translation passed (R154, R167, R327): a failure that stops the group in a lane
that is no helper; else every access that translated goes off, the group retires, and the lanes whose translation failed park. `chk` is the
meeting point's check of a translated address. -/
def goAccess (s : State) (c : Issue) (g : Group) (as : List Access) (chk : Access → Option Byte) : Out :=
  let (ts, s) := tryAll s g as []
  match ts.find? (fun t => fatalErr t.2 && !t.1.byHelper g) with
  | some (a, e) => .next (groupFaultBy s c (a.stopped (match e with | some e => e.cause | none => cProtect) true))
  | none =>
    match ts.find? (fun t => t.2.isNone && (chk t.1).isSome && !t.1.byHelper g) with
    | some (a, _) => .next (groupFaultBy s c (a.stopped ((chk a).getD cAddr) false))
    | none =>
      let ts := coalesce (ts.map (fun t => if t.2.isNone && (chk t.1).isSome then (t.1, some AErr.page) else t))
      let (s, g) := ts.foldl (fun p t => launchAccess p.1 p.2 t) (s, g)
      let s := retire s c g
      .next (ts.foldl (fun s t => match t.2 with
        | some e => if t.1.byHelper g then s else parkLanes s c.gid t.1.mask (t.1.record e.cause true) t.1.redo
        | none => s) s)

/-- Whether the writes of an instruction fit the shadow area, with those held already and those still on their way (R273, R440). -/
def shadowOk (s : State) (g : Group) (as : List Access) : Bool :=
  let mine := as.filter (fun a => !a.child.isEmpty)
  mine.isEmpty || pairsFit s g.die g.ctx (((tryAll s g mine []).1.filter (fun t => t.2.isNone)).flatMap (fun t =>
    t.1.child.flatMap (fun c => (heldLines t.1.heldOps).map (fun l => (c, l)))))

/-- A subscribe of the group that is not yet performed holds its later loads (R169). -/
def subOpen (s : State) (gid : Nat) : Bool :=
  s.flight.any (fun a => a.gid == gid && a.op.isNone && (match a.kind with | .atomic _ _ _ _ _ _ sub => sub | _ => false))

/-! ## At its place -/

/-- What performing an access gives its register: values, or a fault. -/
inductive Served
  | vals (rs : List Reg)
  | fault (e : AErr)
deriving DecidableEq, Repr

/-- Whether an address lies in a lost range of the fabric window, as a die sees it (R365). -/
def lostAt (s : State) (die pa : Nat) : Bool := placeErr s die pa == some .lost

/-- Whether a die reads and writes an address at its home alone (R246). -/
def atHome (s : State) (die pa : Nat) (cbit : Bool) : Bool := isLocal s die pa || cbit

/-- Whether a berth is draining: writes go through to the lender (R351). -/
def draining (s : State) (die pa : Nat) : Bool :=
  match regionOf s.fit pa with | .berth i _ => berthState s die i == 2 | _ => false

/-- Bytes as a plain access reads them at a die's L2 or at the home, and whether their line is poisoned. -/
def plainRead (s : State) (a : Access) (n : Nat) : List Byte × Bool × State :=
  let s := claimLine s a.die a.ctx (a.va.toNat / 128)
  if a.mp = .home || atHome s a.die a.pa a.cbit then
    let s := holdC (writeBackWhere s a.die (fun x => x.line == lineOf a.pa)) a.die a.pa a.cbit false
    let (bad, s) := homeRead s a.die (lineOf a.pa * 128 + a.span.1) a.span.2
    let s := s.carry a.die a.pa n false
    (homeBytes s a.die a.pa n, bad || poisonedLine s a.die a.pa, s)
  else
    let s := l2Fill s a.die a.pa a.span (a.va.toNat / 128) a.asid a.ctx
    let bad := match copyFind s a.die (lineOf a.pa) with | some x => x.poison | none => false
    (l2Bytes s a.die a.pa n, bad || poisonedLine s a.die a.pa, s)

/-- A read made at the home leaves no older bytes of its line behind for the group's later loads (R255): the core's L1 line and what is clean in
the die's copy go. -/
def afterHome (s : State) (die core asid pa : Nat) : State :=
  dropClean (s.updCore die core (fun c => l1Drop c asid (lineOf pa))) die (fun x => x.line == lineOf pa)

/-- A plain load performed (R243, R246, R272): the child's view, the fill of L1, the registers. -/
def serveLoad (s : State) (a : Access) (n : Nat) (form : LoadForm) : Served × State :=
  let (bs, bad, s) := plainRead s a n
  if a.child.isEmpty then
    let s := if a.mp = .home then afterHome s a.die a.core a.asid a.pa
      else if a.cbit then s
      else s.updCore a.die a.core (fun c => l1Fill c a.asid (lineOf a.pa) a.span (l2Bytes s a.die (lineOf a.pa * 128) 128) bad)
    (.vals (loadRegs form bs bad), s)
  else
    let held := heldOf s a.child.head?
    (.vals (loadRegs form (heldView s a.die held a.pa bs) (heldMark held a.pa bad)), s)

/-- A plain store performed (R243, R246, R266, R272, R351). The store that completes a whole line clears its poison mark where the line is (R342). -/
def serveStore (s : State) (a : Access) (bs : List Byte) : State :=
  let vl := a.va.toNat / 128
  match a.child.head? with
  | some k => a.heldOps.foldl (fun s o => addHeld s k o) (noteKids s a.kids vl)
  | none =>
    let s := claimFor (noteKids s a.kids vl) a.die a.ctx vl a.pa
    let s := if atHome s a.die a.pa a.cbit then
        let s := (putHome (holdC s a.die a.pa a.cbit true) a.die a.pa bs).carry a.die a.pa bs.length true
        if a.full then s.clearPoison a.die a.pa else s
      else
        let s := l2Write s a.die a.pa vl a.asid a.ctx bs
        if draining s a.die a.pa then writeBackWhere s a.die (fun x => x.line == lineOf a.pa) else s
    s.updCore a.die a.core (fun c => l1Store c a.asid a.pa bs a.full)

/-- The registers that an atomic's old value fills (R168). -/
def atomRegs (wide : Bool) (old : DWord) : List Reg := if wide then [reg (loHalf old), reg (hiHalf old)] else [reg (loHalf old)]

/-- The old value, and zeros with the tag set, of an atomic that is not performed (R365, R438). -/
def atomBad (wide : Bool) : List Reg := if wide then [⟨0, true⟩, ⟨0, true⟩] else [⟨0, true⟩]

/-- A child's view of a location, for its atomics and its WAITGE (R274): its own value where it has touched the location, else the
executor's. -/
def viewLoc (s : State) (die : Nat) (child : Option Nat) (pa : Nat) (wide : Bool) : DWord × State :=
  let n := atomSize wide
  let s := atExecutor s die pa n
  (BitVec.ofNat 64 (ofBytes (heldView s die (heldOf s child) pa (homeBytes s die pa n))), s)

/-- One lane's atomic performed (R168, R247, R266, R274, R365, R438). -/
def serveAtomic (s : State) (a : Access) (op : AtomOp) (wide : Bool) (x y : DWord) (sub : Bool) : Served × State :=
  let vl := a.va.toNat / 128
  if lostAt s a.die a.pa then (.vals (atomBad wide), s)
  else
    let (lost, s) := homeRead (claimLine s a.die a.ctx vl) a.die (lineOf a.pa * 128 + a.span.1) a.span.2
    if lost || viewMark s a.die a.child.head? a.pa then (.vals (atomBad wide), s)
    else
      let s := s.updCore a.die a.core (fun c => l1Drop c a.asid (lineOf a.pa))
      let (old, s) := match a.child.head? with
        | some k =>
          let (old, s) := viewLoc s a.die (some k) a.pa wide
          (old, if op = .read then s else wakeHeld (a.heldOps.foldl (fun s o => addHeld s k o) (noteKids s a.kids vl)) k a.pa)
        | none =>
          let (old, s) := homeAtomic s a.die a.pa op wide x y
          (old, if op = .read then s else wakeWord (noteKids s a.kids vl) a.die a.pa)
      let s := if sub then consumerHalf s a.die a.core a.asid true else s
      (.vals (atomRegs wide old), s)

/-- An access performed at its place, its checks passed. -/
def serveKind (s : State) (a : Access) : Served × State :=
  match a.kind with
  | .load n form =>
    if lostAt s a.die a.pa then (.vals (loadRegs form (List.replicate n 0) true), s) else serveLoad s a n form
  | .store bs => if lostAt s a.die a.pa then (.vals [], s) else (.vals [], serveStore s a bs)
  | .atomic op wide x y _ _ sub => serveAtomic s a op wide x y sub
  | .kv _ _ _ => (.vals [], s)
  | .pref _ => (.vals [], s)

/-- An access arrives at its place: refused for its generation (R330), its berth or its window, else performed. A berth access that the die's own copy
serves reaches no station (R334). -/
def serve (s : State) (a : Access) : Served × State :=
  if s.gen a.asid ≠ a.gen then (.fault .stale, s)
  else match (if a.mp = .plain then accessErr s a.die a.pa a.kind.size (match a.kind with | .store _ => true | _ => false) else placeErr s a.die a.pa) with
    | some .lost => serveKind s a
    | some e => (.fault e, s)
    | none => serveKind s a

/-- A result comes back to its group (R154, R155, R330): values or a record into the outstanding result; a rejected store leaves
nothing outstanding and is reported by itself (R225). A helper lane's failure reads as zero. -/
def settleServed (s : State) (a : Access) (r : Served) : State :=
  match FMap.get? s.groups a.gid with
  | none => s
  | some g =>
    match r, a.pend with
    | .vals rs, some id =>
      s.putGroup a.gid { g with pend := g.pend.map (fun p => if p.id = id then { p with st := .ready rs } else p) }
    | .fault e, some id =>
      let st : PendSt := if a.byHelper g then .ready (a.dsts.map (fun _ => reg 0)) else .bad (a.record e.cause false)
      s.putGroup a.gid { g with pend := g.pend.map (fun p => if p.id = id then { p with st := st } else p) }
    | .vals _, none => s
    | .fault e, none => s.putGroup a.gid { g with rejects := g.rejects ++ [(a.record e.cause false, a.mask)] }

/-- The accesses that are performed with one: the lanes of the same instruction that name the same location (R168). -/
def batchOf (s : State) (a : Access) : List Access :=
  match a.kind with
  | .atomic _ _ _ _ _ _ _ => s.flight.filter (fun b => b.id == a.id && b.gid == a.gid && b.pa == a.pa)
  | _ => [a]

/-- An access performed and taken out of flight. -/
def finishAccess (s : State) (a : Access) : State :=
  let as := batchOf s a
  let s := { s with flight := s.flight.filter (fun b => !as.contains b) }
  let s := as.foldl (fun s b => let (r, s) := serve s b; settleServed s b r) s
  undrain s a.gid

/-- Whether an access is the first of its group's in flight, or stands behind none but others of its own instruction (R157). -/
def firstOfGroup (s : State) (k : Nat) (a : Access) : Bool :=
  (s.flight.take k).all (fun b => !(b.gid == a.gid && b.op == a.op) ||
    (b.id == a.id && b.pa != a.pa && (match a.kind with | .atomic _ _ _ _ _ _ _ => true | _ => false)))

end Sys2Proof.Machine
end

