-- ==== Sys2Proof/Machine/Image.lean ====
section
/-! DEFINITION. Group records (R387) as bytes, for continuation slots and switch images, and groups read back from them. -/

namespace Sys2Proof.Machine

/-- Bytes followed by zeros up to a length. -/
def padTo (n : Nat) (bs : List Byte) : List Byte := bs.take n ++ List.replicate (n - bs.length) 0

/-- The number that a list of truth values holds, lowest first. -/
def natOfBits : List Bool → Nat
  | [] => 0
  | b :: bs => bitOf b + 2 * natOfBits bs

/-- One byte of a number. -/
def b8 (n : Nat) : Byte := BitVec.ofNat 8 n

/-- A record of a group's length (R387). -/
def glen (nregs ndeep : Nat) : Nat := 4096 * ceilDiv (8192 + 132 * (nregs + ndeep)) 4096

/-- The code of a lane's state (R387). -/
def LaneSt.code : LaneSt → Nat
  | .ready => 0
  | .waiting => 1
  | .parked => 2
  | .stopped => 3
  | .idle => 4
  | .ended => 5

/-- A lane's state from its code; nothing above 5 (R391). -/
def LaneSt.ofCode : Nat → Option LaneSt
  | 0 => some .ready
  | 1 => some .waiting
  | 2 => some .parked
  | 3 => some .stopped
  | 4 => some .idle
  | 5 => some .ended
  | _ => none

/-- %strand as a lane reads it (R27). -/
def Lane.strandWord (x : Lane) : Word := if x.helper then 0xFFFFFFFF#32 else x.strand

/-- The wait of a group as its record keeps it (R387): kind, barrier, token. -/
def Group.waitCode (g : Group) : Nat × Nat × Nat :=
  match g.wait with
  | .barrier clu id tok => (if clu then 2 else 1, id, bitOf tok)
  | _ => (0, 0, 0)

/-- The address of the record of a group's innermost open frame, or 0. -/
def innerFrame (s : State) (g : Group) : DWord :=
  match g.frames with
  | [] => 0
  | f :: _ => (FMap.getD s.frames f {}).addr

/-- Whether a group is free-standing (R212). -/
def Group.free (g : Group) : Bool := match g.kind with | .child => true | .strand => true | _ => false

/-- The values and tags of a bank of lane registers (R387). -/
def regBytes (n : Nat) (rd : Nat → Nat → Reg) : List Byte :=
  ((List.range n).flatMap (fun r => (List.range 32).flatMap (fun l => leBytes 4 (rd r l).val.toNat))) ++
  ((List.range n).flatMap (fun r => leBytes 4 (maskWhere (fun l => (rd r l).tag)).toNat))

/-- A group's record, with the index of its block's record (R387). -/
def groupBytes (s : State) (g : Group) (blk : Nat) : List Byte :=
  let per := fun (n : Nat) (f : Lane → Nat) => g.lanes.flatMap (fun x => leBytes n (f x))
  let (wk, wid, tok) := g.waitCode
  let head := padTo 0x10 [b8 g.grp, b8 blk, b8 (g.nregs / 8), b8 (g.ndeep / 8), b8 g.ldy, b8 g.leader, b8 g.sub, b8 wk, b8 wid, b8 tok,
    b8 (bitOf g.free)]
  let head := padTo 0x40 (head ++ leBytes 8 g.b.toNat ++ leBytes 8 (innerFrame s g).toNat)
  let head := head ++ (List.range 64).flatMap (fun r => leBytes 4 (g.readS r).val.toNat)
  let head := head ++ (List.range 32).map (fun l => b8 (natOfBits ((List.range 8).map (fun n => g.pred n l))))
  let head := padTo 0x168 (head ++ [g.q])
  let head := head ++ leBytes 8 (natOfBits ((List.range 64).map (fun r => (g.readS r).tag)))
  let head := head ++ per 1 (fun x => x.st.code + 128 * bitOf x.helper) ++ per 1 (fun x => x.rstack.length)
  let head := head ++ per 4 (fun x => x.convMask.toNat) ++ per 8 (fun x => 2 ^ x.buf.length - 1)
  let head := padTo 0x400 (head ++ per 4 (fun x => x.strandWord.toNat))
  let head := padTo 0x800 (head ++ per 8 (fun x => x.pc.toNat))
  let head := head ++ g.lanes.flatMap (fun x => x.fault.bytes)
  let head := head ++ g.lanes.flatMap (fun x => padTo 128 (x.rstack.reverse.flatMap (fun a => leBytes 8 a.toNat)))
  padTo (glen g.nregs g.ndeep) (head ++ regBytes g.nregs g.readV ++ regBytes g.ndeep g.readDeep)

/-- A fault record read back (R396). -/
def faultOf (b : List Byte) : FaultRec :=
  { cause := b.getD 0 0, kind := b.getD 1 0, flags := b.getD 2 0, kvst := b.getD 3 0, width := b.getD 4 0, dreg := b.getD 5 0,
    dspace := b.getD 6 0, pc := BitVec.ofNat 64 (field b 8 8), resume := BitVec.ofNat 64 (field b 16 8),
    addr := BitVec.ofNat 64 (field b 24 8), word := BitVec.ofNat 32 (field b 32 4), code := BitVec.ofNat 32 (field b 36 4),
    data := BitVec.ofNat 128 (field b 40 16), asid := BitVec.ofNat 16 (field b 56 2), gen := BitVec.ofNat 16 (field b 58 2) }

/-- A bank of lane registers read back: entries that read zero are left unlisted. -/
def regsOf (b : List Byte) (off n : Nat) : FMap Reg :=
  (List.range n).flatMap (fun r =>
    let tags := field b (off + 128 * n + 4 * r) 4
    (List.range 32).filterMap (fun l =>
      let x : Reg := ⟨BitVec.ofNat 32 (field b (off + 128 * r + 4 * l) 4), bit tags l⟩
      if x = {} then none else some (r * 32 + l, x)))

/-- Control state of a group read from its record (R387): what .gctl loads. Lanes keep what the record does not hold. Nothing when a
field is outside its limits (R391). -/
def loadCtl (g : Group) (b : List Byte) : Option Group :=
  let lane := fun (l : Nat) (x : Lane) =>
    (LaneSt.ofCode (field b (0x170 + l) 1 % 128)).map (fun st =>
      { x with st := st, helper := decide (field b (0x170 + l) 1 ≥ 128), pc := BitVec.ofNat 64 (field b (0x400 + 8 * l) 8),
               strand := BitVec.ofNat 32 (field b (0x330 + 4 * l) 4), convMask := BitVec.ofNat 32 (field b (0x1B0 + 4 * l) 4),
               fault := faultOf (slice b (0x800 + 64 * l) 64), buf := (x.buf.zipIdx.filter (fun e => bit (field b (0x230 + 8 * l) 8) e.2)).map (·.1),
               rstack := ((List.range (field b (0x190 + l) 1)).map
                 (fun i => BitVec.ofNat 64 (field b (0x1000 + 128 * l + 8 * i) 8))).reverse })
  let ls := g.lanes.mapIdx lane
  let wk := field b 7 1
  if ls.any (·.isNone) || decide (wk > 2) || (List.range 32).any (fun l => decide (field b (0x190 + l) 1 > 16)) then none
  else
    some { g with
      lanes := ls.filterMap (fun x => x), ldy := field b 4 1, leader := field b 5 1, sub := field b 6 1,
      wait := (if wk = 0 then .run else .barrier (wk == 2) (field b 8 1) (bit (field b 9 1) 0)), again := none,
      b := BitVec.ofNat 64 (field b 0x10 8),
      s := (List.range 63).filterMap (fun r =>
        let x : Reg := ⟨BitVec.ofNat 32 (field b (0x40 + 4 * r) 4), bit (field b 0x168 8) r⟩
        if x = {} then none else some (r, x)),
      p := (List.range 7).map (fun n => (n, maskWhere (fun l => bit (field b (0x140 + l) 1) n))),
      q := BitVec.ofNat 8 (field b 0x160 1) ||| 0x80#8 }

/-- The lane registers of a group read from its record (R387): what .vreg loads. -/
def loadRegsOf (g : Group) (b : List Byte) : Group :=
  { g with v := (regsOf b 0x2000 g.nregs).filter (fun e => decide (e.1 < 127 * 32)), deep := regsOf b (0x2000 + 132 * g.nregs) g.ndeep }

/-- The whole of a group read from its record. -/
def loadGroup (g : Group) (b : List Byte) : Option Group := (loadCtl g b).map (fun g => loadRegsOf g b)

end Sys2Proof.Machine
end

