-- ==== Sys2Proof/Machine/Frames.lean ====
section
/-! DEFINITION. Frames and children: frame records (R265-R267), opening and closing a frame with its merge (R136, R140, R276, R440), the end
of lanes and children (R134, R135), and the continuation slots (R380). -/

namespace Sys2Proof.Machine

/-! ## Records -/

/-- The bytes of a frame record (R266). -/
def Frame.bytes (f : Frame) : List Byte :=
  padTo 128 (leBytes 8 f.parent.toNat ++ leBytes 4 f.count ++ leBytes 4 f.next ++ leBytes 8 f.cont.toNat ++ leBytes 8 f.save.toNat ++
    [b8 f.depth, b8 (bitOf f.det + 2 * bitOf f.pin + 4 * bitOf f.wsovf + 8 * bitOf f.awaiting)] ++ leBytes 2 f.home ++
    [b8 f.ws.length, 0, 0, 0] ++ f.ws.flatMap (fun o => leBytes 4 o))

/-- A record written to its pool address (R267); a failure is a unit fault of the spawn unit, which holds the group (R441). -/
def spillFrame (s : State) (fid : Nat) : Bool × State :=
  match FMap.get? s.frames fid with
  | none => (true, s)
  | some f =>
    match unitWrite s f.die f.ctx f.addr f.bytes with
    | (.ok _, s) => (true, s)
    | (.error (e, a), s) =>
      let n := s.model.nextId
      let s := raiseUnit s f.die f.ctx 7 (.frame f.gid) e.cause a
      (false, s.updGroup f.gid (fun g => { g with holds := { g.holds with trap := some n } }))

/-- The deterministic child that a group's frames belong to: that of its lowest lane that is no helper (R272, R436; log entry 14). -/
def groupDet (s : State) (g : Group) : Option Nat :=
  match (List.range 32).find? (fun l => !(g.lane l).helper && (g.lane l).child.isSome) with
  | some l => laneDet s g l
  | none => none

/-- Whether a group is pinned to its core (R268). -/
def pinned (s : State) (g : Group) : Bool :=
  let k := (FMap.getD s.blocks g.block {}).kernel
  !g.free && (decide (k.spad > 0) || decide (k.tiles > 0) || decide (k.groups > 1) || decide (k.clu > 1))

/-- A die's live frames, the latest opened first. -/
def liveFrames (s : State) (die : Nat) : List Nat := (namesWhere s.frames (fun _ f => f.die == die)).reverse

/-- The spawn unit holds 4,096 live records on a die; one that finds no place there is spilled (R267; log entry 65): the oldest not yet spilled. -/
def spillOver (s : State) (die : Nat) : State :=
  match (liveFrames s die)[4096]? with
  | some f => (spillFrame s f).2
  | none => s

/-- A frame opened by a group with a record of its root launch (R136, R266). -/
def openFrame (s : State) (gid : Nat) (g : Group) (rec : DWord) : State :=
  let (fid, s) := s.fresh
  let s := s.updLaunch g.launch (fun x => { x with free := x.free.filter (· != rec) })
  let s := s.putFrame fid { addr := rec, gid := gid, die := g.die, ctx := g.ctx, launch := g.launch, parent := innerFrame s g,
                            depth := frameDepth s g + 1, det := (s.ctx g.die g.ctx).determ.getLsbD 0, pin := pinned s g, home := g.core }
  spillOver (s.updGroup gid (fun g => { g with frames := fid :: g.frames })) g.die

/-! ## The merge of a deterministic frame -/

/-- The children of a frame, by spawn index. -/
def frameKids (s : State) (fid : Nat) : List (Nat × Child) :=
  (s.children.filter (fun e => e.2.frame == fid)).foldl (fun acc e =>
    acc.takeWhile (fun x => decide (x.2.index < e.2.index)) ++ [e] ++ acc.dropWhile (fun x => decide (x.2.index < e.2.index))) []

/-- The virtual address that a held write was made at. -/
def HeldOp.va (o : HeldOp) : DWord := BitVec.ofNat 64 (o.vl * 128 + o.pa % 128)

/-- A held write whose generation has passed is translated again before the merge performs it (R330), and the place that it goes to is asked
(R334, R349). -/
def renewOp (s : State) (die ctx : Nat) (ring : BitVec 2) (o : HeldOp) : Except (AErr × DWord) HeldOp × State :=
  let now := s.gen (s.ctx die ctx).asid
  match (if o.gen = now then (.ok ⟨o.pa, o.cbit⟩, s) else translate s die noCore ctx ring .write o.va) with
  | (.error e, s) => (.error (e.toA, o.va), s)
  | (.ok x, s) =>
    match placeErr s die x.pa with
    | some .lost => (.ok { o with pa := x.pa, gen := now, cbit := x.cbit }, s)
    | some e => (.error (e, o.va), s)
    | none => (.ok { o with pa := x.pa, gen := now, cbit := x.cbit }, s)

/-- All of them, in order; the first that fails says why. -/
def renewOps (s : State) (die ctx : Nat) (ring : BitVec 2) : List HeldOp → List HeldOp → Except (AErr × DWord) (List HeldOp) × State
  | [], acc => (.ok acc.reverse, s)
  | o :: os, acc =>
    match renewOp s die ctx ring o with
    | (.error e, s) => (.error e, s)
    | (.ok o, s) => renewOps s die ctx ring os (o :: acc)

/-- One held write performed for everyone (R276): at the home, the objects' ownership resolved before. -/
def mergeOp (s : State) (die core ctx : Nat) (o : HeldOp) : State :=
  let s := claimFor s die ctx o.vl o.pa
  match o.act with
  | .store bs m =>
    let s := (putHome (holdC s die o.pa o.cbit true) die o.pa bs).carry die o.pa bs.length true
    match m with
    | some true => s.setPoison die o.pa
    | some false => s.clearPoison die o.pa
    | none => s
  | .atomic op wide x y =>
    if (placeErr s die o.pa).isSome || poisonedLine s die o.pa then s
    else
      let s := s.updCore die core (fun c => l1Drop c (s.ctx die ctx).asid (lineOf o.pa))
      (homeAtomic s die o.pa op wide x y).2

/-- The atomics of a merge have reached their words, once all of it is performed (R145, R276): for everyone, or in an enclosing child's view. -/
def wakeOps (s : State) (die : Nat) (k : Option Nat) (ops : List HeldOp) : State :=
  ops.foldl (fun s o => match o.act, k with
    | .store _ _, _ => s
    | .atomic _ _ _ _, some k => wakeHeld s k o.pa
    | .atomic _ _ _ _, none => wakeWord s die o.pa) s

/-- How a merge ends: performed; no room in the enclosing child's held set (R440); a held write whose address no longer translates (R330). -/
inductive Merged
  | done (s : State)
  | full
  | failed (e : AErr) (va : DWord) (s : State)

/-- The merge of a frame (R276): every child's writes, by spawn index and in issue order, so that each byte ends with its highest writer's and
each location with every atomic applied; into the enclosing child's held set where there is one, unless they do not fit it (R440). -/
def mergeFrame (s : State) (g : Group) (fid : Nat) : Merged :=
  match renewOps s g.die g.ctx g.ring ((frameKids s fid).flatMap (fun e => e.2.held)) [] with
  | (.error (e, va), s) => .failed e va s
  | (.ok ops, s) =>
    match (groupDet s g).bind (fun k => (FMap.get? s.children k).map (fun c => (k, c))) with
    | none => .done (wakeOps (ops.foldl (fun s o => mergeOp s g.die g.core g.ctx o) s) g.die none ops)
    | some (k, ch) => if heldFits s k ch ops then .done (wakeOps (ops.foldl (fun s o => addHeld s k o) s) g.die (some k) ops) else .full

/-- How closing a frame ends: closed; not merged, with the cause and the address (R330, R440); its record's write held (R441). -/
inductive Closed
  | done (s : State)
  | refused (cause : Byte) (va : DWord) (s : State)
  | held (s : State)

/-- A frame whose count is 0 closes (R136, R140, R265, R276): the merge, the record's copy in memory, the record's return to its launch. -/
def closeFrame (s : State) (gid : Nat) (g : Group) (fid : Nat) : Closed :=
  match mergeFrame s g fid with
  | .full => .refused cAddr 0 s
  | .failed e va s => .refused e.cause va s
  | .done m =>
    match spillFrame (m.updFrame fid (fun f => { f with cont := 0, save := 0, awaiting := false })) fid with
    | (false, _) =>
      match spillFrame s fid with
      | (_, s) => .held s
    | (true, s) =>
      let f := FMap.getD s.frames fid {}
      let s := s.updLaunch f.launch (fun x => { x with free := x.free ++ [f.addr] })
      let s := { s with frames := FMap.erase s.frames fid, children := s.children.filter (fun e => e.2.frame != fid) }
      let s := s.updGroup gid (fun g => { g with frames := g.frames.filter (· != fid) })
      let s := s.updCore g.die g.core (fun c => l1Self c (s.ctx g.die g.ctx).asid)
      .done (wakeWhere s (fun _ h => h.launch == f.launch && (h.wait == .pool || h.wait == .childRoom)))

/-! ## The end of lanes and children -/

/-- A child's end event (R140): its frame's count falls. A deterministic child's held writes stay for the merge. -/
def endChild (s : State) (cid : Nat) : State :=
  match FMap.get? s.children cid with
  | none => s
  | some c =>
    let s := s.updFrame c.frame (fun f => { f with count := f.count - 1 })
    if c.det then s.updChild cid (fun c => { c with st := .ended }) else { s with children := FMap.erase s.children cid }

/-- The end events of lanes (R134): in a strand group each one that is no helper ends its strand. -/
def endLanesNow (s : State) (gid : Nat) (mask : Word) : State :=
  match FMap.get? s.groups gid with
  | none => s
  | some g =>
    let ended := (lanesOf mask).filter (fun l => (g.lane l).st != .ended)
    let g' := (g.updLanes mask (fun _ x => { x with st := .ended, convMask := 0 })).idleHelpers.convSettle
    let s := s.putGroup gid g'
    if g.kind = .strand then
      (ended.filter (fun l => !(g.lane l).helper)).foldl (fun s l => match (g.lane l).child with | some c => endChild s c | none => s) s
    else s

/-- Lanes end as by EXIT: at once when the group has no open frame and no outstanding operation, else they stop until it has neither
(R134). A strand's end follows its stores (R258), so lanes stop too while the group has accesses in flight. -/
def exitLanes (s : State) (gid : Nat) (mask : Word) : State :=
  match FMap.get? s.groups gid with
  | none => s
  | some g =>
    if g.frames.isEmpty && !opsOpen s g && !inFlight s gid then endLanesNow s gid mask
    else
      s.putGroup gid (g.updLanes mask (fun _ x =>
        { x with st := if x.st = .ended then .ended else .stopped, convMask := 0 })).idleHelpers.convSettle

/-- Whether lanes of a group have stopped whose end events are due (R134). -/
def endsOwed (s : State) (g : Group) : Bool :=
  g.frames.isEmpty && !opsOpen s g && (List.range 32).any (fun l => (g.lane l).st == .stopped)

/-- The end events of lanes that have stopped come about, a group having neither a frame nor an operation open, before it opens another (R134). -/
def flushEnds (s : State) (gid : Nat) : State :=
  match FMap.get? s.groups gid with
  | none => s
  | some g =>
    if endsOwed s g then
      endLanesNow s gid (maskWhere (fun l => (g.lane l).st == .stopped))
    else s

/-! ## Continuation slots -/

/-- The continuation slots of a context on a die (R380). -/
def contCount (x : Ctx) : Nat := bits x.savebase.toNat 7 0 * 2 ^ 20 / 49152

/-- The address of a slot (R380). -/
def contAddr (x : Ctx) (k : Nat) : DWord := (x.savebase &&& ~~~0xFFFFF#64) + BitVec.ofNat 64 (49152 * k)

/-- The lowest slot that overlaps no slot in use. -/
def freeCont (x : Ctx) : Option DWord :=
  ((List.range (contCount x)).map (contAddr x)).find? (fun a =>
    x.contSlots.all (fun b => decide ((a - b).toNat ≥ 49152) && decide ((b - a).toNat ≥ 49152)))

/-- When a context has no block left on a core, the core's slips are emptied (R278); a CTXLD.place that waits for cores looks again (R391). -/
def leaveCore (s : State) (die core ctx : Nat) : State :=
  if anyIn s.blocks (fun _ b => b.die == die && b.core == core && b.ctx == ctx && !b.handler) then s
  else
    let s := s.updCore die core (fun c => { c with slipA := {}, slipB := {} })
    wakeWhere s (fun _ g => g.die == die && g.wait == .ctxForm)

/-- A group parked at its AWAIT is saved into the lowest free slot and leaves its place (R140, R380); with none free, while a result or a rejection is
outstanding (R229), or while the slot's write is held, it waits in place. -/
def parkAwait (s : State) (gid : Nat) : State :=
  match FMap.get? s.groups gid with
  | none => s
  | some g =>
    let x := s.ctx g.die g.ctx
    let stay := fun (s : State) => s.updGroup gid (fun g => { g with wait := .awaitPlace })
    match (if g.pend.isEmpty && g.rejects.isEmpty && !inFlight s gid && !unitHeld s g.die g.ctx (.slot gid) then freeCont x else none) with
    | none => stay s
    | some k =>
      match unitWrite s g.die g.ctx k (groupBytes s g 0) with
      | (.error (e, a), s) => raiseUnit (stay s) g.die g.ctx 7 (.slot gid) e.cause a
      | (.ok _, s) =>
        let s := s.updCtx g.die g.ctx (fun x => { x with contSlots := k :: x.contSlots })
        let s := match g.frames with
          | f :: _ => s.updFrame f (fun f => { f with save := k })
          | [] => s
        let s := s.updGroup gid (fun g => { g with wait := .await, loc := .cont k, active := false })
        if pinned s g then s else leaveCore (s.updBlock g.block (fun b => { b with core := 65535 })) g.die g.core g.ctx

end Sys2Proof.Machine
end

