-- ==== Sys2Proof/Machine/Tiles.lean ====
section
/-! DEFINITION. Accumulator tiles: applying a K-block, reading out and writing in (R75, R79, R80). -/

namespace Sys2Proof.Machine

/-- x / 2^k rounded to the nearest whole number, ties to even; x × 2^(−k) when k is negative. -/
def rintShift (x : Int) (k : Int) : Int :=
  if k ≤ 0 then x * 2 ^ (-k).toNat
  else
    let d : Int := 2 ^ k.toNat
    let q := x / d
    let r := x % d
    if 2 * r > d ∨ (2 * r = d ∧ q % 2 = 1) then q + 1 else q

/-- A contribution to one element: sig × 2^ce. -/
structure Contrib where
  sig : Int
  ce : Int
deriving DecidableEq, Repr

/-- The place of the leading one bit of a contribution (R75). -/
def Contrib.lead (c : Contrib) : Int := (Nat.log2 c.sig.natAbs : Int) + c.ce

/-- The elements of a tile after an update with shift k: nothing when one of them reaches 2^47 (R75). -/
def tileTry (m : FMap Int) (e k : Int) (cs : FMap Contrib) : Option (FMap Int) :=
  let ms : FMap Int := m.map (fun x => (x.1, rintShift x.2 k))
  let out := cs.foldl (fun (acc : FMap Int) x =>
    FMap.put acc x.1 (FMap.getD acc x.1 0 + rintShift x.2.sig (e + k - x.2.ce))) ms
  if out.all (fun x => decide (x.2.natAbs < 2 ^ 47)) then some (out.filter (fun x => x.2 != 0)) else none

/-- The least shift from k on that keeps every element below 2^47, and the elements, among the next n + 1. -/
def tileFit (m : FMap Int) (e : Int) (cs : FMap Contrib) : Nat → Nat → Nat × FMap Int
  | 0, k => (k, m)
  | n + 1, k => match tileTry m e (k : Int) cs with | some out => (k, out) | none => tileFit m e cs n (k + 1)

/-- A K-block applied to a tile (R75): contributions by element, zeros left out; tiles list their non-zero mantissas. A shift of one more than the
highest leading place of a contribution above the tile's exponent fits every element, so that the search always ends at R75's k. -/
def applyKblock (t : Tile) (cs : FMap Contrib) : Tile :=
  let cs := cs.filter (fun x => x.2.sig != 0)
  if cs.isEmpty && t.elems.isEmpty then t
  else
    let e := if t.elems.isEmpty then ((cs.map (fun x => x.2.lead - 45)).foldl max (-1000000)) else t.exp
    let (k, m) := tileFit t.elems e cs (((cs.map (fun x => x.2.lead - e)).foldl max 0).toNat + 64) 0
    { t with elems := m, exp := e + k }

/-- Reading out (R79): formats 0 FP32, 1 BF16, 2 FP16, 3 E4M3. -/
def accTo (t : Tile) (i : Nat) (fmt : Nat) (mode : Rnd) : Word :=
  let f := match fmt with | 0 => fp32 | 1 => bf16 | 2 => fp16 | _ => e4m3
  let m := FMap.getD t.elems i 0
  if m = 0 then 0 else BitVec.ofNat 32 (f.roundFin mode (decide (m < 0)) m.natAbs t.exp)

/-- Writing in (R80): the old mantissa goes, then the value enters as a K-block of one contribution. -/
def accFrom (t : Tile) (i : Nat) (v : Word) : Tile :=
  let t := { t with elems := FMap.erase t.elems i }
  match fv32 v with
  | .fin n m e => applyKblock t [(i, ⟨if n then -(m : Int) else (m : Int), e⟩)]
  | _ => t

end Sys2Proof.Machine
end

