-- ==== Sys2Proof/Machine/Uniform.lean ====
section
/-! DEFINITION. The uniform scalar instructions (R119-R126): each writes its destination once an issue, tagged when a source is (R24). -/

namespace Sys2Proof.Machine

/-- d := f(a, b). -/
def uni3 (s : State) (d a b : BitVec 6) (f : Word → Word → Word) : Out :=
  uniFixed s (fun g => [(.s d.toNat, ⟨f (g.sv a) (g.sv b), g.st a || g.st b⟩)])

/-- d:d+1 := f(a:a+1, b:b+1). -/
def uni64 (s : State) (d a b : BitVec 6) (f : DWord → DWord → DWord) : Out :=
  uniFixed s (fun g => spairWrites d.toNat (f (g.sPair a) (g.sPair b)) (g.sPairT a || g.sPairT b))

/-- A 64-bit shift by the low word of b's pair (R120). -/
def uniShift64 (s : State) (d a b : BitVec 6) (f : DWord → Nat → DWord) : Out :=
  uniFixed s (fun g => spairWrites d.toNat (f (g.sPair a) (g.sv b).toNat) (g.sPairT a || g.st b))

/-- d := f(a). -/
def uni2 (s : State) (d a : BitVec 6) (f : Word → Word) : Out :=
  uniFixed s (fun g => [(.s d.toNat, ⟨f (g.sv a), g.st a⟩)])

/-- d := f(d). -/
def uniSelf (s : State) (d : BitVec 6) (f : Word → Word) : Out :=
  uniFixed s (fun g => [(.s d.toNat, ⟨f (g.sv d), g.st d⟩)])

/-- The first tagged register of a list raises POISON; with none the instruction goes on (R118, R411). -/
def orPoison (s : State) (c : Issue) (g : Group) (rs : List Nat) (k : Out) : Out :=
  match rs.find? (fun r => (g.readS r).tag) with
  | some r => .next (poisonFault s c c.lanes r 2)
  | none => k

/-- The two registers of a uniform pair. -/
def pairRegs (a : BitVec 6) : List Nat := [a.toNat, a.toNat + 1]

/-- SADD (R119): a + b modulo 2^32. -/
def execSadd (d a b : BitVec 6) (s : State) : Out := uni3 s d a b (fun x y => x + y)

/-- SSUB (R119): a − b. -/
def execSsub (d a b : BitVec 6) (s : State) : Out := uni3 s d a b (fun x y => x - y)

/-- SAND (R119). -/
def execSand (d a b : BitVec 6) (s : State) : Out := uni3 s d a b (fun x y => x &&& y)

/-- SOR (R119). -/
def execSor (d a b : BitVec 6) (s : State) : Out := uni3 s d a b (fun x y => x ||| y)

/-- SXOR (R119). -/
def execSxor (d a b : BitVec 6) (s : State) : Out := uni3 s d a b (fun x y => x ^^^ y)

/-- SSHL (R119): 0 from 32 on. -/
def execSshl (d a b : BitVec 6) (s : State) : Out := uni3 s d a b (fun x y => shlW x y.toNat)

/-- SSHR_N32 (R119): zero-filled. -/
def execSshrN32 (d a b : BitVec 6) (s : State) : Out := uni3 s d a b (fun x y => shrN x y.toNat)

/-- SSHR_S32 (R119): sign-filled. -/
def execSshrS32 (d a b : BitVec 6) (s : State) : Out := uni3 s d a b (fun x y => shrS x y.toNat)

/-- SMUL (R119): the low half of the product. -/
def execSmul (d a b : BitVec 6) (s : State) : Out := uni3 s d a b (fun x y => x * y)

/-- SMULH_S32 (R119): the high half of the signed product. -/
def execSmulhS32 (d a b : BitVec 6) (s : State) : Out := uni3 s d a b mulHighS

/-- SMULH_N32 (R119): the high half of the unsigned product. -/
def execSmulhN32 (d a b : BitVec 6) (s : State) : Out := uni3 s d a b mulHighN

/-- SMIN_S32 (R119). -/
def execSminS32 (d a b : BitVec 6) (s : State) : Out := uni3 s d a b (fun x y => minS x y)

/-- SMAX_S32 (R119). -/
def execSmaxS32 (d a b : BitVec 6) (s : State) : Out := uni3 s d a b (fun x y => maxS x y)

/-- SMIN_N32 (R119). -/
def execSminN32 (d a b : BitVec 6) (s : State) : Out := uni3 s d a b (fun x y => minN x y)

/-- SMAX_N32 (R119). -/
def execSmaxN32 (d a b : BitVec 6) (s : State) : Out := uni3 s d a b (fun x y => maxN x y)

/-- SROT (R119): a rotated left by b[4:0]. -/
def execSrot (d a b : BitVec 6) (s : State) : Out := uni3 s d a b (fun x y => x.rotateLeft (y.toNat % 32))

/-- SADD_B64 (R120). -/
def execSaddB64 (d a b : BitVec 6) (s : State) : Out := uni64 s d a b (fun x y => x + y)

/-- SSUB_B64 (R120). -/
def execSsubB64 (d a b : BitVec 6) (s : State) : Out := uni64 s d a b (fun x y => x - y)

/-- SAND_B64 (R120). -/
def execSandB64 (d a b : BitVec 6) (s : State) : Out := uni64 s d a b (fun x y => x &&& y)

/-- SOR_B64 (R120). -/
def execSorB64 (d a b : BitVec 6) (s : State) : Out := uni64 s d a b (fun x y => x ||| y)

/-- SXOR_B64 (R120). -/
def execSxorB64 (d a b : BitVec 6) (s : State) : Out := uni64 s d a b (fun x y => x ^^^ y)

/-- SSHL_B64 (R120). -/
def execSshlB64 (d a b : BitVec 6) (s : State) : Out := uniShift64 s d a b (fun x n => shlW x n)

/-- SSHR_N64 (R120). -/
def execSshrN64 (d a b : BitVec 6) (s : State) : Out := uniShift64 s d a b (fun x n => shrN x n)

/-- SSHR_S64 (R120). -/
def execSshrS64 (d a b : BitVec 6) (s : State) : Out := uniShift64 s d a b (fun x n => shrS x n)

/-- SMOV (R121). -/
def execSmov (d a : BitVec 6) (s : State) : Out := uni2 s d a (fun x => x)

/-- SNOT (R121). -/
def execSnot (d a : BitVec 6) (s : State) : Out := uni2 s d a (fun x => ~~~x)

/-- SPOPC (R121). -/
def execSpopc (d a : BitVec 6) (s : State) : Out := uni2 s d a (fun x => BitVec.ofNat 32 (popCount x))

/-- SCLZ (R121). -/
def execSclz (d a : BitVec 6) (s : State) : Out := uni2 s d a (fun x => BitVec.ofNat 32 (leadingZeros x))

/-- SBREV (R121). -/
def execSbrev (d a : BitVec 6) (s : State) : Out := uni2 s d a bitReverse

/-- SBFE_N32 (R121): bit 16 of sb is not read. -/
def execSbfeN32 (d a b : BitVec 6) (s : State) : Out := uni3 s d a b (fun x y => bfe x y false)

/-- SBFE_S32 (R121). -/
def execSbfeS32 (d a b : BitVec 6) (s : State) : Out := uni3 s d a b (fun x y => bfe x y true)

/-- SBFI (R121): into the old d. -/
def execSbfi (d a b : BitVec 6) (s : State) : Out :=
  uniFixed s (fun g => [(.s d.toNat, ⟨bfi (g.sv d) (g.sv a) (g.sv b), g.st d || g.st a || g.st b⟩)])

/-- SSET (R122): POISON from a tagged source (R118). -/
def execSset (e : BitVec 3) (a b : BitVec 6) (k : BitVec 3) (s : State) : Out :=
  uniform s (fun c g => orPoison s c g [a.toNat, b.toNat]
    (.next (retire s c (g.write [(.q e.toNat, preg (cmpUni k (g.sv a) (g.sv b)))]))))

/-- SSEL (R123): with the tag of the source it selects (R118). -/
def execSsel (d a b : BitVec 6) (n : BitVec 3) (s : State) : Out :=
  uniFixed s (fun g => [(.s d.toNat, if g.qpred n.toNat then g.readS a.toNat else g.readS b.toNat)])

/-- SADDI (R124): d + sext(imm15). -/
def execSaddi (d : BitVec 6) (i : BitVec 15) (s : State) : Out := uniSelf s d (fun x => x + i.signExtend 32)

/-- SMOVI (R124): sext(imm15). -/
def execSmovi (d : BitVec 6) (i : BitVec 15) (s : State) : Out := uniFixed s (fun _ => [(.s d.toNat, reg (i.signExtend 32))])

/-- SANDI (R124): d AND zext(imm15). -/
def execSandi (d : BitVec 6) (i : BitVec 15) (s : State) : Out := uniSelf s d (fun x => x &&& i.setWidth 32)

/-- SORI (R124). -/
def execSori (d : BitVec 6) (i : BitVec 15) (s : State) : Out := uniSelf s d (fun x => x ||| i.setWidth 32)

/-- SXORI (R124). -/
def execSxori (d : BitVec 6) (i : BitVec 15) (s : State) : Out := uniSelf s d (fun x => x ^^^ i.setWidth 32)

/-- SLIT (R45, R48): the literal. -/
def execSlit (d : BitVec 6) (lit : Word) (s : State) : Out := uniFixed s (fun _ => [(.s d.toNat, reg lit)])

/-- SLIT_ADD (R48). -/
def execSlitAdd (d : BitVec 6) (lit : Word) (s : State) : Out := uniSelf s d (fun x => x + lit)

/-- SLIT_AND (R48). -/
def execSlitAnd (d : BitVec 6) (lit : Word) (s : State) : Out := uniSelf s d (fun x => x &&& lit)

/-- SLIT_OR (R48). -/
def execSlitOr (d : BitVec 6) (lit : Word) (s : State) : Out := uniSelf s d (fun x => x ||| lit)

/-- SLIT_XOR (R48). -/
def execSlitXor (d : BitVec 6) (lit : Word) (s : State) : Out := uniSelf s d (fun x => x ^^^ lit)

/-- SREG (R125): a special value of the group, read at issue. -/
def execSreg (d i : BitVec 6) (s : State) : Out := uniFixed s (fun g => [(.s d.toNat, reg (special s g i.toNat 0))])

/-- QLOP (R126). -/
def execQlop (e f h : BitVec 3) (t : BitVec 4) (s : State) : Out :=
  uniFixed s (fun g => [(.q e.toNat, preg (lutBit t (g.qpred f.toNat) (g.qpred h.toNat)))])

end Sys2Proof.Machine
end

