-- ==== Sys2Proof/Machine/MemInstr.lean ====
section
/-! DEFINITION. The lane memory instructions of majors 0x34-0x3E and the uniform ones of 0x28-0x2B (R151-R171). -/

namespace Sys2Proof.Machine

/-! ## Shared checks -/

/-- A register that an address or datum is formed from: its number, its space, and its tag in a lane (R156, R411). -/
structure TagReg where
  reg : Nat
  space : Nat
  tag : Nat → Bool

/-- The POISON of an instruction whose address or data registers are tagged in a lane that is no helper: the lanes, the register that is
named first (R156, R411). -/
def poisonOf (ls : List Nat) (rs : List TagReg) : Option (Word × Nat × Nat) :=
  match rs.find? (fun r => ls.any r.tag) with
  | some r => some (maskOf (ls.filter (fun l => rs.any (fun r => r.tag l))), r.reg, r.space)
  | none => none

/-- A uniform pair, a lane register, several lane registers, as what an address is formed from. -/
def tagPair (g : Group) (k : Nat) : List TagReg :=
  [⟨k, 2, fun _ => (g.readS k).tag⟩, ⟨k + 1, 2, fun _ => (g.readS (k + 1)).tag⟩]
def tagS (g : Group) (k : Nat) : List TagReg := [⟨k, 2, fun _ => (g.readS k).tag⟩]
def tagV (g : Group) (r n : Nat) : List TagReg :=
  (List.range n).map (fun i => ⟨r + i, 0, fun l => (g.readV (r + i) l).tag⟩)

/-- An address breaks R151: not canonical, or not a multiple of the size. -/
def addrBad (va : DWord) (size : Nat) : Bool := !(canonical va) || va.toNat % size != 0

/-- The address of an LM or LMX form in a lane (R151). -/
def lmAddr (g : Group) (k : Nat) (a : BitVec 7) (l : Nat) : DWord := g.sPairN k + (g.vv a l).signExtend 64

/-- The lane register destinations of n words. -/
def vDsts (d n l : Nat) : List Dst := (List.range n).map (fun i => .v (d + i) l)

/-- The bytes that n registers hold in a lane. -/
def vBytes (g : Group) (d n l : Nat) : List Byte := bytesOf ((List.range n).map (fun i => (g.readV (d + i) l).val))

/-- What the lanes of a global memory instruction do. -/
structure LaneAcc where
  tags : List TagReg
  addr : Nat → DWord
  size : Nat
  kind : Nat → AccKind
  mp : MeetPt
  dsts : Nat → List Dst
  helpers : Bool

/-- The store that ends each line that the lanes of one instruction cover whole (R342). -/
def markFull (as : List Access) : List Access :=
  let line := fun (a : Access) => lineOf a.va.toNat
  as.mapIdx (fun i a =>
    let mine := as.filter (fun b => line b == line a)
    let offs := (mine.flatMap (fun b => (List.range b.kind.size).map (fun k => b.va.toNat % 128 + k))).dedup
    { a with full := decide (offs.length = 128) && !(as.drop (i + 1)).any (fun b => line b == line a) })

/-- A global lane memory instruction (R151, R154-R157, R169): it waits for an open subscribe when it loads; POISON and ADDR concern the lanes
that are no helpers; a helper lane with a bad address reads zeros. -/
def laneGlobal (s : State) (f : Group → LaneAcc) (chk : State → Access → Option Byte) : Out :=
  withIssue s (fun c g =>
    let m := f g
    let real := activeReal c g
    let ls := if m.helpers then activeLanes c g else real
    if m.helpers && subOpen s c.gid then .next (stall s c .drain)
    else
      match poisonOf real m.tags with
      | some (mask, r, sp) => .next (poisonFault s c mask r sp)
      | none =>
        match real.find? (fun l => addrBad (m.addr l) m.size) with
        | some l => .next (groupFault s c cAddr (m.addr l))
        | none =>
          let (bad, ok) := ls.partition (fun l => addrBad (m.addr l) m.size)
          let (batch, s) := s.fresh
          let as := ok.map (fun l => g.access s c batch (some l) (m.addr l) (m.kind l) m.mp (m.dsts l) (laneDet s g l))
          let as := if m.helpers then as else markFull as
          if shadowOk s g as then
            let (s, g) := bad.foldl (fun p l =>
              let (id, s) := p.1.fresh
              (s, p.2.defer id (some l) (zeroWrites ((m.dsts l).map some)) true)) (s, g)
            goAccess s c g as (chk s)
          else .next (groupFault s c cAddr ((as.head?.map (·.va)).getD 0)))

/-- No check of a meeting point. -/
def noCheck (_ : State) (_ : Access) : Option Byte := none

/-! ## Global loads and stores -/

/-- A load of n bytes in a form into words of d (R159, R160). -/
def loadG (s : State) (d a : BitVec 7) (k n : Nat) (form : LoadForm) : Out :=
  laneGlobal s (fun g => { tags := tagPair g k ++ tagV g a.toNat 1, addr := lmAddr g k a, size := n, kind := fun _ => .load n form,
                           mp := .plain, dsts := fun l => vDsts d.toNat (max (n / 4) 1) l, helpers := true }) noCheck

/-- A store of the low n bytes of d's words (R159, R160). -/
def storeG (s : State) (d a : BitVec 7) (k n : Nat) : Out :=
  laneGlobal s (fun g => { tags := tagPair g k ++ tagV g a.toNat 1 ++ tagV g d.toNat (max (n / 4) 1), addr := lmAddr g k a, size := n,
                           kind := fun l => .store ((vBytes g d.toNat (max (n / 4) 1) l).take n),
                           mp := .plain, dsts := fun _ => [], helpers := false }) noCheck

/-- LD_B32 (R159). -/
def execLdB32 (d a : BitVec 7) (k : BitVec 5) (s : State) : Out := loadG s d a (2 * k.toNat) 4 .words

/-- LD_B64 (R159). -/
def execLdB64 (d a : BitVec 7) (k : BitVec 5) (s : State) : Out := loadG s d a (2 * k.toNat) 8 .words

/-- LD_B128 (R159). -/
def execLdB128 (d a : BitVec 7) (k : BitVec 5) (s : State) : Out := loadG s d a (2 * k.toNat) 16 .words

/-- ST_B32 (R159). -/
def execStB32 (d a : BitVec 7) (k : BitVec 5) (s : State) : Out := storeG s d a (2 * k.toNat) 4

/-- ST_B64 (R159). -/
def execStB64 (d a : BitVec 7) (k : BitVec 5) (s : State) : Out := storeG s d a (2 * k.toNat) 8

/-- ST_B128 (R159). -/
def execStB128 (d a : BitVec 7) (k : BitVec 5) (s : State) : Out := storeG s d a (2 * k.toNat) 16

/-- LD_N8 (R160). -/
def execLdN8 (d a : BitVec 7) (k : BitVec 3) (s : State) : Out := loadG s d a (2 * k.toNat) 1 .n8

/-- LD_S8 (R160). -/
def execLdS8 (d a : BitVec 7) (k : BitVec 3) (s : State) : Out := loadG s d a (2 * k.toNat) 1 .s8

/-- LD_N16 (R160). -/
def execLdN16 (d a : BitVec 7) (k : BitVec 3) (s : State) : Out := loadG s d a (2 * k.toNat) 2 .n16

/-- LD_S16 (R160). -/
def execLdS16 (d a : BitVec 7) (k : BitVec 3) (s : State) : Out := loadG s d a (2 * k.toNat) 2 .s16

/-- ST_B8 (R160). -/
def execStB8 (d a : BitVec 7) (k : BitVec 3) (s : State) : Out := storeG s d a (2 * k.toNat) 1

/-- ST_B16 (R160). -/
def execStB16 (d a : BitVec 7) (k : BitVec 3) (s : State) : Out := storeG s d a (2 * k.toNat) 2

/-- DLD_B32 (R160, R161): into deep register n, below the rounded DEEP (log entry 71). -/
def execDldB32 (n a : BitVec 7) (k : BitVec 3) (s : State) : Out :=
  withIssue s (fun c g =>
    if decide (n.toNat ≥ g.ndeep) && !(activeLanes c g).isEmpty then .next (groupFault s c cAddr 0)
    else laneGlobal s (fun g =>
      { tags := tagPair g (2 * k.toNat) ++ tagV g a.toNat 1, addr := lmAddr g (2 * k.toNat) a, size := 4,
        kind := fun _ => .load 4 .words, mp := .plain, dsts := fun l => [.deep n.toNat l], helpers := true }) noCheck)

/-- DST_B32 (R160, R161): from deep register n, as the group's issue order has it (R158). -/
def execDstB32 (n a : BitVec 7) (k : BitVec 3) (s : State) : Out :=
  withIssue s (fun c g =>
    if decide (n.toNat ≥ g.ndeep) && !(activeLanes c g).isEmpty then .next (groupFault s c cAddr 0)
    else if (activeReal c g).any (fun l => (g.deepNow n.toNat l).isNone) then .next (stall s c .drain)
    else laneGlobal s (fun g =>
      let r := fun l => (g.deepNow n.toNat l).getD {}
      { tags := tagPair g (2 * k.toNat) ++ tagV g a.toNat 1 ++ [⟨n.toNat, 1, fun l => (r l).tag⟩],
        addr := lmAddr g (2 * k.toNat) a, size := 4, kind := fun l => .store (leBytes 4 (r l).val.toNat),
        mp := .plain, dsts := fun _ => [], helpers := false }) noCheck)

/-- One lane's prefetch (R162): dropped on any failure, else the line comes into L2 and, at level 0, into L1. -/
def prefetch (s : State) (c : Issue) (g : Group) (l1 : Bool) (va : DWord) (l : Nat) : State :=
  if !(canonical va) then s
  else
    let a := g.access s c 0 (some l) va (.pref l1) .plain [] none
    match xlNeeds s g.die g.core g.ctx g.ring va [.read] a.by_ with
    | (.error _, s) => s
    | (.ok x, s) =>
      if (accessErr s g.die (lineOf x.pa * 128) 128 false).isSome then s
      else
        let (_, bad, s) := plainRead s { a with pa := lineOf x.pa * 128, cbit := x.cbit } 1
        if l1 && !x.cbit then
          s.updCore g.die g.core (fun k => l1Fill k a.asid (lineOf x.pa) (0, 128) (l2Bytes s g.die (lineOf x.pa * 128) 128) bad)
        else s

/-- PREF (R162): no register changes and nothing faults. -/
def execPref (lv : BitVec 1) (a : BitVec 7) (k : BitVec 3) (s : State) : Out :=
  withIssue s (fun c g =>
    let real := activeReal c g
    let s := match poisonOf real (tagPair g (2 * k.toNat) ++ tagV g a.toNat 1) with
      | some _ => s
      | none => real.foldl (fun s l => prefetch s c g (lv == 0#1) (lmAddr g (2 * k.toNat) a l) l) s
    .next (retire s c g))

/-! ## LDY and LDKV: read at the home, in the issue -/

/-- What a lane's reading at issue gives: values, a record, or (for a helper lane, or a word out of range) nothing to report. -/
inductive LaneRead
  | vals (rs : List Reg)
  | failed (a : Access) (e : AErr) (tr : Bool)
  | status (a : Access) (c : Nat)
  | range
deriving DecidableEq, Repr

/-- One word through LDKV, the entry's page translated before (R164, R281-R284). A poisoned entry reads as any poisoned data (R156; log entry 64);
what the read found newer than L1 or a clean copy leaves nothing older behind (R255). -/
def kvPerform (s : State) (a : Access) (pos w : Nat) (trap : Bool) : LaneRead × State :=
  if s.gen a.asid ≠ a.gen then (.failed a .stale false, s)
  else match accessErr s a.die a.pa 16 false with
    | some .lost => (.vals [⟨0, true⟩, ⟨0, true⟩], s)
    | some e => (.failed a e false, s)
    | none =>
      let child := a.child.head?
      let (e, bad, s) := entryAt s a.die a.ctx child (a.va.toNat / 128) a.pa a.span
      let s := afterHome s a.die a.core a.asid a.pa
      if bad then (.vals [⟨0, true⟩, ⟨0, true⟩], s)
      else
        match kvWord s a.die child e pos w with
        | (.range, s) => (.range, s)
        | (.word x, s) => (.vals [reg x, reg 0], s)
        | (.status c, s) => if trap then (.status a c, s) else (.vals [reg 0, reg (BitVec.ofNat 32 c)], s)

/-- One LDY word at issue (R163). -/
def ldyPerform (s : State) (a : Access) : LaneRead × State :=
  match serve s a with
  | (.vals rs, s) => (.vals rs, s)
  | (.fault e, s) => (.failed a e false, s)

/-- A lane's reading becomes an outstanding result: values, or a record that parks the lane at the wait that covers it; in a helper
lane a failure reads as zeros (R154, R155). -/
def readPend (s : State) (g : Group) (l : Nat) (ds : List Dst) (r : LaneRead) : State × Group :=
  let (id, s) := s.fresh
  let zeros := zeroWrites (ds.map some)
  let bad := fun (a : Access) (rec : FaultRec) =>
    if (g.lane l).helper then (s, g.defer id (some l) zeros true)
    else (s, { g with pend := g.pend ++ [{ id := id, lane := some l, dsts := ds.map some, st := .bad rec, mem := true, acc := some a,
                                           mask := 1#32 <<< l }] })
  match r with
  | .vals rs => (s, g.defer id (some l) (ds.zip rs) true)
  | .failed a e _ => bad a (a.record e.cause false)
  | .status a c => bad a { a.record cKv false with kvst := BitVec.ofNat 8 c }
  | .range => (s, g.defer id (some l) zeros true)

/-- Readings made at issue, the group's own accesses performed before (R157): failures at translation are kept apart, to park their lanes. -/
def readNow (s : State) (ts : List Tried) (perform : State → Access → LaneRead × State) : List (Nat × LaneRead) × State :=
  ts.foldl (fun p t =>
    let l := t.1.lane.getD 0
    match t.2 with
    | some e => (p.1 ++ [(l, .failed t.1 e true)], p.2)
    | none => let (r, s) := perform p.2 t.1; (p.1 ++ [(l, r)], s)) ([], s)

/-- The lanes whose reading failed at translation park, their group having gone on (R221). -/
def parkRead (s : State) (c : Issue) (g : Group) (rs : List (Nat × LaneRead)) : State :=
  rs.foldl (fun s r => match r.2 with
    | .failed a e true => if (g.lane r.1).helper then s else parkLanes s c.gid a.mask (a.record e.cause true) a.redo
    | _ => s) s

/-- The outstanding results of readings. -/
def pendRead (s : State) (g : Group) (ds : Nat → List Dst) (rs : List (Nat × LaneRead)) : State × Group :=
  rs.foldl (fun p r => match r.2 with
    | .failed _ _ true => if (g.lane r.1).helper then readPend p.1 p.2 r.1 (ds r.1) .range else p
    | x => readPend p.1 p.2 r.1 (ds r.1) x) (s, g)

/-- LDY_B32 (R163): 4 bytes at the home, and the back-off level. -/
def execLdyB32 (d a : BitVec 7) (k : BitVec 3) (s : State) : Out :=
  withIssue s (fun c g => drainFirst s c (
    let real := activeReal c g
    let addr := lmAddr g (2 * k.toNat) a
    match poisonOf real (tagPair g (2 * k.toNat) ++ tagV g a.toNat 1) with
    | some (mask, r, sp) => .next (poisonFault s c mask r sp)
    | none =>
      match real.find? (fun l => addrBad (addr l) 4) with
      | some l => .next (groupFault s c cAddr (addr l))
      | none =>
        let ok := (activeLanes c g).filter (fun l => !addrBad (addr l) 4)
        let bad := (activeLanes c g).filter (fun l => addrBad (addr l) 4)
        let (ts, s) := tryAll s g (ok.map (fun l => g.access s c 0 (some l) (addr l) (.load 4 .words) .home [.v d.toNat l] (laneDet s g l))) []
        match ts.find? (fun t => fatalErr t.2 && !t.1.byHelper g) with
        | some (x, e) => .next (groupFaultBy s c (x.stopped (match e with | some e => e.cause | none => cProtect) true))
        | none =>
          let (rs, s) := readNow s (coalesce ts) ldyPerform
          let same := rs.all (fun r => (g.lane r.1).helper || (match r.2 with
            | .vals [x] => x.val == g.vv d r.1
            | _ => false))
          let level := if same then min (g.ldy + 1) 10 else 0
          let (s, g) := pendRead s g (fun l => [.v d.toNat l]) (rs ++ bad.map (fun l => (l, .range)))
          let g := if same then
              { g with wait := .ldy ((s.die g.die).cycle + 16 * 2 ^ level) c.hdr.m } else g
          let s := retireAt s c { g with ldy := level } (fun _ => c.pc + BitVec.ofNat 64 c.len)
          .next (parkRead s c g rs)))

/-- LDKV (R164): the map entry of the position, the entries of a line asked for together (R337), then its word. -/
def ldkvOp (s : State) (d a : BitVec 7) (k : Nat) (trap : Bool) : Out :=
  withIssue s (fun c g => drainFirst s c (
    let real := activeReal c g
    let pos := fun l => bits (g.vv a l).toNat 31 8
    let w := fun l => (g.vv a l).toNat % 256
    let addr := fun l => g.sPairN k + BitVec.ofNat 64 (16 * (pos l / 64))
    match poisonOf real (tagPair g k ++ tagV g a.toNat 1) with
    | some (mask, r, sp) => .next (poisonFault s c mask r sp)
    | none =>
      match real.find? (fun l => addrBad (addr l) 16) with
      | some l => .next (groupFault s c cAddr (addr l))
      | none =>
        let ok := (activeLanes c g).filter (fun l => !addrBad (addr l) 16)
        let bad := (activeLanes c g).filter (fun l => addrBad (addr l) 16)
        let ds := fun l => vDsts d.toNat 2 l
        let (ts, s) := tryAll s g
          (ok.map (fun l => g.access s c 0 (some l) (addr l) (.kv (pos l) (w l) trap) .home (ds l) (laneDet s g l))) []
        match ts.find? (fun t => fatalErr t.2 && !t.1.byHelper g) with
        | some (x, e) => .next (groupFaultBy s c (x.stopped (match e with | some e => e.cause | none => cProtect) true))
        | none =>
          let (rs, s) := readNow s (coalesce ts) (fun s x => kvPerform s x (pos (x.lane.getD 0)) (w (x.lane.getD 0)) trap)
          match rs.find? (fun r => r.2 == .range && !(g.lane r.1).helper) with
          | some r => .next (groupFault s c cAddr (addr r.1))
          | none =>
            let (s, g) := pendRead s g ds (rs ++ bad.map (fun l => (l, .range)))
            .next (parkRead (retire s c g) c g rs)))

/-- LDKV (R164). -/
def execLdkv (d a : BitVec 7) (k : BitVec 3) (s : State) : Out := ldkvOp s d a (2 * k.toNat) false

/-- LDKV_TRAP (R164): a status that is not OK raises KVSTATUS. -/
def execLdkvTrap (d a : BitVec 7) (k : BitVec 3) (s : State) : Out := ldkvOp s d a (2 * k.toNat) true

/-! ## Scratchpad -/

/-- The block and offset that a scratchpad address names for a block's groups and operations, for n bytes at an alignment (R152); nothing
where R152 raises ADDR. -/
def spadAt (s : State) (block : Nat) (sa : Word) (n al : Nat) : Option (Nat × Nat) :=
  let off := bits sa.toNat 18 0
  let own := FMap.getD s.blocks block {}
  let target :=
    if bit sa.toNat 22 then some block
    else ((FMap.getD s.clusters own.cluster {}).blocks.find? (fun b =>
      match FMap.get? s.blocks b with | some x => x.core % 8 == bits sa.toNat 21 19 | none => false)).orElse
        (fun _ => if own.core % 8 = bits sa.toNat 21 19 then some block else none)
  if bits sa.toNat 31 23 ≠ 0 then none
  else match target with
    | none => none
    | some b =>
      match FMap.get? s.blocks b with
      | none => none
      | some x => if off + n ≤ x.kernel.spad ∧ off % al = 0 then some (b, off) else none

/-- The same for an access of a group. -/
def spadRef (s : State) (g : Group) (sa : Word) (size : Nat) : Option (Nat × Nat) := spadAt s g.block sa size size

/-- Bytes of a block's scratchpad, whether a line of the range is absent, and whether one is marked (R153, R437). -/
def spadRead (s : State) (b off n : Nat) : List Byte :=
  (List.range n).map (fun i => FMap.getD (FMap.getD s.blocks b {}).spad (off + i) 0)
def spadLines (off n : Nat) : List Nat := (List.range ((off + n - 1) / 64 + 1 - off / 64)).map (fun i => off / 64 + i)
def spadAbsent (s : State) (b off n : Nat) : Bool :=
  (spadLines off n).any (fun i => (FMap.getD s.blocks b {}).absent.contains i)
def spadMarked (s : State) (b off n : Nat) : Bool :=
  (spadLines off n).any (fun i => (FMap.getD s.blocks b {}).marked.contains i)

/-- Bytes written to a block's scratchpad. -/
def spadWrite (s : State) (b off : Nat) (bs : List Byte) : State :=
  s.updBlock b (fun x => { x with spad := ((List.range bs.length).zip bs).foldl (fun m e => FMap.put m (off + e.1) e.2) x.spad })

/-- Marks of whole lines cleared (R437): those whose 64 bytes the given ranges cover together. -/
def spadUnmark (s : State) (b : Nat) (rs : List (Nat × Nat)) : State :=
  s.updBlock b (fun x => { x with marked := x.marked.filter (fun ln =>
    decide (((rs.flatMap (fun r => (List.range r.2).map (fun i => r.1 + i))).dedup.filter (fun o => o / 64 == ln)).length ≠ 64)) })

/-- A lane scratchpad instruction's shared part (R152, R153, R155, R156, R169): a load waits for an open subscribe; POISON, ADDR, the wait for presence;
then its effect on the lanes, each with the place that it names. `va` is the address as a record names it. -/
def laneSpad (s : State) (tags : Group → List TagReg) (va : Group → Nat → DWord) (ref : Group → Nat → Option (Nat × Nat)) (size : Nat) (load : Bool)
    (k : State → Issue → Group → List (Nat × Option (Nat × Nat)) → Out) : Out :=
  withIssue s (fun c g =>
    let real := activeReal c g
    let ls := if load then activeLanes c g else real
    if load && subOpen s c.gid then .next (stall s c .drain)
    else
      match poisonOf real (tags g) with
      | some (mask, r, sp) => .next (poisonFault s c mask r sp)
      | none =>
        match real.find? (fun l => (ref g l).isNone) with
        | some l => .next (groupFault s c cAddr (va g l))
        | none =>
          let ps := ls.map (fun l => (l, ref g l))
          if ps.any (fun p => match p.2 with | some (b, o) => spadAbsent s b o size | none => false) then .next (stall s c .presence)
          else k s c g ps)

/-- The address of an LM or LMX scratchpad form (R152). -/
def spadAddr (k : Nat) (a : BitVec 7) (g : Group) (l : Nat) : Word := (g.readS k).val + g.vv a l

/-- An LM or LMX scratchpad instruction of n bytes. -/
def spadLm (s : State) (k : Nat) (a : BitVec 7) (n : Nat) (load : Bool) (data : Group → List TagReg)
    (f : State → Issue → Group → List (Nat × Option (Nat × Nat)) → Out) : Out :=
  laneSpad s (fun g => tagS g k ++ tagV g a.toNat 1 ++ data g) (fun g l => (spadAddr k a g l).setWidth 64) (fun g l => spadRef s g (spadAddr k a g l) n)
    n load f

/-- A scratchpad load (R159, R160): variable-latency; a marked line reads 0 with the tag set (R437). -/
def loadS (s : State) (d a : BitVec 7) (k n : Nat) (form : LoadForm) : Out :=
  spadLm s k a n true (fun _ => []) (fun s c g ps =>
    let (s, g) := ps.foldl (fun p e =>
      let (id, s) := p.1.fresh
      let ds := vDsts d.toNat (max (n / 4) 1) e.1
      let rs := match e.2 with
        | some (b, o) => loadRegs form (spadRead s b o n) (spadMarked s b o n)
        | none => ds.map (fun _ => reg 0)
      (s, p.2.defer id (some e.1) (ds.zip rs) true)) (s, g)
    .next (retire s c g))

/-- A scratchpad store (R159, R160): in ascending lane order (R157); lines that the lanes write whole lose their mark. -/
def storeS (s : State) (d a : BitVec 7) (k n : Nat) : Out :=
  spadLm s k a n false (fun g => tagV g d.toNat (max (n / 4) 1)) (fun s c g ps =>
    let ws := ps.filterMap (fun e => e.2.map (fun r => (e.1, r)))
    let s := ws.foldl (fun s e => spadWrite s e.2.1 e.2.2 ((vBytes g d.toNat (max (n / 4) 1) e.1).take n)) s
    let s := (ws.map (fun e => e.2.1)).dedup.foldl (fun s b => spadUnmark s b ((ws.filter (fun e => e.2.1 == b)).map (fun e => (e.2.2, n)))) s
    .next (retire s c g))

/-- LDS_B32 (R159). -/
def execLdsB32 (d a : BitVec 7) (k : BitVec 5) (s : State) : Out := loadS s d a (2 * k.toNat) 4 .words

/-- LDS_B64 (R159). -/
def execLdsB64 (d a : BitVec 7) (k : BitVec 5) (s : State) : Out := loadS s d a (2 * k.toNat) 8 .words

/-- LDS_B128 (R159). -/
def execLdsB128 (d a : BitVec 7) (k : BitVec 5) (s : State) : Out := loadS s d a (2 * k.toNat) 16 .words

/-- STS_B32 (R159). -/
def execStsB32 (d a : BitVec 7) (k : BitVec 5) (s : State) : Out := storeS s d a (2 * k.toNat) 4

/-- STS_B64 (R159). -/
def execStsB64 (d a : BitVec 7) (k : BitVec 5) (s : State) : Out := storeS s d a (2 * k.toNat) 8

/-- STS_B128 (R159). -/
def execStsB128 (d a : BitVec 7) (k : BitVec 5) (s : State) : Out := storeS s d a (2 * k.toNat) 16

/-- LDS_N8 (R160). -/
def execLdsN8 (d a : BitVec 7) (k : BitVec 3) (s : State) : Out := loadS s d a (2 * k.toNat) 1 .n8

/-- LDS_N16 (R160). -/
def execLdsN16 (d a : BitVec 7) (k : BitVec 3) (s : State) : Out := loadS s d a (2 * k.toNat) 2 .n16

/-- STS_B8 (R160). -/
def execStsB8 (d a : BitVec 7) (k : BitVec 3) (s : State) : Out := storeS s d a (2 * k.toNat) 1

/-- STS_B16 (R160). -/
def execStsB16 (d a : BitVec 7) (k : BitVec 3) (s : State) : Out := storeS s d a (2 * k.toNat) 2

/-! ## Accumulators -/

/-- The physical tile of a block's accumulator name, if the block has it (R31). -/
def tileOf (s : State) (g : Group) (t : Nat) : Option Nat := (FMap.getD s.blocks g.block {}).tiles[t]?

/-- The element that an index register names (R165). -/
def accIndex (g : Group) (a : BitVec 7) (l : Nat) : Nat := bits (g.vv a l).toNat 13 0

/-- The shared part of ACCRD and ACCWR (R31, R32, R156, R165): UNDEF for a tile the block has not, POISON, the wait while it is busy. -/
def accOp (s : State) (t : BitVec 2) (tags : Group → List TagReg) (k : Issue → Group → Nat → Tile → Out) : Out :=
  withIssue s (fun c g =>
    if (activeLanes c g).isEmpty then .next (retire s c g)
    else match tileOf s g t.toNat with
      | none => .next (groupFault s c cUndef 0)
      | some n =>
        match poisonOf (activeReal c g) (tags g) with
        | some (mask, r, sp) => .next (poisonFault s c mask r sp)
        | none =>
          let tl := (s.core g.die g.core).tiles.getD n {}
          if tl.busy ≠ 0 then .next (stall s c .tile) else k c g n tl)

/-- ACCRD (R165, R79): variable-latency; tagged when the tile's poison flag is set. -/
def execAccrd (d a : BitVec 7) (t f : BitVec 2) (r : BitVec 3) (s : State) : Out :=
  accOp s t (fun g => tagV g a.toNat 1) (fun c g _ tl =>
    let (s, g) := (activeLanes c g).foldl (fun p l =>
      let (id, s) := p.1.fresh
      (s, p.2.defer id (some l) [(.v d.toNat l, ⟨accTo tl (accIndex g a l) f.toNat (rndOf r.toNat 0 0), tl.poison⟩)] true)) (s, g)
    .next (retire s c g))

/-- ACCWR (R165, R80): lane after lane, each its own write-in. -/
def execAccwr (d a : BitVec 7) (t : BitVec 2) (s : State) : Out :=
  accOp s t (fun g => tagV g a.toNat 1 ++ tagV g d.toNat 1) (fun c g n tl =>
    let tl := (activeReal c g).foldl (fun tl l => accFrom tl (accIndex g a l) (g.vv d l)) tl
    .next (retire (s.updCore g.die g.core (fun k => { k with tiles := k.tiles.set n tl })) c g))

/-! ## Lane atomics -/

/-- The operation of a code (R166). -/
def atomOf (o : Nat) : AtomOp :=
  match o with
  | 0 => .add
  | 1 => .minS
  | 2 => .maxS
  | 3 => .minN
  | 4 => .maxN
  | 5 => .and
  | 6 => .or
  | 7 => .xor
  | 8 => .exch
  | 9 => .addF32
  | 10 => .cas
  | _ => .read

/-- The MPOLICY check of a .sys use of an address (R252, R167). -/
def sysAllowed (s : State) (die pa : Nat) : Bool :=
  let pol := (s.die die).mpolicy
  match regionOf s.fit pa with
  | .package _ _ _ => pol.getLsbD 0 || pol.getLsbD 1
  | .fabric off =>
    match fwinMatch (s.die die) off with
    | some (_, e) => if bits e.lo.toNat 63 62 = 1 then pol.getLsbD 1 else pol.getLsbD 0
    | none => true
  | _ => true

/-- The refusals of a global meeting point (R167): ADDR for an address it has not, PROTECT for a .sys use that MPOLICY forbids. -/
def mpCheck (s : State) (die pa : Nat) (sys : Bool) : Option Byte :=
  if sys then
    match regionOf s.fit pa with
    | .berth _ _ => some cAddr
    | _ => if sysAllowed s die pa then none else some cProtect
  else if inVf s die pa then none else some cAddr

/-- The registers that an atomic reads as x and y, how many it reads, and how many it writes (R166, R168). -/
structure AtomRegs where
  x : DWord
  y : DWord
  reads : Nat
  writes : Nat

/-- The operands in registers read one after another (R168). -/
def atomOperands (op : AtomOp) (wide ret : Bool) (rd : Nat → Word) : AtomRegs :=
  let one := fun i => if wide then pairVal (rd i) (rd (i + 1)) else (rd i).setWidth 64
  let n := if wide then 2 else 1
  match op with
  | .read => ⟨0, 0, 0, n⟩
  | .cas => ⟨one 0, one n, 2 * n, n⟩
  | _ => ⟨one 0, 0, n, if ret then n else 0⟩

/-- A lane atomic at a global meeting point (R167-R169). -/
def atomGlobal (s : State) (d a : BitVec 7) (op : AtomOp) (sys wide ret pub sub : Bool) : Out :=
  let ops := fun (g : Group) l => atomOperands op wide ret (fun i => (g.readV (d.toNat + i) l).val)
  laneGlobal s (fun g =>
    { tags := tagV g a.toNat 2 ++ tagV g d.toNat (ops g 0).reads, addr := fun l => g.vPair a l, size := atomSize wide,
      kind := fun l => .atomic op wide (ops g l).x (ops g l).y ret pub sub,
      mp := if sys then .sys else .ten, dsts := fun l => vDsts d.toNat (ops g l).writes l,
      helpers := op == .read }) (fun s x => mpCheck s x.die x.pa sys)

/-- One scratchpad atomic at its banks: the registers' values and the state; a marked line is left alone (R438). -/
def spadAtomic (s : State) (b off : Nat) (op : AtomOp) (wide : Bool) (x y : DWord) : List Reg × State :=
  let n := atomSize wide
  if spadMarked s b off n then (atomBad wide, s)
  else
    let old := BitVec.ofNat 64 (ofBytes (spadRead s b off n))
    (atomRegs wide old, if op = .read then s else spadWrite s b off (leBytes n (atomNew op wide old x y).toNat))

/-- Whether a scratchpad address may be used at .blk: its own core (R167). -/
def ownCore (s : State) (g : Group) (sa : Word) : Bool :=
  bit sa.toNat 22 || bits sa.toNat 21 19 == (FMap.getD s.blocks g.block {}).core % 8

/-- The place of a .blk or .clu atomic (R167): none where the high word is not zero, or where .blk names another core. -/
def atomRef (s : State) (g : Group) (clu : Bool) (va : DWord) (size : Nat) : Option (Nat × Nat) :=
  if hiHalf va = 0 ∧ (clu || ownCore s g (loHalf va)) = true then spadRef s g (loHalf va) size else none

/-- A lane atomic at .blk or .clu (R155, R167-R169): performed in the issue, in ascending lane order. -/
def atomSpad (s : State) (d a : BitVec 7) (op : AtomOp) (clu wide ret pub sub : Bool) : Out :=
  let ops := fun (g : Group) l => atomOperands op wide ret (fun i => (g.readV (d.toNat + i) l).val)
  laneSpad s (fun g => tagV g a.toNat 2 ++ tagV g d.toNat (ops g 0).reads) (fun g l => g.vPair a l)
    (fun g l => atomRef s g clu (g.vPair a l) (atomSize wide)) (atomSize wide) (op == .read)
    (fun s c g ps =>
      let body :=
        let (s, g, done) := ps.foldl (fun (p : State × Group × Bool) e =>
          let ds := vDsts d.toNat (ops g e.1).writes e.1
          let (rs, s, done) := match e.2 with
            | some (b, o) =>
              let (rs, s) := spadAtomic p.1 b o op wide (ops g e.1).x (ops g e.1).y
              (rs, s, p.2.2 || !spadMarked p.1 b o (atomSize wide))
            | none => (ds.map (fun _ => reg 0), p.1, p.2.2)
          if ds.isEmpty then (s, p.2.1, done)
          else let (id, s) := s.fresh; (s, p.2.1.defer id (some e.1) (ds.zip rs) true, done)) (s, g, false)
        let s := if sub && done then consumerHalf s g.die g.core (s.ctx g.die g.ctx).asid false else s
        .next (retire s c g)
      if pub then drainFirst s c body else body)

/-- A lane atomic at any meeting point. -/
def atomLane (s : State) (d a : BitVec 7) (op : AtomOp) (p : BitVec 2) (wide ret pub sub : Bool) : Out :=
  if p.toNat ≤ 1 then atomSpad s d a op (p.toNat == 1) wide ret pub sub
  else atomGlobal s d a op (p.toNat == 3) wide ret pub sub

/-- ATOM (R166-R168). -/
def execAtom (d a : BitVec 7) (o : BitVec 4) (p : BitVec 2) (w : BitVec 1) (s : State) : Out :=
  atomLane s d a (atomOf o.toNat) p (w == 1#1) true false false

/-- CAS (R168). -/
def execCas (d a : BitVec 7) (p : BitVec 2) (w : BitVec 1) (s : State) : Out := atomLane s d a .cas p (w == 1#1) true false false

/-- ATOM_PUB (R169): publish and subscribe. -/
def execAtomPub (d a : BitVec 7) (o : BitVec 4) (p : BitVec 2) (w : BitVec 1) (s : State) : Out :=
  atomLane s d a (atomOf o.toNat) p (w == 1#1) true true true

/-- CAS_PUB (R169). -/
def execCasPub (d a : BitVec 7) (p : BitVec 2) (w : BitVec 1) (s : State) : Out := atomLane s d a .cas p (w == 1#1) true true true

/-- RED (R168): no register written. -/
def execRed (d a : BitVec 7) (o : BitVec 4) (p : BitVec 2) (w : BitVec 1) (s : State) : Out :=
  atomLane s d a (atomOf o.toNat) p (w == 1#1) false false false

/-- LD_SUB (R168, R169): an atomic load marked subscribe. -/
def execLdSub (d a : BitVec 7) (p : BitVec 2) (w : BitVec 1) (s : State) : Out := atomLane s d a .read p (w == 1#1) true false true

/-! ## Uniform accesses -/

/-- A uniform global access (R170): one address for the issue. -/
def uniGlobal (s : State) (c : Issue) (g : Group) (va : DWord) (size : Nat) (load : Bool)
    (as : Nat → List Access) (chk : State → Access → Option Byte) : Out :=
  if load && subOpen s c.gid then .next (stall s c .drain)
  else if addrBad va size then .next (groupFault s c cAddr va)
  else
    let (batch, s) := s.fresh
    if shadowOk s g (as batch) then goAccess s c g (as batch) (chk s) else .next (groupFault s c cAddr va)

/-- The offset of SLD and SST (R170). -/
def uniOffset (g : Group) (b : BitVec 6) (k : BitVec 3) (size : Nat) : DWord :=
  if k.getLsbD 1 then (g.sv b).setWidth 64 else BitVec.ofNat 64 (b.toNat * size)

/-- The registers that the address of SLD and SST is formed from (R170). -/
def uniAddrTags (g : Group) (a b : BitVec 6) (k : BitVec 3) : List TagReg :=
  (if k.getLsbD 2 then tagS g a.toNat else tagPair g a.toNat) ++ (if k.getLsbD 1 then tagS g b.toNat else [])

/-- The uniform destinations of n words. -/
def sDsts (d n : Nat) : List Dst := (List.range n).map (fun i => .s (d + i))

/-- A scratchpad place for a uniform access: a load's wait for an open subscribe (R169), ADDR, the wait for presence, then its use. -/
def uniSpad (s : State) (c : Issue) (g : Group) (sa : Word) (size : Nat) (load : Bool) (k : Nat → Nat → Out) : Out :=
  if load && subOpen s c.gid then .next (stall s c .drain)
  else match spadRef s g sa size with
  | none => .next (groupFault s c cAddr (sa.setWidth 64))
  | some (b, o) => if spadAbsent s b o size then .next (stall s c .presence) else k b o

/-- SLD (R170). -/
def execSld (d a b : BitVec 6) (k : BitVec 3) (s : State) : Out :=
  uniform s (fun c g =>
    let n := if k.getLsbD 0 then 2 else 1
    match poisonOf [0] (uniAddrTags g a b k) with
    | some (_, r, sp) => .next (poisonFault s c c.lanes r sp)
    | none =>
      let off := uniOffset g b k (4 * n)
      if k.getLsbD 2 then
        uniSpad s c g (g.sv a + loHalf off) (4 * n) true (fun bl o =>
          let (id, s) := s.fresh
          let rs := loadRegs .words (spadRead s bl o (4 * n)) (spadMarked s bl o (4 * n))
          .next (retire s c (g.defer id none ((sDsts d.toNat n).zip rs) true)))
      else
        let va := g.sPair a + off
        uniGlobal s c g va (4 * n) true (fun batch =>
          [g.access s c batch none va (.load (4 * n) .words) .plain (sDsts d.toNat n) (holdOf s g c.lanes)]) noCheck)

/-- SST (R170): held by each deterministic child, and performed once for the others (R436). -/
def execSst (d a b : BitVec 6) (k : BitVec 3) (s : State) : Out :=
  uniform s (fun c g =>
    let n := if k.getLsbD 0 then 2 else 1
    let data := bytesOf ((List.range n).map (fun i => (g.readS (d.toNat + i)).val))
    let dt := (List.range n).flatMap (fun i => tagS g (d.toNat + i))
    match poisonOf [0] (uniAddrTags g a b k ++ dt) with
    | some (_, r, sp) => .next (poisonFault s c c.lanes r sp)
    | none =>
      let off := uniOffset g b k (4 * n)
      if k.getLsbD 2 then
        uniSpad s c g (g.sv a + loHalf off) (4 * n) false (fun bl o => .next (retire (spadWrite s bl o data) c g))
      else
        let va := g.sPair a + off
        uniGlobal s c g va (4 * n) false (fun batch =>
          (holdsOf s g c.lanes).map (fun h => g.access s c batch none va (.store data) .plain [] h)) noCheck)

/-- SATOM and SATOM.PUB (R171, R436): the first child's view gives the value returned. -/
def satomOp (s : State) (op : AtomOp) (a b : BitVec 6) (p : BitVec 2) (wide pub : Bool) : Out :=
  uniform s (fun c g =>
    let o := atomOperands op wide true (fun i => (g.readS (b.toNat + i)).val)
    let at_ := if p.toNat ≤ 1 then tagS g a.toNat else tagPair g a.toNat
    match poisonOf [0] (at_ ++ (List.range o.reads).flatMap (fun i => tagS g (b.toNat + i))) with
    | some (_, r, sp) => .next (poisonFault s c c.lanes r sp)
    | none =>
      if p.toNat ≤ 1 then
        let body := uniSpad s c g (g.sv a) (atomSize wide) false (fun bl off =>
          let performed := !spadMarked s bl off (atomSize wide)
          let (rs, s) := spadAtomic s bl off op wide o.x o.y
          let (id, s) := s.fresh
          let s := if pub && performed then consumerHalf s g.die g.core (s.ctx g.die g.ctx).asid false else s
          .next (retire s c (g.defer id none ((sDsts b.toNat o.writes).zip rs) true)))
        if p.toNat = 0 && !ownCore s g (g.sv a) then .next (groupFault s c cAddr ((g.sv a).setWidth 64))
        else if pub then drainFirst s c body else body
      else
        let va := g.sPair a
        uniGlobal s c g va (atomSize wide) false (fun batch =>
          (holdsOf s g c.lanes).mapIdx (fun i h => g.access s c batch none va (.atomic op wide o.x o.y (i == 0) pub pub)
            (if p.toNat = 3 then .sys else .ten) (if i = 0 then sDsts b.toNat o.writes else []) h))
          (fun s x => mpCheck s x.die x.pa (p.toNat == 3)))

/-- SATOM (R171). -/
def execSatom (o : BitVec 4) (a b : BitVec 6) (p : BitVec 2) (w : BitVec 1) (s : State) : Out :=
  satomOp s (atomOf o.toNat) a b p (w == 1#1) false

/-- SATOM_PUB (R171, R169). -/
def execSatomPub (o : BitVec 4) (a b : BitVec 6) (p : BitVec 2) (w : BitVec 1) (s : State) : Out :=
  satomOp s (atomOf o.toNat) a b p (w == 1#1) true

end Sys2Proof.Machine
end

