-- ==== Sys2Proof/Machine/Ends.lean ====
section
/-! DEFINITION. The end of groups and blocks (R135, R241, R278) and the destruction of contexts (R410). -/

namespace Sys2Proof.Machine

/-! ## The end of groups and blocks -/

/-- A block's scratchpad, barriers and tiles are released (R135). -/
def freeBlock (s : State) (bid : Nat) : State :=
  match FMap.get? s.blocks bid with
  | none => s
  | some b =>
    let s := if b.core ≥ 192 then s else s.updCore b.die b.core (fun c => { c with tiles := c.tiles.map (fun (t : Tile) => if t.owner = some bid then {} else t) })
    let s := { s with blocks := FMap.erase s.blocks bid, clusters := updIn s.clusters b.cluster (fun c =>
      { c with blocks := c.blocks.filter (· != bid) }) }
    let s := { s with clusters := s.clusters.filter (fun e => !e.2.blocks.isEmpty) }
    if b.core ≥ 192 then s else leaveCore s b.die b.core b.ctx

/-- The last group of a block has ended (R135): the block child ends, a root block leaves its launch's grid. -/
def endBlock (s : State) (bid : Nat) : State :=
  match FMap.get? s.blocks bid with
  | none => s
  | some b =>
    let s := freeBlock s bid
    match b.child with
    | some c => endChild s c
    | none => s.updLaunch b.launch (fun x => { x with live := x.live - 1 })

/-- A group's register place is given up. -/
def dropGroup (s : State) (gid : Nat) : State := { s with groups := FMap.erase s.groups gid }

/-- A group's end event (R135): the child of a free-standing group child ends; the block goes with its last group. -/
def groupGone (s : State) (gid : Nat) : State :=
  match FMap.get? s.groups gid with
  | none => s
  | some g =>
    let s := dropGroup s gid
    let s := match g.kind, g.child with
      | .child, some c => endChild s c
      | _, _ => s
    let s := s.updBlock g.block (fun b => { b with groups := b.groups.filter (· != gid) })
    match FMap.get? s.blocks g.block with
    | some b => if !b.groups.isEmpty then s else if b.free then freeBlock s g.block else endBlock s g.block
    | none => s

/-- Whether every lane that is no helper has exited (R135). -/
def Group.over (g : Group) : Bool :=
  (List.range 32).all (fun l => let x := g.lane l; x.helper || !x.live) &&
    (match g.kind with | .handler _ _ _ => false | _ => true)

/-- A group that is over, with no open frame and no outstanding operation, ends: stopped lanes and helpers first (R134, R135). A group that a
switch has stopped stays until its context runs again. -/
def tryEnd (s : State) (gid : Nat) : State :=
  match FMap.get? s.groups gid with
  | none => s
  | some g =>
    if g.over && g.frames.isEmpty && !opsOpen s g && !inFlight s gid && !g.holds.switch && g.loc != .saved then groupGone (endLanesNow s gid 0xFFFFFFFF#32) gid
    else s

/-! ## The destruction of contexts -/

/-- A core after every operation that meets a test has gone from it. -/
def Core.purge (c : Core) (gone : Nat → Bool) (blk : Nat → Bool) : Core :=
  let chan := fun (h : Chan) =>
    match h.chains with
    | [] => h
    | o :: _ => if gone o then { chains := h.chains.filter (fun x => !gone x) } else { h with chains := h.chains.filter (fun x => !gone x) }
  let free := fun (h : Chan) (ch : Nat) (p : Slip) =>
    if (match h.chains with | o :: _ => gone o | [] => false) && p.claim == some ch then { p with claim := none } else p
  let slip := fun (p : Slip) => free c.chan1 1 (free c.chan0 0 p)
  { c with mq := c.mq.filter (fun x => !gone x), chan0 := chan c.chan0, chan1 := chan c.chan1, slipA := slip c.slipA, slipB := slip c.slipB,
           tiles := c.tiles.map (fun (t : Tile) => match t.owner with | some b => if blk b then {} else t | none => t) }

/-- The destruction of a context on one die (R410). -/
def destroyOn (s : State) (die ctx : Nat) : State :=
  let mineG := fun (g : Group) => g.die == die && g.ctx == ctx
  let goneOps := namesWhere s.ops (fun _ o => o.die == die && o.ctx == ctx)
  let goneBlocks := namesWhere s.blocks (fun _ b => b.die == die && b.ctx == ctx)
  let coresOf := (s.blocks.filterMap (fun e => if e.2.die == die && e.2.ctx == ctx && !e.2.handler then some e.2.core else none)).dedup
  let id := objCtx s die ctx
  let goneGroups := namesWhere s.groups (fun _ g => mineG g)
  let s := { s with groups := s.groups.filter (fun e => !mineG e.2),
                    flight := s.flight.filter (fun a => !(a.die == die && a.ctx == ctx)) }
  let s := { s with ops := s.ops.filter (fun e => !goneOps.contains e.1),
                    launches := s.launches.filter (fun e => !(e.2.die == die && e.2.ctx == ctx)),
                    insts := s.insts.filter (fun e => !(e.2.die == die && e.2.ctx == ctx)) }
  let s := { s with frames := s.frames.filter (fun e => !(e.2.die == die && e.2.ctx == ctx)),
                    children := s.children.filter (fun e => !(e.2.die == die && e.2.ctx == ctx)),
                    traps := s.traps.filter (fun e => !(e.2.die == die && e.2.ctx == ctx)) }
  let s := { s with traps := FMap.mapV s.traps (fun _ (t : Trap) =>
    if t.die == die && t.area == ctx then { t with slot := none, st := if t.st == TrapSt.blocked then TrapSt.blocked else TrapSt.waiting } else t) }
  let s := { s with cores := FMap.mapV s.cores (fun k (c : Core) =>
    if k / 256 = die then
      let c := c.purge (fun o => goneOps.contains o) (fun b => goneBlocks.contains b)
      { c with handlers := c.handlers.map (fun (h : Option Nat) => h.filter (fun g => !goneGroups.contains g)),
               reserved := if c.reserved = some ctx then none else c.reserved }
    else c) }
  let s := s.updDie die (fun d =>
    let keep := fun (l : List Nat) => l.filter (fun o => !goneOps.contains o)
    { d with mau0 := keep d.mau0, mau1 := keep d.mau1, umx := keep d.umx, coll := keep d.coll, helm := keep d.helm, lunit := keep d.lunit,
             collOwed := d.collOwed.filter (fun e => e.ctx != ctx) })
  let s := { s with blocks := s.blocks.filter (fun e => !goneBlocks.contains e.1),
                    clusters := (FMap.mapV s.clusters (fun _ c => { c with blocks := c.blocks.filter (fun b => !goneBlocks.contains b) })).filter
                      (fun e => !e.2.blocks.isEmpty) }
  let s := foldNames s coresOf (fun s c => leaveCore s die c ctx)
  let s := foldNames s (vfDies s die) (fun s d => s.updDm d (fun m => { m with objs := m.objs.filter (fun e => e.2.ctx != id) }))
  let s := { s with pkg := { s.pkg with notices := s.pkg.notices.filter (fun n => n.ctx != id),
                                        backErrs := s.pkg.backErrs.filter (fun e => !(e.die == die && e.ctx == ctx)) } }
  let s := { s with ctxs := FMap.erase s.ctxs (ctxKey die ctx) }
  wakeWhere s (fun _ g => g.die == die && g.wait == .ctxForm)

/-- The destruction of a context on every die of its DIES (R410). -/
def destroyCtx (s : State) (die ctx : Nat) : State :=
  match s.ctx? die ctx with
  | none => s
  | some x => foldNames s x.dies (fun s d => destroyOn s d ctx)

/-- Every context of a die destroyed, each on every die of its DIES. -/
def destroyAll (s : State) (die : Nat) : State := foldNames s (List.range 64) (fun s n => destroyCtx s die n)

end Sys2Proof.Machine
end

