-- ==== Sys2Proof/Machine/Latch.lean ====
section
/-! DEFINITION. Toll snapshots (R430), the world latch (R343, R423, R425), and the retirement of dies (R434). -/

namespace Sys2Proof.Machine

/-! ## Keys and snapshots -/

/-- A fresh 256-bit key. -/
def drawKey (s : State) : BitVec 256 × State := let (n, s) := s.drawN 4; (BitVec.ofNat 256 n, s)

/-- A fresh 128-bit key. -/
def drawLink (s : State) : BitVec 128 × State := let (n, s) := s.drawN 2; (BitVec.ofNat 128 n, s)

/-- The value that a world's chain starts from (R430). -/
def chainStart (s : State) (lseq : DWord) (world : Nat) : BitVec 384 :=
  Config.sha384 (leBytes 8 s.pkg.bootid.toNat ++ leBytes 8 lseq.toNat ++ [BitVec.ofNat 8 world])

/-- A snapshot of a die (R430): the count rises and the chain takes in the counters. -/
def snapshot (s : State) (die : Nat) : State :=
  s.updMg die (fun m => { m with
    tollN := m.tollN + 1,
    tollH := Config.sha384 (leBytes 48 m.tollH.toNat ++ leBytes 8 (m.tollN + 1) ++ m.tolls.flatMap (leBytes 8)) })

/-- The record of a die as its last snapshot left it, for the world that it names (R430). -/
def measureOf (s : State) (die world : Nat) : Measure :=
  let m := (s.die die).mg
  { bootid := s.pkg.bootid, lseq := m.lseq, world := world, n := m.tollN, counters := m.tolls, h := m.tollH }

/-! ## The latch -/

/-- Whether an address is package memory of a die. -/
def onDie (f : Fitting) (die pa : Nat) : Bool := match regionOf f pa with | .package d _ _ => d == die | _ => false

/-- A die scrubbed (R343, R423): core memory and registers, L2, TLBs, the object table, the memory-side and the counter caches emptied, the FRESH
bits set so that its package memory reads zero, its traps, their registers and the debug windows gone, the snoop filters of its memory with them. Other dies' copies of its lines go too: no byte of the old world reads after the
latch. -/
def scrub (s : State) (die : Nat) : State :=
  let s := { s with
    cores := FMap.mapV s.cores (fun k (c : Core) =>
      if k / 256 = die then { fenced := c.fenced } else { c with l1 := c.l1.filter (fun x => !onDie s.fit die (x.line * 128)) }),
    traps := s.traps.filter (fun e => e.2.die != die),
    mem := { s.mem with
      bytes := s.mem.bytes.filter (fun e => !onDie s.fit die e.1),
      poison := s.mem.poison.filter (fun l => !(decide (l < 2 ^ 45) && onDie s.fit die (l * 128))),
      dram := s.mem.dram.filter (fun e => !(decide (e.1 < 2 ^ 45) && onDie s.fit die (e.1 * 128))),
      pages := FMap.mapV s.mem.pages (fun k (p : PageMeta) => if onDie s.fit die (k * 4096) then { p with fresh := 0xFFFFFFFF } else p) } }
  let s := foldNames s (List.range s.fit.dies) (fun s d => dropCopies s d (fun x => onDie s.fit die (x.line * 128)))
  let s := s.updDie die (fun x => { x with trapcfg := 0, trapvecP := 0, trapvecD := 0, traptmoP := 0, traptmoD := 0, mg := { x.mg with dbg := [] } })
  s.updDm die (fun m => { m with tlb := [], l2 := [], msc0 := [], msc1 := [], ctr0 := [], ctr1 := [], objs := [], hostSnoop := [], expSnoop := [] })

/-- Fresh keys of a die's stacks; the link keys stay (R340, R344, R425). -/
def stackKeys (s : State) (die : Nat) : State :=
  let (d0, s) := drawKey s
  let (t0, s) := drawKey s
  let (d1, s) := drawKey s
  let (t1, s) := drawKey s
  s.updMg die (fun m => { m with keys := some { m.keys.getD {} with data0 := d0, tag0 := t0, data1 := d1, tag1 := t1 } })

/-- Row repair (R435): spare rows of each stack take the place of failing ones, as long as there are any; below an eighth left the replace-me notice
goes up (R433). -/
def repairRows (s : State) (die : Nat) : State :=
  let m := (s.die die).mg
  let fold := m.failingRows.foldl (fun (p : List (Nat × Nat) × List Nat) r =>
    if p.2.getD r.1 0 < Config.spareRows then (p.1, p.2.modify r.1 (· + 1)) else (p.1 ++ [r], p.2)) ([], m.rowsUsed)
  let s := s.updMg die (fun m => { m with failingRows := fold.1, rowsUsed := fold.2 })
  if !m.failingRows.isEmpty && fold.2.any (fun n => decide (8 * (Config.spareRows - n) < Config.spareRows)) then s.putBr die ((s.br die).replaceMe die)
  else s

/-- Spares take the numbers of failed cores, as long as there are any; at two left the replace-me notice goes up (R433, R434). -/
def substitute (s : State) (die : Nat) : State :=
  let m := (s.die die).mg
  let healed := m.failedCores.take m.spares
  let s := foldNames s healed (fun s c => s.updCore die c (fun x => { x with fenced := false }))
  let low := !healed.isEmpty && decide (m.spares - healed.length ≤ 2)
  let s := s.updMg die (fun m => { m with spares := m.spares - healed.length, failedCores := m.failedCores.drop m.spares, replace := m.replace || low })
  if low then s.logged (.media die) else s

/-- The keys of a die's sessions are destroyed; grids taken through them run on (R425). -/
def endSessions (s : State) (die : Nat) : State :=
  { s with pkg := { s.pkg with sessions := FMap.mapV s.pkg.sessions (fun _ (x : Session) =>
      if x.spec.die = die then { x with live := false, manifestKey := 0, stationKey := 0 } else x) } }

/-- The seven steps of a world latch (R423), spares first (R434). A latch to world 0 leaves the die unassigned. -/
def latchDie (s : State) (die vf world : Nat) : State :=
  let old := (s.die die).mg.tollWorld
  let s := s.updMg die (fun m => { m with world := 0 })
  let s := destroyAll s die
  let s := snapshot s die
  let r := measureOf s die old
  let s := (s.updMg die (fun m => { m with final := some r })).logged (.final r)
  let s := endSessions (substitute (repairRows (scrub s die) die) die) die
  let s := s.updMg die (fun m => { m with tolls := List.replicate 16 0 })
  let s := stackKeys s die
  let s := s.updMg die (fun m => { m with hosten := false, lseq := m.lseq + 1, latchNeeded := false })
  let s := if world = 0 then s else s.updMg die (fun m => { m with vf := vf, world := world })
  s.updMg die (fun m => { m with tollN := 0, tollH := chainStart s m.lseq world, tollWorld := world })

/-! ## The retirement of dies -/

/-- Whether a die holds a port that works (R2, R365, R434): it is not retired, and its link stands. -/
def portWorks (s : State) (die : Nat) : Bool := s.fit.ports.contains die && !(s.die die).mg.retired && !(s.die die).mg.portDown

/-- Whether a die holds the last working CXL port of the package (R434). -/
def lastPort (s : State) (die : Nat) : Bool :=
  portWorks s die && !(List.range s.fit.dies).any (fun d => d != die && portWorks s d)

/-- Helm retires a die (R434): the contexts of its virtual function are destroyed, it is latched to 0 for good, and the other dies of the
virtual function accept no binding until they are latched again. The die with the last working port is fenced instead, and runs no context. -/
def retireDie (s : State) (die : Nat) : State :=
  if lastPort s die then (destroyAll s die).updMg die (fun m => { m with fenced := true })
  else
    let dies := vfDies s die
    let s := foldNames s dies destroyAll
    let s := foldNames s (dies.filter (· != die)) (fun s d => s.updMg d (fun m => { m with latchNeeded := true }))
    (latchDie s die 0 0).updMg die (fun m => { m with retired := true })

end Sys2Proof.Machine
end

