-- ==== Sys2Proof/Machine/Traps.lean ====
section
/-! DEFINITION. TAKING A TRAP AND RETURNING FROM ONE: trap slots and handler groups (R397-R401, R405), ERET and its actions (R402, R409, R412,
R413, R441), rung D (R406), handler timeouts (R404), and the all-stop line (R407, R409). -/

namespace Sys2Proof.Machine

/-! ## A load-type access executed again (R154) -/

/-- An atomic takes its operands from the record's DATA, as the handler left it (R396, R402). -/
def Access.withData (a : Access) (d : BitVec 128) : Access :=
  match a.kind with
  | .atomic op wide _ y ret pub sub =>
    let n := atomSize wide
    let bs := leBytes 16 d.toNat
    if op = .read then a
    else { a with kind := .atomic op wide (BitVec.ofNat 64 (field bs 0 n))
                    (if op = .cas then BitVec.ofNat 64 (field bs n n) else y) ret pub sub }
  | _ => a

/-- Accesses that lanes are to execute again are kept with them under a trap's name, or under 0 until their group has a place. -/
def keepRedo (s : State) (gid tid : Nat) (a : Access) : State :=
  s.updGroup gid (fun g => g.updLanes a.mask (fun _ x => { x with redo := x.redo ++ [(tid, a)] }))

/-- An access executed again stops its group instead (R164, R167, R327): it is executed once more when that trap returns. -/
def stopRedo (s : State) (gid : Nat) (g : Group) (a : Access) (cause : Byte) (tr : Bool) : State :=
  let at_ := (g.lane ((lanesOf a.mask).headD 0)).pc
  let tid := s.model.nextId
  keepRedo (stopGroup s gid a.mask (homeRung cause) { a.stopped cause tr with kind := 1, pc := a.pc, resume := at_, word := a.word }) gid tid a

/-- The outstanding result of an access executed again; its lanes stay parked until it is in (R154, R229). -/
def pendRedo (id : Nat) (a : Access) (st : PendSt) : Pend :=
  { id := id, lane := a.lane, dsts := a.dsts, st := st, mem := true, acc := some a, mask := a.mask, wake := true }

/-- A load-type access executed again for its lane alone, under the current generation and with a new translation (R154, R164, R167, R330). -/
def redoAccess (s : State) (gid : Nat) (a : Access) : State :=
  match FMap.get? s.groups gid with
  | none => s
  | some g =>
    let x := s.ctx g.die g.ctx
    let a := { a with die := g.die, core := g.core, ctx := g.ctx, asid := x.asid, gen := s.gen x.asid, published := false }
    match xlNeeds s g.die g.core g.ctx g.ring a.va a.kind.needs a.by_ with
    | (.error e, s) =>
      if fatalErr (some e) then stopRedo s gid g a e.cause true else parkLanes s gid a.mask (a.record e.cause true) a.redo
    | (.ok t, s) =>
      let a := { a with pa := t.pa, cbit := t.cbit, span := spanOf (t.pa % 128) a.kind.asked }
      match a.kind with
      | .kv pos w tr =>
        match kvPerform s a pos w tr with
        | (.vals rs, s) => let (id, s) := s.fresh; s.updGroup gid (fun g => { g with pend := g.pend ++ [pendRedo id a (.ready rs)] })
        | (.range, s) => stopRedo s gid g a cAddr false
        | (.failed _ e _, s) => parkLanes s gid a.mask (a.record e.cause false) a.redo
        | (.status _ c, s) => parkLanes s gid a.mask { a.record cKv false with kvst := BitVec.ofNat 8 c } a.redo
      | _ =>
        match (match a.mp with | .ten => mpCheck s a.die a.pa false | .sys => mpCheck s a.die a.pa true | _ => none) with
        | some cause => stopRedo s gid g a cause false
        | none =>
          let (id, s) := s.fresh
          let a := { a with pend := some id }
          let s := { s with flight := s.flight ++ [a] }
          s.updGroup gid (fun g => { g with pend := g.pend ++ [pendRedo id a .waiting] })

/-- The accesses kept under a trap's name in lanes of a mask, once for each lane, or once for a uniform access. -/
def redosOf (g : Group) (mask : Word) (tid : Nat) : List Access :=
  ((lanesOf mask).flatMap (fun l => ((g.lane l).redo.filter (fun e => e.1 == tid)).map (·.2))).dedup

/-- They are taken out of the lanes. -/
def Group.dropRedosOf (g : Group) (tid : Nat) : Group :=
  { g with lanes := g.lanes.map (fun x => { x with redo := x.redo.filter (fun e => e.1 != tid) }) }

/-- Accesses due to be executed again are, their group having its place, no all-stop line being up and no switch under way (R229, R402), and lanes with nothing left to wait for
are ready (R154). -/
def runRedos (s : State) (gid : Nat) (as : List Access) (mask : Word) : State :=
  match FMap.get? s.groups gid with
  | none => s
  | some g =>
    if g.loc = .resident && !g.holds.line && !g.holds.switch then wakeParked (as.foldl (fun s a => redoAccess s gid a) s) gid mask
    else as.foldl (fun s a => keepRedo s gid 0 a) (wakeParked s gid (mask &&& ~~~(as.foldl (fun m a => m ||| a.mask) 0)))

/-- A group that has its place again, whose line is lowered, or whose switch is over, executes what fell due meanwhile (R154, R229, R409). -/
def runDue (s : State) (gid : Nat) : State :=
  match FMap.get? s.groups gid with
  | none => s
  | some g =>
    let as := redosOf g 0xFFFFFFFF#32 0
    if as.isEmpty then s else runRedos (s.updGroup gid (fun g => g.dropRedosOf 0)) gid as 0xFFFFFFFF#32

/-- A group kept in a continuation slot is written there again after a trap has changed it (R140, R269); a failure is a unit fault, which keeps the group
from resuming (R441). -/
def resave (s : State) (gid : Nat) : State :=
  match FMap.get? s.groups gid with
  | some g => match g.loc with
    | .cont k => match unitWrite s g.die g.ctx k (groupBytes s g 0) with
      | (.ok _, s) => s
      | (.error (e, a), s) => raiseUnit s g.die g.ctx 7 (.slot gid) e.cause a
    | _ => s
  | none => s

/-! ## What a trap concerns, going on or ending -/

/-- A held operation goes on where it stood (R179): at its work, or at its record and add when its work was done. -/
def resumeOp (s : State) (o : Nat) : State :=
  match FMap.get? s.ops o with
  | none => s
  | some x =>
    let clear := fun (h : Chan) => { h with cur := h.cur.map (fun (r : Rec) => { r with held := none }) }
    (s.updOp o (fun x => { x with st := if x.flags.getLsbD 0 then .adding else .running })).updCore x.die x.core (fun c =>
      match x.kind with
      | .chain ch => if ch = 0 then { c with chan0 := clear c.chan0 } else { c with chan1 := clear c.chan1 }
      | _ => c)

/-- The barge record of a cancelled chain (R179, R185): it reports CANCELLED, also where it had been written back. -/
def Rec.cancel (r : Rec) : Rec := { r with cancelled := true, wrote := false }

/-- An operation cancelled (R179, R402): it ends at once, its record or status reports CANCELLED, and its counter advances; held at its record or its
add, it makes the access again. A chain with no record taken ends at its next take (R185). -/
def cancelOp (s : State) (o : Nat) : State :=
  match FMap.get? s.ops o with
  | none => s
  | some x =>
    let s := resumeOp s o
    let cancel := fun (h : Chan) => { h with cur := h.cur.map Rec.cancel }
    let s := s.updOp o (fun x => { x with flags := x.flags ||| 0x10#32, recAddr := if x.flags.getLsbD 0 then x.recKeep else x.recAddr })
    match x.kind with
    | .chain ch => s.updCore x.die x.core (fun c => if ch = 0 then { c with chan0 := cancel c.chan0 } else { c with chan1 := cancel c.chan1 })
    | _ => s

/-- The trap of a handler group's own fault that is still out. -/
def nestedIn (s : State) (gid : Nat) : Option Nat :=
  (s.traps.find? (fun e => e.2.nested && (match e.2.party with | .lanes k _ => k == gid | .group k _ => k == gid | _ => false))).map (·.1)

/-- The operation that an ALLSTOP slot concerns does not continue before the line is lowered (R402). -/
def heldByLine (s : State) (o : Nat) (t : Trap) : State := s.updOp o (fun x => { x with lineHeld := t.allstop })

/-- The concerned lanes, group or operation go on (R402): the lanes in LANES at RESUME as the slot now has it, executing their load-type
accesses again. -/
def resumeParty (s : State) (tid : Nat) (t : Trap) : State :=
  let lanes := fun (s : State) (gid : Nat) =>
    match FMap.get? s.groups gid with
    | none => s
    | some g =>
      let as := (redosOf g t.lanes tid).map (fun a => a.withData t.fault.data)
      let g := (g.dropRedosOf tid).updLanes t.lanes (fun _ x => if x.live then { x with pc := t.fault.resume } else x)
      resave (runRedos (unhold (s.putGroup gid g) gid tid) gid as t.lanes) gid
  match t.party with
  | .lanes gid _ => lanes s gid
  | .group gid _ => lanes s gid
  | .engine o => heldByLine (resumeOp s o) o t
  | .handler gid _ => (s.updGroup gid (fun g => match g.kind with
      | .handler h r _ => { g with kind := .handler h r (some (s.die g.die).cycle) }
      | _ => g)).updGroup gid (fun g => if g.holds.trap = some tid then { g with holds := { g.holds with trap := nestedIn s gid } } else g)
  | _ => s

/-- The concerned lanes end as by EXIT; the operation is cancelled (R402). -/
def endParty (s : State) (tid : Nat) (t : Trap) : State :=
  let lanes := fun (s : State) (gid : Nat) =>
    let s := s.updGroup gid (fun g => g.updLanes t.lanes (fun _ x => { x with redo := [] }))
    let s := unhold (exitLanes s gid t.lanes) gid tid
    resave (tryEnd s gid) gid
  match t.party with
  | .lanes gid _ => lanes s gid
  | .group gid _ => lanes s gid
  | .engine o => heldByLine (cancelOp s o) o t
  | _ => s

/-- A trap is done with. -/
def dropTrap (s : State) (tid : Nat) : State := { s with traps := FMap.erase s.traps tid }

/-- A handler group leaves its place (R401, R402). -/
def endHandler (s : State) (gid : Nat) : State :=
  match FMap.get? s.groups gid with
  | none => s
  | some g =>
    let s := { dropGroup s gid with blocks := FMap.erase s.blocks g.block }
    s.updCore g.die g.core (fun c => { c with handlers := c.handlers.map (fun (h : Option Nat) => h.filter (· != gid)) })

/-- A handler group that is done ends as EXIT does (R402): it keeps its place, its lanes stopped, until its accesses are performed and the engine
operations that it issued have completed (R134, R135). -/
def leaveHandler (s : State) (gid : Nat) : State :=
  match FMap.get? s.groups gid with
  | none => s
  | some g =>
    if opsOpen s g || inFlight s gid then
      s.putGroup gid { g with
        kind := .handler 0 ((g.handling.map (·.2)).getD 0) none, wait := .run, holds := { g.holds with trap := none },
        lanes := g.lanes.map (fun x => { x with st := if x.st = .ended then .ended else .stopped, redo := [] }) }
    else endHandler s gid

/-- A trap dropped with its party still stopped (R405): its slot is marked done, which the trap unit holds where it cannot be written (R441). -/
def dropSlotted (s : State) (k : Nat) : State :=
  match FMap.get? s.traps k with
  | none => s
  | some t => match t.slot with
    | none => dropTrap s k
    | some i => match writeSlotState s t i 3 with
      | (.ok _, s) => dropTrap s k
      | (.error (e, a), s) => raiseUnit (s.updTrap k (fun t => { t with st := .dropping })) t.die t.area 8 (.trapSlot k) e.cause a

/-- A slot returns to STATE 1 and is delivered again to its rung (R402, R405); the trap unit holds it where it cannot be written (R441). -/
def deliverAgain (s : State) (tid : Nat) : State :=
  match FMap.get? s.traps tid with
  | none => s
  | some t => match t.slot with
    | none => s.updTrap tid (fun t => { t with st := .waiting })
    | some i => match writeSlotState s t i 1 with
      | (.ok _, s) => s.updTrap tid (fun t => { t with st := .slotted })
      | (.error (e, a), s) => raiseUnit (s.updTrap tid (fun t => { t with st := .blocked })) t.die t.area 8 (.trapSlot tid) e.cause a

/-- A trap passes to the next rung, with RUNG raised; its slot stays its own where the area is the same (R402, R403). -/
def escalate (s : State) (tid : Nat) : State :=
  match FMap.get? s.traps tid with
  | none => s
  | some t =>
    let r := min (t.rung + 1) 4
    let area := areaOf s t.die t.ctx r
    s.updTrap tid (fun t => { t with rung := r, area := area, st := .waiting,
                                     slot := if area = t.area then t.slot else none })

/-! ## The all-stop line -/

/-- The line of a context is lowered on every die once no ALLSTOP slot is left (R409): groups, engines and held traps go on in place. -/
def tryLower (s : State) (die ctx : Nat) : State :=
  match s.ctx? die ctx with
  | none => s
  | some x =>
    let up := match x.line with | some l => l.delivered | none => false
    let left := anyIn s.traps (fun _ t => t.ctx == ctx && x.dies.contains t.die && t.allstop)
    if !up || left then s
    else
      let s := foldNames s x.dies (fun s d => s.updCtx d ctx (fun x => { x with line := none }))
      let s := { s with groups := FMap.mapV s.groups (fun _ (g : Group) =>
                          if g.ctx == ctx && x.dies.contains g.die then { g with holds := { g.holds with line := false } } else g),
                        traps := FMap.mapV s.traps (fun _ (t : Trap) =>
                          if t.ctx == ctx && x.dies.contains t.die then { t with held := false } else t),
                        ops := FMap.mapV s.ops (fun _ (o : EngOp) => if o.ctx == ctx && x.dies.contains o.die then { o with lineHeld := false } else o) }
      foldNames s (namesWhere s.groups (fun _ g => g.ctx == ctx && x.dies.contains g.die)) runDue

/-! ## The returns of unit faults (R441) -/

/-- A switch abandoned (R441, R393): the context runs as though it had never been stopped. -/
def abandonSwitch (s : State) (die ctx : Nat) : State :=
  let s := s.updCtx die ctx (fun x => { x with sw := .run, switch := none })
  let mine := fun (g : Group) => g.die == die && g.ctx == ctx
  let s := { s with groups := FMap.mapV s.groups (fun _ (g : Group) => if mine g then { g with holds := { g.holds with switch := false } } else g) }
  foldNames s (namesWhere s.groups (fun _ g => mine g)) runDue

/-- RESUME of a unit fault: the access is made again. -/
def unitAgain (s : State) (tid : Nat) (t : Trap) (w : UnitWork) : State :=
  match w with
  | .frame gid => wakeWhere (unhold s gid tid) (fun _ g => g.die == t.die && g.wait == .ctxForm)
  | .entry gid => unhold s gid tid
  | .slot gid =>
    match FMap.get? s.groups gid with
    | some g => if g.wait = .awaitPlace then parkAwait s gid else resave s gid
    | none => s
  | .trapSlot k =>
    match FMap.get? s.traps k with
    | some t => match t.st with
      | .running h => unhold s h tid
      | .dropping => dropSlotted s k
      | _ => s.updTrap k (fun t => { t with st := .waiting })
    | none => s
  | _ => s

/-- END of a unit fault, by the table of R441. A SPAWN whose kernel table cannot be read raises ADDR (log entry 17). -/
def unitDrop (s : State) (tid : Nat) (t : Trap) (w : UnitWork) : State :=
  match w with
  | .take line => s.updCtx t.die t.ctx (fun x => { x with rewatch := line :: x.rewatch })
  | .node i n => s.updInst i (fun x => { x with nodes := x.nodes.set n .abandoned })
  | .manifest sess k => { s with pkg := { s.pkg with sessions := updIn s.pkg.sessions sess (fun x => { x with refuse := k :: x.refuse }) } }
  | .launchAdd l => s.updLaunch l (fun x => { x with cnt := 0 })
  | .instAdd i =>
    match FMap.get? s.insts i with
    | some x => s.updOp x.op (fun o => { o with cnt := 0 })
    | none => s
  | .frame _ => destroyCtx s t.die t.ctx
  | .slot _ => s
  | .entry gid =>
    match FMap.get? s.groups gid with
    | none => s
    | some g =>
      let s := unhold s gid tid
      let pc := (g.lane ((lanesOf g.mask).headD 0)).pc
      stopGroup s gid g.mask 0 { cause := cAddr, kind := 1, pc := pc, resume := pc, addr := t.fault.addr }
  | .trapSlot k =>
    match FMap.get? s.traps k with
    | none => s
    | some x =>
      let s := match x.st with | .running h => leaveHandler s h | _ => s
      s.updTrap k (fun x => { x with rung := 3, link := 0, area := areaOf s x.die x.ctx 3, slot := none, st := .waiting })
  | .stopRec u => s.updCtx t.die t.ctx (fun x => { x with line := x.line.map (fun l => { l with done := u :: l.done, norec := true }) })
  | .image false => abandonSwitch s t.die t.ctx
  | .image true => s.updCtx t.die t.ctx (fun x => { x with retryAt := (s.die t.die).cycle + 8192 })

/-! ## Rung D -/

/-- Helm serves a trap at rung D (R406): what TRAP.d raised there resumes, and a TRAP of a lower rung that came up is as any other trap. A berth notice
has no faulting context. -/
def helmServe (s : State) (tid : Nat) (t : Trap) : State :=
  if t.fault.cause = cSoft ∧ t.home = 4 then
    resumeParty (dropTrap (s.logged (.soft t.fault.code)) tid) tid t
  else if t.fault.cause = cHandler then
    let s := destroyAll (dropTrap (s.logged (.fatal t.die)) tid) t.die
    let s := (s.updMg t.die (fun m => { m with replace := true })).logged (.media t.die)
    retireDie s t.die
  else
    let s := dropTrap (s.logged (.rungD t.fault)) tid
    if t.party = .notice ∧ t.fault.cause = cBerth then s else destroyCtx s t.die t.ctx

/-! ## Delivery (R397-R401, R405) -/

/-- A trap with no handler to serve it raises HANDLER_FETCH at the rung above (R405). -/
def raiseFetch (s : State) (tid : Nat) (t : Trap) (entry : DWord) : State :=
  let link := match t.slot with | some i => slotAddr s t.die t.area i | none => 0
  let (id, s) := s.fresh
  let rung := usableRung s t.die t.ctx (t.rung + 1)
  let s := s.updTrap tid (fun t => { t with st := .blocked })
  let x : Trap := { die := t.die, ctx := t.ctx, rung := rung, home := rung, party := .fetch tid, link := link, core := t.core, gslot := t.gslot,
                    area := areaOf s t.die t.ctx rung,
                    fault := { cause := cHandler, kind := 5, addr := entry, asid := t.fault.asid, gen := t.fault.gen } }
  s.putTrap id (x.about s t)

/-- Whether a kernel may serve as a handler (R401). -/
def handlerKernel (k : Kernel) : Bool :=
  k.groups == 1 && k.tiles == 0 && k.spad == 0 && k.deep == 0 && decide (k.regs ≤ 32)

/-- A handler group whose first fetch faults is not placed: HANDLER_FETCH in its stead (R405). -/
def handlerUnplaced (s : State) (gid tid : Nat) (entry : DWord) : State :=
  let s := endHandler s gid
  match FMap.get? s.traps tid with
  | some t => raiseFetch s tid t entry
  | none => s

/-- The handler group of a trap placed, or HANDLER_FETCH raised when its entry will not do or its first fetch faults (R401, R405). A kernel table that
cannot be read is a fault of the trap unit (R441). With no place free, or eight handlers at the rung, or a lower slot waiting, nothing comes about. Its core makes the consumer half that answers the
trap unit's publish (R258; log entry 31). -/
def placeHandler (s : State) (tid : Nat) (t : Trap) : Option State :=
  let q := t.gslot / 16
  let earlier := anyIn s.traps (fun k x => k != tid && x.die == t.die && x.rung == t.rung && x.st == .slotted &&
    decide (x.slot.getD 4096 < t.slot.getD 4096))
  if earlier || decide (handlersAt s t.die t.rung ≥ 8) then none
  else
    match handlerPlace s t.die (if t.core = 0xFFFF then 0 else t.core) (if t.core = 0xFFFF then 0 else q) with
    | none => none
    | some (core, q) =>
      let hctx := t.area
      let entry := trapVec s t.die hctx t.rung &&& ~~~3#64
      let slot := match t.slot with | some i => slotAddr s t.die t.area i | none => 0
      match entryKernel s t.die hctx entry with
      | (.ok (some k), s) =>
        if !handlerKernel k then some (raiseFetch s tid t entry)
        else
          let (gid, s) := s.fresh
          let (blk, s) := s.fresh
          let g := { handlerGroup s t.die hctx core q tid t.rung entry slot with block := blk, nregs := k.regs }
          match translate s t.die core hctx g.ring .fetch entry with
          | (.error _, s) => some (raiseFetch s tid t entry)
          | (.ok x, s) =>
            if (placeErr s t.die x.pa).isSome then some (raiseFetch s tid t entry)
            else
              let s := (s.putGroup gid g).putBlock blk { die := t.die, core := core, ctx := hctx, groups := [gid], handler := true }
              let s := s.updCore t.die core (fun c => { c with handlers := c.handlers.set q (some gid) })
              let s := consumerHalf s t.die core (s.ctx t.die hctx).asid true
              some (s.updTrap tid (fun t => { t with st := .running gid }))
      | (.ok none, s) => some (raiseFetch s tid t entry)
      | (.error (e, a), s) => some (raiseUnit (s.updTrap tid (fun t => { t with st := .blocked })) t.die hctx 8 (.trapSlot tid) e.cause a)

/-- TAKING A TRAP (R401): the slot is found and written with STATE 1, a .ten producer half performed, and the handler group placed when a
place is free; at rung D Helm serves it. Nothing while no slot is free (R398). -/
def deliver (s : State) (tid : Nat) (t : Trap) : Option State :=
  let rung := liveRung s t.die t.ctx 5 t.rung
  if rung ≥ 4 then some (helmServe s tid { t with rung := 4 })
  else
    let area := areaOf s t.die t.ctx rung
    let kept := if area = t.area then t.slot else none
    let hold := fun (s : State) (e : AErr) (a : DWord) =>
      some (raiseUnit (s.putTrap tid { t with rung := rung, area := area, slot := kept, st := .blocked }) t.die area 8 (.trapSlot tid) e.cause a)
    match (if kept.isSome then (.ok kept, s) else freeSlot s t.die area) with
    | (.error (e, a), s) => hold s e a
    | (.ok none, _) => none
    | (.ok (some i), s) =>
      let t := { t with rung := rung, area := area, slot := some i, st := .slotted }
      match unitWrite s t.die area (slotAddr s t.die area i) (t.bytes 1) with
      | (.error (e, a), s) => hold s e a
      | (.ok _, s) =>
        let s := producerNow (s.putTrap tid t) t.die area false
        some ((placeHandler s tid t).getD s)

/-! ## Returning (R402, R405, R409, R412, R413, R441) -/

/-- The effect of an ACTION on what a trap concerns (R402); a berth's notice is only acknowledged by any but ESCALATE (R413). -/
def act (s : State) (tid : Nat) (t : Trap) (action : Nat) : State :=
  let action := if action ≥ 4 ∨ (action = 2 ∧ t.rung < 2) then 3 else if t.party = .notice ∧ t.fault.cause = cBerth ∧ action ≠ 3 then 0 else action
  match t.party, action with
  | .fetch k, 0 => deliverAgain (dropTrap s tid) k
  | .fetch k, 1 => dropSlotted (dropTrap s tid) k
  | .fetch k, 3 => escalate (dropTrap s tid) k
  | _, 2 => destroyCtx (dropTrap s tid) t.die t.ctx
  | _, 3 => escalate (s.updTrap tid (fun _ => t)) tid
  | .unit _ w, 0 => unitAgain (dropTrap s tid) tid t w
  | .unit _ w, _ => unitDrop (dropTrap s tid) tid t w
  | .handler h k, 1 => deliverAgain (leaveHandler (dropTrap s tid) h) k
  | .lanes g _, 1 => if t.nested then
      match (FMap.get? s.groups g).bind Group.handling with
      | some (k, _) => deliverAgain (leaveHandler (dropTrap s tid) g) k
      | none => dropTrap s tid
    else endParty (dropTrap s tid) tid t
  | .group g _, 1 => match (FMap.get? s.groups g).bind Group.handling with
      | some (k, _) => deliverAgain (leaveHandler (dropTrap s tid) g) k
      | none => endParty (dropTrap s tid) tid t
  | _, 1 => endParty (dropTrap s tid) tid t
  | _, _ => resumeParty (dropTrap s tid) tid t

/-- RETURNING FROM A TRAP (R402): the slot is read, marked done and freed, the handler group ends, and the ACTION takes effect; the line is
lowered with the last ALLSTOP slot (R409). A slot that cannot be read or written holds the handler group (R441). -/
def returnTrap (s : State) (gid : Nat) (g : Group) : State :=
  match g.handling.bind (fun h => (FMap.get? s.traps h.1).map (fun t => (h.1, t))) with
  | none => leaveHandler s gid
  | some (tid, t) =>
    match t.slot with
    | none => dropTrap (leaveHandler s gid) tid
    | some i =>
      match unitRead s t.die t.area (slotAddr s t.die t.area i) 128 with
      | (.error (e, a), s) => slotFault s gid t tid e a
      | (.ok (b, _), s) => match writeSlotState s t i 3 with
      | (.error (e, a), s) => slotFault s gid t tid e a
      | (.ok _, s) =>
        let action := field b 2 1
        let esc := decide (action ≥ 3) || (decide (action = 2) && decide (t.rung < 2))
        let t := { t with fault := { t.fault with resume := BitVec.ofNat 64 (field b 80 8), data := BitVec.ofNat 128 (field b 104 16) } }
        let s := leaveHandler s gid
        let t' := if esc then t else { t with slot := none }
        let s := act (s.putTrap tid t') tid t' action
        tryLower s t.die t.ctx

/-- TIMEOUT of a late handler group (R404): the group stops, the trap goes to the rung above, and from rung C the line is raised with it. -/
def lateHandler (s : State) (gid : Nat) (g : Group) (tid rung : Nat) : State :=
  let h := FMap.getD s.traps tid {}
  let link := match h.slot with | some i => slotAddr s h.die h.area i | none => 0
  let (id, s) := s.fresh
  let up := usableRung s h.die h.ctx (rung + 1)
  let fatal := rung = 2
  let x : Trap := { die := g.die, ctx := h.ctx, rung := up, home := up, party := .handler gid tid, link := link, core := g.core, gslot := g.gslot,
                    area := areaOf s g.die h.ctx up, fault := stamp s g { cause := cTimeout, kind := 5 } }
  let s := s.putTrap id (if fatal then { x with allstop := true, norec := lateNorec s g.die h.ctx } else x.about s h)
  let s := s.updGroup gid (fun g => { g with holds := { g.holds with trap := some id } })
  if fatal then raiseLine s g.die h.ctx cTimeout else s

/-- Whether a waiting trap may be delivered now (R407, R408): not while it is held, and an ALLSTOP one only when every die has written its
records. -/
def mayDeliver (s : State) (t : Trap) : Bool :=
  !t.held && (!t.allstop || (match (s.ctx t.die t.ctx).line with | some l => l.delivered | none => true))

end Sys2Proof.Machine
end

