-- ==== Sys2Proof/Machine/Control.lean ====
section
/-! DEFINITION. Control flow, frames, spawns, barriers and waits: majors 0x14-0x27 of the uniform space (R127-R146). -/

namespace Sys2Proof.Machine

/-- The issue ends with each issuing lane's next address given. -/
def jumpTo (s : State) (c : Issue) (g : Group) (pcs : Nat → DWord) : State := retireAt s c { g with ldy := 0 } pcs

/-- A word offset as a byte offset (R44). -/
def wordOff {n : Nat} (o : BitVec n) : DWord := (o.signExtend 64) <<< 2

/-- A group as the state now holds it. -/
def regroup (s : State) (c : Issue) (g : Group) : Group := FMap.getD s.groups c.gid g

/-! ## Branches (R127-R131) -/

/-- BRA (R127). -/
def execBra (o : BitVec 21) (s : State) : Out := uniform s (fun c g => .next (jumpTo s c g (fun _ => c.pc + wordOff o)))

/-- The return address pushed by every issuing lane (R128); none when a lane's stack is full. -/
def pushAll (c : Issue) (g : Group) : Option Group :=
  if (lanesOf c.lanes).any (fun l => decide ((g.lane l).rstack.length ≥ 16)) then none
  else some (g.updLanes c.lanes (fun _ x => { x with rstack := (c.pc + 4) :: x.rstack }))

/-- CALL (R127, R128). -/
def execCall (o : BitVec 21) (s : State) : Out :=
  uniform s (fun c g => match pushAll c g with
    | none => .next (groupFault s c cAddr 0)
    | some g => .next (jumpTo s c g (fun _ => c.pc + wordOff o)))

/-- A jump's target pair breaks R129. -/
def targetBad (a : DWord) : Bool := !(canonical a) || a.extractLsb' 0 2 != 0#2

/-- JMP (R129). -/
def execJmp (a : BitVec 6) (s : State) : Out :=
  uniform s (fun c g => orPoison s c g (pairRegs a) (
    if targetBad (g.sPair a) then .next (groupFault s c cAddr (g.sPair a)) else .next (jumpTo s c g (fun _ => g.sPair a))))

/-- JMP.call (R128, R129). -/
def execJmpCall (a : BitVec 6) (s : State) : Out :=
  uniform s (fun c g => orPoison s c g (pairRegs a) (
    if targetBad (g.sPair a) then .next (groupFault s c cAddr (g.sPair a))
    else match pushAll c g with
      | none => .next (groupFault s c cAddr 0)
      | some h => .next (jumpTo s c h (fun _ => g.sPair a))))

/-- The lanes whose predicate has a value branch; the others fall through (R129). -/
def jumpIf (s : State) (n : BitVec 3) (o : BitVec 15) (v : Bool) : Out :=
  uniform s (fun c g => .next (jumpTo s c g (fun l => if g.pred n.toNat l = v then c.pc + wordOff o else c.pc + 4)))

/-- JMP.t (R129). -/
def execJmpT (n : BitVec 3) (o : BitVec 15) (s : State) : Out := jumpIf s n o true

/-- JMP.f (R129). -/
def execJmpF (n : BitVec 3) (o : BitVec 15) (s : State) : Out := jumpIf s n o false

/-- RET (R128, R130): the broadcast address follows the lowest-numbered issuing lane (R217). -/
def execRet (s : State) : Out :=
  uniform s (fun c g =>
    if (lanesOf c.lanes).any (fun l => (g.lane l).rstack.isEmpty) then .next (groupFault s c cAddr 0)
    else
      let dest := fun l => (g.lane l).rstack.headD 0
      let low := dest ((lanesOf c.lanes).headD 0)
      let h := g.updLanes c.lanes (fun _ x => { x with rstack := x.rstack.tail })
      let s := jumpTo s c h dest
      .next (if g.b = c.pc then s.updGroup c.gid (fun g => { g with b := low }) else s))

/-- LOOP (R131). -/
def execLoop (d : BitVec 6) (i : BitVec 15) (s : State) : Out :=
  uniform s (fun c g => orPoison s c g [d.toNat] (
    let n := g.sv d
    if n.toNat ≤ 1 then .next (jumpTo s c (g.write [(.s d.toNat, reg 0)]) (fun _ => c.pc + 4))
    else .next (jumpTo s c (g.write [(.s d.toNat, reg (n - 1))]) (fun _ => c.pc + wordOff i))))

/-! ## Convergence and exit (R132-R134) -/

/-- The lanes of an issue that a CONV's mask names wait; the others pass; sets that are complete are released (R132, R133). -/
def convOp (s : State) (c : Issue) (g : Group) (m : Word) : State :=
  let hold := c.lanes &&& m
  let h := g.updLanes hold (fun _ x => { x with st := .waiting, convMask := m })
  let s := jumpTo s c h (fun l => if hold.getLsbD l then c.pc else c.pc + 4)
  s.updGroup c.gid Group.convSettle

/-- CONV (R132). -/
def execConv (a : BitVec 6) (s : State) : Out :=
  uniform s (fun c g => waitFirst s c g (orPoison s c g [a.toNat] (.next (convOp s c g (g.sv a)))))

/-- CONV.all (R132). -/
def execConvAll (s : State) : Out := uniform s (fun c g => waitFirst s c g (.next (convOp s c g 0xFFFFFFFF#32)))

/-- EXIT (R134, R135); in a handler group it acts as ERET (R402). -/
def execExit (s : State) : Out :=
  uniform s (fun c g => waitFirst s c g (drainFirst s c (
    match g.kind with
    | .handler _ _ _ => .next (returnTrap (endIssue (producerNow s g.die g.ctx false) c.gid) c.gid g)
    | _ => .next (tryEnd (exitLanes (jumpTo s c g (fun _ => c.pc)) c.gid c.lanes) c.gid))))

/-! ## Frames and spawns (R136-R140) -/

/-- FRAME.OPEN (R136). -/
def execFrameOpen (s : State) : Out :=
  uniform s (fun c g =>
    if frameDepth s g ≥ 64 then .next (groupFault s c cAddr 0)
    else if endsOwed s g && inFlight s c.gid then .next (stall s c .drain)
    else match ((FMap.get? s.launches g.launch).map (·.free)).getD [] with
      | [] => .next (stall s c .pool)
      | r :: _ =>
        let s := flushEnds s c.gid
        let s := openFrame s c.gid (regroup s c g) r
        .next (retire s c (regroup s c g)))

/-- A kernel that SPAWN.L and SPAWN.G may name (R137). -/
def freeKernel (k : Kernel) : Bool := k.groups == 1 && k.spad == 0 && k.tiles == 0

/-- A child of a group's innermost frame, with the record that holds it until it is placed (R137). -/
def newChild (g : Group) (k : Kernel) (entry : DWord) (kind : ChildKind) (owner : Option Nat) (source : Nat) (rec : DWord) (det : Bool)
    (fid parent : Nat) (x0 x1 : Reg) : Child :=
  { kind := kind, frame := fid, parent := parent, owner := owner, source := source, record := rec, die := g.die, ctx := g.ctx,
    launch := g.launch, kernel := k, entry := entry, arg0 := x0, arg1 := x1, det := det }

/-- Children numbered and handed to the spawn unit, in order (R137). -/
def addChildren (s : State) (fid : Nat) (cs : List Child) : State :=
  cs.foldl (fun s c =>
    let (id, s) := s.fresh
    let f := FMap.getD s.frames fid {}
    (s.putChild id { c with index := f.next }).updFrame fid (fun f => { f with count := f.count + 1, next := f.next + 1 })) s

/-- The record of a packed group of unplaced strands that quads of one more issue join (R137, R138; log entry 58): of the same entry and root launch, with
places left for them among its eight. -/
def packInto (s : State) (g : Group) (entry : DWord) (cs : List Child) : Option DWord :=
  if cs.any (fun x => x.kind != .strand) then none
  else
    let mine := (s.children.map (·.2)).filter (fun x => x.kind == .strand && x.st == .held && x.die == g.die && x.ctx == g.ctx &&
      x.launch == g.launch && x.entry == entry)
    ((mine.map (·.record)).dedup).find? (fun r =>
      decide ((((mine.filter (fun x => x.record == r)) ++ cs).map (·.source)).dedup.length ≤ 8))

/-- The children of an issue handed to the spawn unit under a record. -/
def spawnUnder (s : State) (c : Issue) (g : Group) (fid : Nat) (cs : List Child) (r : DWord) : State :=
  let s := s.updLaunch g.launch (fun x => { x with free := x.free.filter (· != r) })
  let s := addChildren s fid (cs.map (fun x => { x with record := r }))
  retire s c (regroup s c g)

/-- The course of a SPAWN (R137): the group's stores performed (R258), the entry looked up, its rules checked, and the record found that holds the
issue's children: strands go with a packed group that has room, else a free record of the root launch is taken. -/
def spawnOp (s : State) (a : BitVec 6) (fits : Group → Kernel → Bool)
    (kids : Nat → Issue → Group → Kernel → Nat → DWord → Bool → List Child) : Out :=
  uniform s (fun c g => orPoison s c g (pairRegs a) (drainFirst s c (
    let entry := g.sPair a
    match g.frames with
    | [] => .next (groupFault s c cAddr entry)
    | fid :: _ =>
      match entryKernel s g.die g.ctx entry (holdOf s g c.lanes) with
      | (.error (e, va), s) =>
        let n := s.model.nextId
        let s := raiseUnit s g.die g.ctx 7 (.entry c.gid) e.cause va
        .next (endIssue (s.updGroup c.gid (fun g => { g with holds := { g.holds with trap := some n }, mask := c.lanes })) c.gid)
      | (.ok none, s) => .next (groupFault s c cAddr entry)
      | (.ok (some k), s) =>
        let f := FMap.getD s.frames fid {}
        let (batch, s) := s.fresh
        let cs := kids batch c g k fid 0 f.det
        if !fits g k || decide (f.next + cs.length > 0xFFFFFFFF) then .next (groupFault s c cAddr entry)
        else if cs.isEmpty then .next (retire s c g)
        else match packInto s g entry cs, ((FMap.get? s.launches g.launch).map (·.free)).getD [] with
          | some r, _ => .next (spawnUnder s c g fid cs r)
          | none, [] => .next (stall s c .childRoom)
          | none, r :: _ => .next (spawnUnder s c g fid cs r))))

/-- SPAWN.L (R138): one strand for each issuing lane that is no helper and whose predicate is true. -/
def execSpawnL (a b : BitVec 6) (n : BitVec 3) (s : State) : Out :=
  spawnOp s a (fun _ k => freeKernel k) (fun batch c g k fid r det =>
    ((lanesOf c.lanes).filter (fun l => !(g.lane l).helper && g.pred n.toNat l)).map (fun l =>
      newChild g k (g.sPair a) .strand (g.lane l).child (batch * 8 + l / 4) r det fid c.gid
        (g.readV (2 * b.toNat) l) (g.readV (2 * b.toNat + 1) l)))

/-- The one child of SPAWN.G and SPAWN.B (R139), owned by the lowest issuing lane that is no helper. -/
def oneChild (kind : ChildKind) (a b : BitVec 6) (batch : Nat) (c : Issue) (g : Group) (k : Kernel) (fid : Nat) (r : DWord) (det : Bool) :
    List Child :=
  match (lanesOf c.lanes).find? (fun l => !(g.lane l).helper) with
  | none => []
  | some l => [newChild g k (g.sPair a) kind (g.lane l).child (batch * 8) r det fid c.gid (g.readS b.toNat) (g.readS (b.toNat + 1))]

/-- SPAWN.G (R139). -/
def execSpawnG (a b : BitVec 6) (s : State) : Out := spawnOp s a (fun _ k => freeKernel k) (oneChild .group a b)

/-- SPAWN.B (R137, R139). -/
def execSpawnB (a b : BitVec 6) (s : State) : Out :=
  spawnOp s a (fun g k => fitsEmpty k (effCarve s g.die g.ctx)) (oneChild .block a b)

/-- AWAIT (R140): the frame closes at once, or the group parks, its issuing lanes still at the AWAIT. -/
def execAwait (s : State) : Out :=
  uniform s (fun c g => waitFirst s c g (drainFirst s c (
    match g.frames with
    | [] => .next (retire s c g)
    | fid :: _ =>
      if (FMap.getD s.frames fid {}).count = 0 then
        match closeFrame s c.gid g fid with
        | .done s => .next (retire s c (regroup s c g))
        | .refused cause va s => .next (groupFault s c cause va)
        | .held s => .next (endIssue s c.gid)
      else
        let s := s.updFrame fid (fun f => { f with cont := c.pc + 4, awaiting := true })
        .next (parkAwait (endIssue (s.putGroup c.gid { g with ldy := 0, lastIssue := (s.die g.die).cycle, mask := c.lanes }) c.gid) c.gid))))

/-! ## Barriers (R142-R144) -/

/-- The barrier that a group reaches: its block's, or its cluster's; none for a cluster barrier of a free-standing group (R142). -/
def barOf (s : State) (g : Group) (clu : Bool) (id : Nat) : Option Bar :=
  let b := FMap.getD s.blocks g.block {}
  if clu then
    if g.free || b.handler then none else some (FMap.getD (FMap.getD s.clusters b.cluster {}).bars id {})
  else some (FMap.getD b.bars id {})

/-- A barrier written back. -/
def putBar (s : State) (g : Group) (clu : Bool) (id : Nat) (x : Bar) : State :=
  let b := FMap.getD s.blocks g.block {}
  if clu then { s with clusters := updIn s.clusters b.cluster (fun c => { c with bars := FMap.put c.bars id x }) }
  else s.updBlock g.block (fun b => { b with bars := FMap.put b.bars id x })

/-- The live groups that a count of 0 stands for (R143): those with a lane that has not exited. -/
def liveGroups (s : State) (g : Group) (clu : Bool) : Nat :=
  let b := FMap.getD s.blocks g.block {}
  let blocks := if clu then (FMap.getD s.clusters b.cluster {}).blocks else [g.block]
  ((blocks.flatMap (fun k => (FMap.getD s.blocks k {}).groups)).filter (fun k => !(FMap.getD s.groups k {}).over)).length

/-- An arrival (R143): the token, and the waiters woken, each with its core's L1 self-invalidated, when the phase completes (R144). -/
def arriveBar (s : State) (g : Group) (clu : Bool) (id : Nat) (x : Bar) (count : Word) : Bool × State :=
  let c := if bits count.toNat 10 0 = 0 then liveGroups s g clu else bits count.toNat 10 0
  let expected := if x.arrivals = 0 then c else x.expected
  if x.arrivals + 1 ≥ expected then
    let s := putBar s g clu id { x with arrivals := 0, expected := expected, phase := !x.phase, waiters := [] }
    let s := x.waiters.foldl (fun s w => match FMap.get? s.groups w with
      | some h => (s.updCore h.die h.core (fun k => l1Self k (s.ctx h.die h.ctx).asid)).putGroup w (h.wakeAt (s.die h.die).cycle)
      | none => s) s
    (x.phase, s)
  else (x.phase, putBar s g clu id { x with arrivals := x.arrivals + 1, expected := expected })

/-- Waiting on a token (R143): the group has passed the instruction, and parks while the token is the barrier's phase; else it subscribes
at once (R144). -/
def waitBar (s : State) (c : Issue) (g : Group) (clu : Bool) (id : Nat) (token : Bool) : State :=
  match barOf s g clu id with
  | none => groupFault s c cAddr 0
  | some x =>
    if token = x.phase then
      let s := retire s c g
      let s := putBar s g clu id { x with waiters := x.waiters ++ [c.gid] }
      settleActive (s.updGroup c.gid (fun g => { g with wait := .barrier clu id token })) c.gid
    else retire (s.updCore g.die g.core (fun k => l1Self k (s.ctx g.die g.ctx).asid)) c g

/-- The checks of an arrival's count (R118, R143), and of a cluster barrier's use (R142). -/
def withBar (s : State) (c : Issue) (g : Group) (clu : Bool) (id : Nat) (a : BitVec 6) (k : Bar → Out) : Out :=
  orPoison s c g [a.toNat] (
    if bits (g.sv a).toNat 31 11 ≠ 0 then .next (groupFault s c cAddr 0)
    else match barOf s g clu id with
      | none => .next (groupFault s c cAddr 0)
      | some x => drainFirst s c (k x))

/-- BAR.ARRIVE at a block or cluster barrier (R143). -/
def arriveOp (s : State) (clu : Bool) (id : Nat) (a b : BitVec 6) : Out :=
  uniform s (fun c g => withBar s c g clu id a (fun x =>
    let (t, s) := arriveBar s g clu id x (g.sv a)
    .next (retire s c ((regroup s c g).write [(.s b.toNat, preg t)]))))

/-- BAR.WAIT at a block or cluster barrier (R143). -/
def waitOp (s : State) (clu : Bool) (id : Nat) (b : BitVec 6) : Out :=
  uniform s (fun c g => waitFirst s c g (.next (waitBar s c g clu id ((g.sv b).getLsbD 0))))

/-- BAR.SYNC at a block or cluster barrier (R143). -/
def syncOp (s : State) (clu : Bool) (id : Nat) (a : BitVec 6) : Out :=
  uniform s (fun c g => waitFirst s c g (withBar s c g clu id a (fun x =>
    let (t, s) := arriveBar s g clu id x (g.sv a)
    .next (waitBar s c (regroup s c g) clu id t))))

/-- BAR.ARRIVE (R143). -/
def execBarArrive (i : BitVec 4) (a b : BitVec 6) (s : State) : Out := arriveOp s false i.toNat a b

/-- BAR.WAIT (R143). -/
def execBarWait (i : BitVec 4) (b : BitVec 6) (s : State) : Out := waitOp s false i.toNat b

/-- BAR.SYNC (R143). -/
def execBarSync (i : BitVec 4) (a : BitVec 6) (s : State) : Out := syncOp s false i.toNat a

/-- BAR.ARRIVE.clu (R143). -/
def execBarArriveClu (i : BitVec 3) (a b : BitVec 6) (s : State) : Out := arriveOp s true i.toNat a b

/-- BAR.WAIT.clu (R143). -/
def execBarWaitClu (i : BitVec 3) (b : BitVec 6) (s : State) : Out := waitOp s true i.toNat b

/-- BAR.SYNC.clu (R143). -/
def execBarSyncClu (i : BitVec 3) (a : BitVec 6) (s : State) : Out := syncOp s true i.toNat a

/-! ## WAITGE and YIELD (R145, R146) -/

/-- The record of a WAITGE's failed read (R145, R396). -/
def waitRecord (s : State) (g : Group) (cause : Byte) (va : DWord) (tr : Bool) : FaultRec :=
  { cause := cause, flags := BitVec.ofNat 8 (1 + 8 * bitOf tr), width := 8, addr := va,
    gen := s.gen (s.ctx g.die g.ctx).asid }

/-- The record of a WAITGE on a lost word: the cause that lost it, CODE its fabric-window entry (R365, R412). -/
def lostRecord (s : State) (die pa : Nat) (va : DWord) : FaultRec :=
  match regionOf s.fit pa with
  | .fabric off => match fwinMatch (s.die die) off with
    | some (k, e) => { cause := if e.viral then cViral else cLost, addr := va, code := BitVec.ofNat 32 k }
    | none => { cause := cLost, addr := va }
  | _ => { cause := cLost, addr := va }

/-- WAITGE and WAITGE.sys (R145): park until the word reaches the value. -/
def waitgeOp (s : State) (a b : BitVec 6) (sys : Bool) : Out :=
  uniform s (fun c g => waitFirst s c g (orPoison s c g (pairRegs a ++ pairRegs b) (drainFirst s c (
    let va := g.sPair a
    let kid := holdOf s g c.lanes
    if addrBad va 8 then .next (groupFault s c cAddr va)
    else match xlNeeds s g.die g.core g.ctx g.ring va [.read] { gid := some c.gid, child := kid } with
      | (.error e, s) =>
        if fatalErr (some e) then .next (groupFaultBy s c (waitRecord s g e.cause va true)) else .next (issueFault s c (waitRecord s g e.cause va true))
      | (.ok x, s) =>
        match mpCheck s g.die x.pa sys, placeErr s g.die x.pa with
        | some cause, _ => .next (if cause = cAddr then groupFault s c cause va else groupFaultBy s c (waitRecord s g cause va false))
        | none, some .lost => .next (groupFaultBy s c (lostRecord s g.die x.pa va))
        | none, some e => if fatalErr (some e) then .next (groupFaultBy s c (waitRecord s g e.cause va false)) else .next (issueFault s c (waitRecord s g e.cause va false))
        | none, none =>
          let (lost, s) := homeRead (claimLine s g.die g.ctx (va.toNat / 128)) g.die x.pa 8
          if lost || viewMark s g.die kid x.pa then .next (groupFault s c cPoison va)
          else
            let (w, s) := viewLoc s g.die kid x.pa true
            if w.toNat ≥ (g.sPair b).toNat then .next (retire (consumerHalf s g.die g.core (s.ctx g.die g.ctx).asid true) c g)
            else .next (stall s c (.waitge sys x.pa (g.sPair b)))))))

/-- WAITGE (R145). -/
def execWaitge (a b : BitVec 6) (s : State) : Out := waitgeOp s a b false

/-- WAITGE.sys (R145). -/
def execWaitgeSys (a b : BitVec 6) (s : State) : Out := waitgeOp s a b true

/-- YIELD (R146): the group gives its active place away, unless its own wait has just done so (R232). -/
def execYield (s : State) : Out :=
  uniform s (fun c g =>
    let s := retire s c g
    let g := regroup s c g
    .next (if g.active then swapActive s c.gid g else s))

end Sys2Proof.Machine
end

