-- ==== Sys2Proof/Machine/System.lean ====
section
/-! DEFINITION. The system instructions: CSRs (R35-R38, R147), TRAP, ERET, BRK and NOP (R148, R402, R415), ASGEN and TLBI (R149, R150, R329). -/

namespace Sys2Proof.Machine

/-! ## CSRs -/

/-- Bits [63:57] as copies of bit 56. -/
def signCopies (x : DWord) : DWord := (x.extractLsb' 0 57).signExtend 64

/-- A CSR as a group reads it (R36). -/
def csrRead (s : State) (g : Group) (a : Nat) : DWord :=
  let d := s.die g.die
  let x := s.ctx g.die g.ctx
  match a with
  | 0x000 => BitVec.ofNat 64 d.cycle
  | 0x400 => x.carve
  | 0x401 => x.determ
  | 0x402 => x.framebase
  | 0x403 => x.savebase
  | 0x404 => x.stopbase
  | 0x410 => x.trapvec.getD 0 0
  | 0x411 => x.trapvec.getD 1 0
  | 0x412 => x.trapvec.getD 2 0
  | 0x418 => x.traptmo.getD 0 0
  | 0x419 => x.traptmo.getD 1 0
  | 0x41A => x.traptmo.getD 2 0
  | 0x800 => d.trapcfg
  | 0x801 => d.mpolicy
  | 0x802 => d.limit
  | 0x803 => x.asctl
  | 0x813 => d.trapvecP
  | 0x81B => d.traptmoP
  | 0xC14 => d.trapvecD
  | _ => d.traptmoD

/-- CARVE as it stores a value (R239). -/
def carveOf (s : State) (die : Nat) (v : DWord) : DWord := BitVec.ofNat 64 (min (bits v.toNat 2 0) (bits (s.die die).limit.toNat 2 0))

/-- DETERM as it stores a value (R271). -/
def determOf (v : DWord) : DWord :=
  (v &&& 0x01FFFFFFFFFFFF81#64) ||| (BitVec.ofNat 64 (max 10 (min 24 (bits v.toNat 61 57))) <<< 57)

/-- FRAMEBASE as it stores a value (R265). -/
def framebaseOf (v : DWord) : DWord := (v &&& 0x01FFFFFFFFFFFF80#64) ||| (BitVec.ofNat 64 (min 24 (bits v.toNat 61 57)) <<< 57)

/-- SAVEBASE as it stores a value (R380). -/
def savebaseOf (v : DWord) : DWord :=
  (signCopies v &&& ~~~0xFF#64) ||| BitVec.ofNat 64 (min (bits v.toNat 7 0) (bits v.toNat 19 8))

/-- STOPBASE as it stores a value (R397). -/
def stopbaseOf (v : DWord) : DWord := signCopies v &&& ~~~0x7FFFFE#64

/-- TRAPVEC and TRAPTMO as they store a value (R399). -/
def trapvecOf (v : DWord) : DWord := signCopies v &&& ~~~2#64
def traptmoOf (v : DWord) : DWord := v &&& 0xFFFFFFFF#64

/-- A CSR written by a group: reserved fields read zero, CYCLE is read only (R12, R13, R37, R38, R239, R252, R265, R271, R311, R380, R397, R399,
R400). -/
def csrWrite (s : State) (g : Group) (a : Nat) (v : DWord) : State :=
  let ctx := fun (f : Ctx → Ctx) => s.updCtx g.die g.ctx f
  let die := fun (f : Die → Die) => s.updDie g.die f
  match a with
  | 0x000 => s
  | 0x400 => ctx (fun x => { x with carve := carveOf s g.die v })
  | 0x401 => ctx (fun x => { x with determ := determOf v })
  | 0x402 => ctx (fun x => { x with framebase := framebaseOf v })
  | 0x403 => ctx (fun x => { x with savebase := savebaseOf v })
  | 0x404 => ctx (fun x => { x with stopbase := stopbaseOf v })
  | 0x410 => ctx (fun x => { x with trapvec := x.trapvec.set 0 (trapvecOf v) })
  | 0x411 => ctx (fun x => { x with trapvec := x.trapvec.set 1 (trapvecOf v) })
  | 0x412 => ctx (fun x => { x with trapvec := x.trapvec.set 2 (trapvecOf v) })
  | 0x418 => ctx (fun x => { x with traptmo := x.traptmo.set 0 (traptmoOf v) })
  | 0x419 => ctx (fun x => { x with traptmo := x.traptmo.set 1 (traptmoOf v) })
  | 0x41A => ctx (fun x => { x with traptmo := x.traptmo.set 2 (traptmoOf v) })
  | 0x800 => die (fun x => { x with trapcfg := v &&& 0x3F01#64 })
  | 0x801 => die (fun x => { x with mpolicy := v &&& 0xF#64 })
  | 0x802 => die (fun x => { x with limit := v &&& 7#64 })
  | 0x803 => ctx (fun x => { x with asctl := v &&& ~~~0xFFE#64 })
  | 0x813 => die (fun x => { x with trapvecP := trapvecOf v })
  | 0x81B => die (fun x => { x with traptmoP := traptmoOf v })
  | 0xC14 => die (fun x => { x with trapvecD := trapvecOf v })
  | _ => die (fun x => { x with traptmoD := traptmoOf v })

/-- A ring too low for a CSR's address raises PROTECT (R35). -/
def csrDenied (g : Group) (c : BitVec 12) : Bool := decide (g.ring.toNat < (c.extractLsb' 10 2).toNat)

/-- CSRR (R147): a variable-latency read. -/
def execCsrr (d : BitVec 6) (a : BitVec 12) (s : State) : Out :=
  uniform s (fun c g =>
    if csrDenied g a then .next (groupFault s c cProtect 0)
    else
      let (id, s) := s.fresh
      .next (retire s c (g.defer id none (spairWrites d.toNat (csrRead s g a.toNat) false) false)))

/-- CSRW (R147). -/
def execCsrw (d : BitVec 6) (a : BitVec 12) (s : State) : Out :=
  uniform s (fun c g => orPoison s c g (pairRegs d) (
    if csrDenied g a then .next (groupFault s c cProtect 0)
    else .next (retire (csrWrite s g a.toNat (g.sPair d)) c g)))

/-! ## Traps and the debugger -/

/-- TRAP (R41, R148): the group has passed it, waits where it is marked, and parks whole, its record resuming past the TRAP. -/
def execTrap (a : BitVec 6) (r : BitVec 3) (s : State) : Out :=
  uniform s (fun c g =>
    if g.ring = 0 ∧ r.toNat ≥ 3 then .next (groupFault s c cProtect 0)
    else .next (stopGroup (retire s c g) c.gid c.lanes r.toNat
      { cause := cSoft, kind := 4, pc := c.pc, resume := c.pc + 4, word := c.word, code := g.sv a }))

/-- ERET (R148, R402): PROTECT outside a handler group. -/
def execEret (s : State) : Out :=
  uniform s (fun c g =>
    match g.kind with
    | .handler _ _ _ => drainFirst s c (.next (returnTrap (endIssue (producerNow s g.die g.ctx false) c.gid) c.gid g))
    | _ => .next (groupFault s c cProtect 0))

/-- BRK (R148, R415): with the context's debug enable set the group stops past it, else it does nothing. -/
def execBrk (s : State) : Out :=
  uniform s (fun c g =>
    let s' := retire s c g
    .next (if (dbgWin s g.die g.ctx).en then s'.updGroup c.gid (fun g => { g with dbg := .stopped }) else s'))

/-- NOP (R48). -/
def execNop (s : State) : Out := uniform s (fun c g => .next (retire s c g))

/-! ## Address spaces -/

/-- Whether the ASID map gives an address space to a die's virtual function (R439). -/
def asidOwned (s : State) (die asid : Nat) : Bool :=
  let e := FMap.getD s.pkg.asidmap asid {}
  e.assigned && e.vf == (s.die die).mg.vf

/-- The checks of an ASID operand (R149, R150): ADDR for high bits, PROTECT for the ring or the map; then the producer half of a .sys publish
(R329). -/
def asidOp (s : State) (c : Issue) (g : Group) (x : Word) (ring : Nat) (k : State → Nat → Out) : Out :=
  if bits x.toNat 31 12 ≠ 0 then .next (groupFault s c cAddr 0)
  else if g.ring.toNat < ring || !asidOwned s g.die x.toNat then .next (groupFault s c cProtect 0)
  else drainFirst s c (k (producerNow s g.die g.ctx true) x.toNat)

/-- The group has passed an instruction and parks until it is in force everywhere. -/
def parkPast (s : State) (c : Issue) (g : Group) (w : GWait) : State := (retire s c g).updGroup c.gid (fun g => { g with wait := w })

/-- ASGEN (R149, R224, R329): the new generation comes into force at ASGEN_IN_FORCE, and is outstanding for sb from now on. -/
def execAsgen (a b : BitVec 6) (s : State) : Out :=
  uniform s (fun c g => orPoison s c g [a.toNat] (
    asidOp s c g (g.sv a) 1 (fun s asid =>
      let (id, s) := s.fresh
      let g := { g with pend := g.pend ++ [{ id := id, lane := none, dsts := [some (.s b.toNat)], st := .waiting, mem := false, acc := none, mask := 0 }] }
      .next (parkPast s c g (.asgen asid id c.hdr.m)))))

/-- TLBI.asid (R150). -/
def execTlbiAsid (a : BitVec 6) (s : State) : Out :=
  uniform s (fun c g => orPoison s c g [a.toNat] (
    asidOp s c g (g.sv a) 1 (fun s asid => .next (parkPast s c g (.tlbi 1 asid 0 c.hdr.m)))))

/-- TLBI.page (R150). -/
def execTlbiPage (a b : BitVec 6) (s : State) : Out :=
  uniform s (fun c g => orPoison s c g (pairRegs a ++ [b.toNat]) (
    asidOp s c g (g.sv b) 1 (fun s asid => .next (parkPast s c g (.tlbi 2 asid (g.sPair a) c.hdr.m)))))

/-- TLBI.all (R150). -/
def execTlbiAll (s : State) : Out :=
  uniform s (fun c g =>
    if g.ring.toNat < 2 then .next (groupFault s c cProtect 0)
    else drainFirst s c (.next (parkPast (producerNow s g.die g.ctx true) c g (.tlbi 3 0 0 c.hdr.m))))

end Sys2Proof.Machine
end

