-- ==== Sys2Proof/Machine/Engines.lean ====
section
/-! DEFINITION. What every engine command and engine operation shares: the course of an issue (R174, R175, R178), holding at a fault
(R179), completion records and counter adds (R176, R177), and the end of an operation. -/

namespace Sys2Proof.Machine

/-! ## Issue (R174) -/

/-- The block of an engine command read at issue (R174, R175): PAGE, GEN_STALE and BERTH_REVOKED park every issuing lane with one record;
poisoned bytes raise POISON. -/
def blockRead (s : State) (c : Issue) (g : Group) (va : DWord) (n : Nat) (k : State → List Byte → Out) : Out :=
  match vRead s g.die g.core g.ctx g.ring (holdOf s g c.lanes) va n with
  | (.error (.lost, _), s) => .next (groupFault s c cPoison 0)
  | (.error (e, a), s) =>
    let r := { waitRecord s g e.cause a (failsXl s g.die g.core g.ctx g.ring .read a (holdOf s g c.lanes)) with width := BitVec.ofNat 8 n }
    if fatalErr (some e) then .next (groupFaultBy s c r) else .next (issueFault s c r)
  | (.ok (b, bad), s) => if bad then .next (groupFault s c cPoison 0) else k s b

/-- The course of an engine command up to its block (R174): parked while its queue is full, POISON for a tagged pair, the group's own writes
performed, ADDR for a bad address, the block read. -/
def engIssue (s : State) (a : BitVec 6) (more : List Nat) (full : State → Issue → Group → Bool) (al n : Nat)
    (k : State → Issue → Group → DWord → List Byte → Out) : Out :=
  uniform s (fun c g =>
    if full s c g then .next (stall s c .queue)
    else orPoison s c g (pairRegs a ++ more) (drainFirst s c (
      let p := g.sPair a
      if addrBad p al then .next (groupFault s c cAddr p) else blockRead s c g p n (fun s b => k s c g p b))))

/-- A non-zero pointer field breaks its alignment or is not canonical (R176, R177). -/
def ptrBad (x : Nat) (al : Nat) : Bool := x != 0 && addrBad (BitVec.ofNat 64 x) al

/-- A field that must be a canonical multiple of a size breaks that. -/
def baseBad (x : Nat) (al : Nat) : Bool := addrBad (BitVec.ofNat 64 x) al

/-- Where a counter of a .sys add lies, if its address translates now (R178, R252). -/
def csysAt (s : State) (g : Group) (csys : Bool) (cnt : Nat) : Option (Except AErr Xl) :=
  if csys && cnt != 0 then some (xlNeeds s g.die g.core g.ctx g.ring (BitVec.ofNat 64 cnt) [.write]).1 else none

/-- Whether MPOLICY refuses a counter add at .sys (R178, R252). -/
def csysRefused (s : State) (g : Group) (csys : Bool) (cnt : Nat) : Bool :=
  match csysAt s g csys cnt with
  | some (.ok x) => mpCheck s g.die x.pa true == some cProtect
  | _ => false

/-- Whether that could not be told, the address not translating: then the add itself asks (log entry 17). -/
def csysOwed (s : State) (g : Group) (csys : Bool) (cnt : Nat) : Bool := match csysAt s g csys cnt with | some (.error _) => true | _ => false

/-- The child that an issue acts for: that of its lowest lane that is no helper (R266, R436). -/
def issueKid (c : Issue) (g : Group) : Option Nat := (g.lane ((lanesOf (c.lanes &&& g.nonHelpers)).headD 0)).child

/-- An operation as its issue takes it (R174, R436). -/
def newOp (s : State) (c : Issue) (g : Group) (kind : OpKind) (va : DWord) (b : List Byte) (cnt inc : Nat) (csys : Bool) (rec : Nat) : EngOp :=
  { kind := kind, gid := c.gid, block := g.block, die := g.die, core := g.core, ctx := g.ctx, ring := g.ring, child := holdOf s g c.lanes,
    kid := issueKid c g, addr := va, params := b, cnt := BitVec.ofNat 64 cnt, inc := inc, csys := csys, owed := csysOwed s g csys cnt,
    recAddr := BitVec.ofNat 64 rec, recKeep := BitVec.ofNat 64 rec }

/-- The operation enters its queue and the group goes on (R174). -/
def enqueue (s : State) (c : Issue) (g : Group) (x : EngOp) (put : State → Nat → State) : Out :=
  let (id, s) := s.fresh
  let s := flushEnds (put (s.putOp id x) id) c.gid
  let g := FMap.getD s.groups c.gid g
  .next (retire s c { g with ops := g.ops ++ [id] })

/-! ## Holding at a fault (R179) -/

/-- The number of an engine in a fault record (R396). -/
def OpKind.word : OpKind → Nat
  | .chain _ => 1
  | .mcmd => 2
  | .attn => 3
  | .unmask => 4
  | .coll => 5
  | _ => 6

/-- A barge channel of a core. -/
def Core.chan (c : Core) (ch : Nat) : Chan := if ch = 0 then c.chan0 else c.chan1
def Core.setChan (c : Core) (ch : Nat) (x : Chan) : Core := if ch = 0 then { c with chan0 := x } else { c with chan1 := x }

/-- A slip of a core. -/
def Core.slip (c : Core) (k : Nat) : Slip := if k = 0 then c.slipA else c.slipB
def Core.setSlip (c : Core) (k : Nat) (x : Slip) : Core := if k = 0 then { c with slipA := x } else { c with slipB := x }

/-- A change to a channel. -/
def State.updChan (s : State) (die core ch : Nat) (f : Chan → Chan) : State :=
  s.updCore die core (fun c => c.setChan ch (f (c.chan ch)))

/-- An operation held with a cause at an address: an engine fault record names its block or record and its progress (R179, R396, R413). -/
def holdOp (s : State) (o : Nat) (cause : Byte) (va pc : DWord) (prog : Nat) : State :=
  match FMap.get? s.ops o with
  | none => s
  | some x =>
    let asid := (s.ctx x.die x.ctx).asid
    let core := match x.kind with | .chain _ => x.core | .mcmd => x.core | _ => 0xFFFF
    let r : FaultRec := { cause := cause, kind := 2, pc := pc, addr := va, word := BitVec.ofNat 32 x.kind.word,
                          data := BitVec.ofNat 128 (prog % 2 ^ 64), asid := BitVec.ofNat 16 asid, gen := s.gen asid }
    let (id, s) := raiseTrap s { die := x.die, ctx := x.ctx, rung := 2, party := .engine o, core := core, fault := r } none
    let s := s.updOp o (fun x => { x with st := .held id })
    match x.kind with
    | .chain ch => s.updChan x.die x.core ch (fun h => { h with cur := h.cur.map (fun r => { r with held := some id }) })
    | _ => s

/-- An access of an operation failed: in a lost range the operation ends CANCELLED (R365), else it is held (R179). -/
def failOp (s : State) (o : Nat) (e : AErr) (va pc : DWord) (prog : Nat) : State :=
  match e with
  | .lost => cancelOp s o
  | _ => holdOp s o e.cause va pc prog

/-- The core whose first-level TLB an operation translates by (R328): its own for a core's engines; the units of the die have none. -/
def EngOp.tlbCore (x : EngOp) : Nat := match x.kind with | .chain _ => x.core | .mcmd => x.core | _ => noCore

/-- An operation's read and write of memory (R175, R180, R266). -/
def opRead (s : State) (x : EngOp) (va : DWord) (n : Nat) : Except (AErr × DWord) (List Byte × Bool) × State :=
  vRead s x.die x.tlbCore x.ctx x.ring x.child va n
def opWrite (s : State) (x : EngOp) (bad : Bool) (va : DWord) (bs : List Byte) : Except (AErr × DWord) Unit × State :=
  vWrite s x.die x.tlbCore x.ctx x.ring x.child bad va bs x.kid

/-- Several writes of an operation, each to its address, in order; those before the one that fails stay (R179). -/
def opWrites (s : State) (x : EngOp) : List (DWord × List Byte × Bool) → Except (AErr × DWord) Unit × State
  | [] => (.ok (), s)
  | (va, bs, bad) :: ws =>
    match opWrite s x bad va bs with
    | (.error e, s) => (.error e, s)
    | (.ok _, s) => opWrites s x ws

/-- The unit that runs an operation, where it is one that stops (R379, R407). -/
def EngOp.unit (x : EngOp) : Option UnitId :=
  match x.kind with
  | .chain ch => some (.barge x.core ch)
  | .mcmd => some (.matrix x.core)
  | .attn => some (.mau (bits (field x.params 38 1) 4 4))
  | .unmask => some .umx
  | _ => none

/-- The skid bound of a unit (R407). -/
def unitSkid : UnitId → Nat
  | .core _ => 32
  | .matrix _ => 128
  | .barge _ _ => 1024
  | .umx => 512
  | .mau _ => 4096

/-- Whether a unit that the line has reached has not stopped yet: its record is to come, within its skid bound (R407, R408). -/
def inSkid (s : State) (die ctx : Nat) (u : UnitId) : Bool :=
  match (s.ctx die ctx).line with
  | some l => match l.since with
    | some t => !l.done.contains u && !l.delivered && decide ((s.die die).cycle ≤ t + unitSkid u)
    | none => false
  | none => false

/-- Whether a unit stands still for a context: the all-stop line has reached its die (R407), or a switch has stopped it (R379). -/
def frozen (s : State) (die ctx : Nat) (u : UnitId) : Bool :=
  let x := s.ctx die ctx
  (match x.line with | some l => l.since.isSome | none => false) ||
    (x.sw != .run && !(match x.switch with | some w => w.units.contains u | none => false))

/-- Whether an operation stands still: with its unit, or, returned by an ALLSTOP slot, until the line is lowered (R402). -/
def opFrozen (s : State) (x : EngOp) : Bool :=
  (x.lineHeld && (s.ctx x.die x.ctx).line.isSome) || (match x.unit with | some u => frozen s x.die x.ctx u | none => false)

/-- Whether an operation whose work is done may not make its add: the line is up, and its engine is one that stops (R407), or the operation has been
cancelled, or returned by an ALLSTOP slot (R402). A switch lets such an add through (R379). -/
def addHeldUp (s : State) (x : EngOp) : Bool :=
  (x.lineHeld && (s.ctx x.die x.ctx).line.isSome) || (x.unit.isSome || x.flags.getLsbD 4) && (match (s.ctx x.die x.ctx).line with | some l => l.since.isSome | none => false)

/-! ## Completion (R176, R177) -/

/-- INC added at a counter's home as a publish (R176, R251, R258): a meeting point whose address R167 refuses is a protection fault, and so is one that
MPOLICY refuses where the issue could not ask (R178); a deterministic child's add enters its view (R274, R436), within the shadow area's capacity (R440)
but for the add that an operation already cancelled makes all the same (R176). -/
def counterAdd (s : State) (x : EngOp) (va : DWord) (inc : Nat) (sys owed past : Bool) : Except (AErr × DWord) Unit × State :=
  match xlNeeds s x.die x.tlbCore x.ctx x.ring va [.write] { child := x.child } with
  | (.error e, s) => (.error (e, va), s)
  | (.ok t, s) =>
    let refused := match mpCheck s x.die t.pa sys with | some cause => cause == cAddr || owed | none => false
    match refused, placeErr s x.die t.pa with
    | true, _ => (.error (.protect, va), s)
    | false, some .lost => (.ok (), s)
    | false, some e => (.error (e, va), s)
    | false, none =>
      let vl := va.toNat / 128
      let (lost, s) := homeRead (claimLine s x.die x.ctx vl) x.die t.pa 8
      match x.child.bind (fun k => (FMap.get? s.children k).map (fun y => (k, y))) with
      | some (k, y) =>
        let s := atExecutor s x.die t.pa 8
        let h : HeldOp := ⟨vl, t.pa, s.gen (s.ctx x.die x.ctx).asid, .atomic .add true (BitVec.ofNat 64 inc) 0, t.cbit⟩
        if past || heldFits s k y [h] then (.ok (), wakeHeld (addHeld (noteKids s x.kid.toList vl) k h) k t.pa) else (.error (.full, va), s)
      | none =>
        let s := producerNow s x.die x.ctx sys
        if lost || poisonedLine s x.die t.pa then (.ok (), s)
        else (.ok (), wakeWord (homeAtomic (noteKids s x.kid.toList vl) x.die t.pa .add true (BitVec.ofNat 64 inc) 0).2 x.die t.pa)

/-- The 32 bytes of a completion record (R177); for a SHIP the 8 bytes of its acknowledgement word (R370). -/
def EngOp.record (x : EngOp) : List Byte :=
  if x.kind = .ship then leBytes 8 x.progress else
  leBytes 4 x.flags.toNat ++ leBytes 4 x.lost ++ leBytes 8 x.progress ++ leBytes 8 x.detail.toNat ++ List.replicate 8 0

/-- The record of an operation that has finished its work is written, once (R176, R177). -/
def writeRecord (s : State) (o : Nat) : State :=
  match FMap.get? s.ops o with
  | none => s
  | some x =>
    if x.recAddr = 0 then s
    else match opWrite s x false x.recAddr x.record with
      | (.error (.lost, _), s) => s.updOp o (fun x => { x with recAddr := 0 })
      | (.error (e, a), s) => failOp s o e a x.addr x.progress
      | (.ok _, s) => s.updOp o (fun x => { x with recAddr := 0 })

/-- An operation's work is done: DONE set, its record written, its add to come (R176). -/
def finishOp (s : State) (o : Nat) (f : EngOp → EngOp) : State :=
  writeRecord (s.updOp o (fun x => let x := f x; { x with flags := x.flags ||| 1#32, st := .adding })) o

/-- An operation leaves every queue and its group, which may end with it (R134, R135, R173). -/
def endOp (s : State) (o : Nat) : State :=
  match FMap.get? s.ops o with
  | none => s
  | some x =>
    let keep := fun (l : List Nat) => l.filter (· != o)
    let s := { s with ops := FMap.erase s.ops o }
    let s := s.updCore x.die x.core (fun c =>
      let c := { c with mq := keep c.mq }
      match x.kind with
      | .chain ch => c.setChan ch { c.chan ch with chains := keep (c.chan ch).chains }
      | .mcmd => { c with tiles := c.tiles.modify x.tile (fun t => { t with busy := t.busy - 1 }) }
      | _ => c)
    let drop := fun (d : Die) => { d with mau0 := keep d.mau0, mau1 := keep d.mau1, umx := keep d.umx, coll := keep d.coll,
                                          helm := keep d.helm, lunit := keep d.lunit }
    let s := (s.updDie x.die drop).updDie (bits (field x.params 38 1) 3 0) drop
    let s := s.updGroup x.gid (fun g => { g with ops := keep g.ops })
    let s := wakeWhere s (fun _ g => g.wait == .queue || g.wait == .tile)
    tryEnd s x.gid

/-- ENGINE_COMPLETION of an operation but a chain (R176): its record if it is still owed, then the add, then its end. -/
def completeOp (s : State) (o : Nat) (x : EngOp) : State :=
  if x.recAddr ≠ 0 then writeRecord s o
  else if x.cnt = 0 then endOp s o
  else match counterAdd s x x.cnt x.inc x.csys x.owed (x.flags.getLsbD 4) with
    | (.error (e, a), s) => failOp s o e a x.addr x.progress
    | (.ok _, s) => endOp s o

end Sys2Proof.Machine
end

