-- ==== Sys2Proof/Machine/Barge.lean ====
section
/-! DEFINITION. The barge channels (R182-R192): CHAIN, the taking and checking of records, the modes, the slips, the write-back. -/

namespace Sys2Proof.Machine

/-! ## Records (R183, R184) -/

/-- CTL and its fields (R184). -/
def rCtl (b : List Byte) : Nat := field b 0 4
def rOwn (b : List Byte) : Bool := bit (rCtl b) 0
def rMode (b : List Byte) : Nat := bits (rCtl b) 4 1
def rSlip (b : List Byte) : Nat := bits (rCtl b) 21 21
def rSrcSpad (b : List Byte) : Bool := bit (rCtl b) 22
def rDstSpad (b : List Byte) : Bool := bit (rCtl b) 23
def rCsys (b : List Byte) : Bool := bit (rCtl b) 24

/-- The extents, strides and addresses of a record (R183). -/
def rNext (b : List Byte) : Nat := field b 8 8
def rSrc (b : List Byte) : Int := sfield b 16 8
def rDst (b : List Byte) : Int := sfield b 24 8
def rExt (b : List Byte) (i : Nat) : Nat := field b (32 + 4 * i) 4
def rSstr (b : List Byte) (i : Nat) : Int := sfield b (40 + 8 * i) 8
def rDstr (b : List Byte) (i : Nat) : Int := sfield b (64 + 8 * i) 8
def rAux (b : List Byte) : Nat := field b 96 8
def rAux2 (b : List Byte) : Nat := field b 104 8
def rCnt (b : List Byte) : Nat := field b 112 8
def rInc (b : List Byte) : Nat := field b 120 4

/-- The windows of CONVWIN (R187): KH, KW, SY, SX, DY, DX, PY, PX. -/
def rWin (b : List Byte) (i : Nat) : Nat := field b (96 + i) 1

/-- The fields that a mode uses besides EXT0 and SRC, as their offsets (R186). -/
def modeUses (m : Nat) : List Nat :=
  match m with
  | 1 => [36, 40, 44, 48, 56, 64, 72, 80, 88]
  | 2 => [36, 48, 72, 96]
  | 3 => [36, 48, 72, 96]
  | 4 => [40, 44, 48, 56, 80, 96, 104]
  | 5 => [36, 40, 44, 48, 56, 64]
  | 6 => [96]
  | 7 => [36, 72, 96, 104]
  | _ => []

/-- The offsets and sizes of the fields that a mode may leave unused. -/
def modeFields : List (Nat × Nat) :=
  [(36, 4), (40, 4), (44, 4), (48, 8), (56, 8), (64, 8), (72, 8), (80, 8), (88, 8), (96, 8), (104, 8)]

/-- Whether the index list of a record is read at its take (R186). -/
def rEarly (b : List Byte) : Bool := (rMode b == 2 || rMode b == 3) && (rSrcSpad b || rDstSpad b)

/-- A record breaks the rules of its fields (R184-R191). -/
def recFieldsBad (b : List Byte) : Bool :=
  let m := rMode b
  rCtl b &&& 0xFE0F00E0 != 0 || decide (m > 7) ||
  modeFields.any (fun f => !(modeUses m).contains f.1 && field b f.1 f.2 != 0) ||
  (rSlip b == 1 && m != 5) || (rSrcSpad b && field b 20 4 != 0) || (rDstSpad b && field b 28 4 != 0) ||
  (if m = 7 ∧ rAux2 b = 0 then rExt b 0 != 0 || field b 72 8 != 0 else rExt b 0 == 0 || decide (rExt b 0 > 2 ^ 24)) ||
  ptrBad (rCnt b) 8 ||
  (m == 5 && (field b 24 8 != 0 || rDstSpad b)) ||
  (m == 6 && (!rDstSpad b || bits (field b 24 8) 63 19 != 0 || bits (rAux b) 63 16 != 0)) ||
  (m == 7 && (rSrcSpad b || field b 16 8 % 4 != 0 || rAux b % 16 != 0 || field b 24 8 % 16 != 0)) ||
  ((m == 2 || m == 3) && rAux b % 4 != 0) ||
  (m == 4 && (List.range 6).any (fun i => rWin b i == 0))

/-! ## The walk (R186-R191) -/

/-- A place that a record reads or writes: global, or in a scratchpad (R184). -/
inductive Place
  | glob (a : DWord)
  | spad (sa : Word)
deriving DecidableEq, Repr

/-- A computed address in its space. -/
def placeAt (spad : Bool) (a : Int) : Place := if spad then .spad (BitVec.ofInt 32 a) else .glob (BitVec.ofInt 64 a)

/-- A place some bytes further on. -/
def Place.add : Place → Nat → Place
  | .glob a, n => .glob (a + BitVec.ofNat 64 n)
  | .spad a, n => .spad (a + BitVec.ofNat 32 n)

/-- The address that the cuts of a walk are made by. -/
def Place.nat : Place → Nat
  | .glob a => a.toNat
  | .spad a => a.toNat

/-- Whether n bytes at a place are addresses that a record may name (R185): canonical, or within R152 with no alignment. -/
def Place.ok (s : State) (block : Nat) (p : Place) (n : Nat) : Bool :=
  match p with
  | .glob a => canonical a && canonical (a + BitVec.ofNat 64 (n - 1))
  | .spad sa => (spadAt s block sa n 1).isSome

/-- The innermost copies of a record (R186): how many. MULTICAST has one for each target rank, TABLEWALK one for each entry. -/
def rRows (b : List Byte) : Nat :=
  match rMode b with
  | 0 => 1
  | 1 => rExt b 1 * rExt b 2 * rExt b 3
  | 5 => rExt b 1 * rExt b 2 * rExt b 3
  | 4 => rWin b 0 * rWin b 1 * rExt b 2 * rExt b 3
  | 6 => ((List.range 16).filter (fun k => bit (rAux b) k)).length
  | _ => rExt b 1

/-- The loop indices of copy n, innermost first (R385). -/
def rIdx (b : List Byte) (n : Nat) : List Nat :=
  match rMode b with
  | 0 => []
  | 1 => [n % rExt b 1, n / rExt b 1 % rExt b 2, n / (rExt b 1 * rExt b 2)]
  | 5 => [n % rExt b 1, n / rExt b 1 % rExt b 2, n / (rExt b 1 * rExt b 2)]
  | 4 => [n % rWin b 1, n / rWin b 1 % rWin b 0, n / (rWin b 1 * rWin b 0) % rExt b 2, n / (rWin b 1 * rWin b 0 * rExt b 2)]
  | 6 => [((List.range 16).filter (fun k => bit (rAux b) k)).getD n 0]
  | _ => [n]

/-- The source of copy n under index idx: none for a zero fill (R186, R187). -/
def rowSrc (b : List Byte) (n idx : Nat) : Option Place :=
  let i := fun k => (((rIdx b n).getD k 0 : Nat) : Int)
  let at_ := fun (a : Int) => some (placeAt (rSrcSpad b) (rSrc b + a))
  match rMode b with
  | 1 => at_ (i 0 * rSstr b 1 + i 1 * rSstr b 2 + i 2 * rSstr b 3)
  | 5 => at_ (i 0 * rSstr b 1 + i 1 * rSstr b 2 + i 2 * rSstr b 3)
  | 2 => at_ ((idx : Int) * rSstr b 1)
  | 3 => at_ ((n : Int) * rSstr b 1)
  | 4 =>
    let y := i 3 * (rWin b 2 : Nat) + i 1 * (rWin b 4 : Nat) - (rWin b 6 : Nat)
    let x := i 2 * (rWin b 3 : Nat) + i 0 * (rWin b 5 : Nat) - (rWin b 7 : Nat)
    if 0 ≤ y ∧ y < ((bits (rAux2 b) 31 0 : Nat) : Int) ∧ 0 ≤ x ∧ x < ((bits (rAux2 b) 63 32 : Nat) : Int) then
      at_ (y * rSstr b 2 + x * rSstr b 1)
    else none
  | _ => at_ 0

/-- The destination of copy n under index idx (R186, R187). -/
def rowDst (b : List Byte) (n idx : Nat) : Place :=
  let i := fun k => (((rIdx b n).getD k 0 : Nat) : Int)
  let at_ := fun (a : Int) => placeAt (rDstSpad b) (rDst b + a)
  match rMode b with
  | 1 => at_ (i 0 * rDstr b 1 + i 1 * rDstr b 2 + i 2 * rDstr b 3)
  | 2 => at_ ((n : Int) * rDstr b 1)
  | 3 => at_ ((idx : Int) * rDstr b 1)
  | 4 => at_ ((i 3 * (rExt b 2 : Nat) + i 2) * rDstr b 2 + (i 1 * (rWin b 1 : Nat) + i 0) * (rExt b 0 : Nat))
  | 7 => at_ ((32 * n : Nat) : Int)
  | _ => at_ 0

/-- The places of copy n with their lengths that R185 checks. `idx` is none where the index is still to be read. -/
def rowChecks (b : List Byte) (n : Nat) (idx : Option Nat) : List (Place × Nat) :=
  let src := match rowSrc b n (idx.getD 0) with | some p => [(p, rExt b 0)] | none => []
  match rMode b with
  | 2 => (rowDst b n 0, rExt b 0) :: (if idx.isSome then src else [])
  | 3 => src ++ (match idx with | some i => [(rowDst b n i, rExt b 0)] | none => [])
  | 5 => src
  | 6 => src
  | 7 =>
    [(placeAt false (rSrc b + ((4 * n : Nat) : Int)), 4), (rowDst b n 0, 32)] ++
    (if rAux2 b ≠ 0 then [(.glob (BitVec.ofNat 64 (rAux2 b) + BitVec.ofInt 64 ((n : Int) * rDstr b 1)), rExt b 0)] else [])
  | _ => src ++ [(rowDst b n 0, rExt b 0)]

/-- The first address after an index list, and whether the list may be read (R185, R186). -/
def listOk (b : List Byte) : Bool :=
  rExt b 1 == 0 || (canonical (BitVec.ofNat 64 (rAux b)) && canonical (BitVec.ofNat 64 (rAux b + 4 * rExt b 1 - 1)))

/-- The group whose policy the records of an operation are checked by (R178). -/
def EngOp.caller (x : EngOp) : Group := { die := x.die, core := x.core, ctx := x.ctx, ring := x.ring }

/-- A record is malformed, or refused by MPOLICY (R178, R185): all checked before any byte moves, but for the addresses that an index not
yet read gives. -/
def recBad (s : State) (x : EngOp) (b : List Byte) (idxs : List Word) : Bool :=
  recFieldsBad b || ((rMode b == 2 || rMode b == 3) && !listOk b) ||
  (List.range (rRows b)).any (fun n =>
    (rowChecks b n (if rEarly b then some (idxs.getD n 0).toNat else none)).any (fun p => !p.1.ok s x.block p.2)) ||
  csysRefused s x.caller (rCsys b) (rCnt b)

/-- The block that a MULTICAST target rank names, if it is delivered (R190, R213). -/
def castTarget (s : State) (x : EngOp) (b : List Byte) (k : Nat) : Option Nat :=
  if k ≥ 8 then none
  else (spadAt s x.block (BitVec.ofNat 32 (k * 2 ^ 19 + bits (field b 24 8) 18 0)) (rExt b 0) 1).map (·.1)

/-- Where copy n writes in a scratchpad: block, offset and length. -/
def rowSpad (s : State) (x : EngOp) (b : List Byte) (n idx : Nat) : Option (Nat × Nat × Nat) :=
  match rMode b with
  | 5 => none
  | 6 => (castTarget s x b ((rIdx b n).getD 0 0)).map (fun k => (k, bits (field b 24 8) 18 0, rExt b 0))
  | m =>
    let len := if m = 7 then 32 else rExt b 0
    match rowDst b n idx with
    | .glob _ => none
    | .spad sa => (spadAt s x.block sa len 1).map (fun p => (p.1, p.2, len))

/-- The scratchpad lines of copy n, each with the point of the walk at which the copy's last byte for it has landed. -/
def rowEnds (s : State) (x : EngOp) (b : List Byte) (idxs : List Word) (n : Nat) : List ((Nat × Nat) × Nat) :=
  match rowSpad s x b n (idxs.getD n 0).toNat with
  | some (k, off, len) =>
    if len = 0 then [] else (spadLines off len).map (fun l =>
      ((k, l), if rMode b = 7 then n + 1 else n * rExt b 0 + min len (64 * l + 64 - off)))
  | none => []

/-- Every scratchpad line that a record writes, with the point of its walk at which the last byte for it lands (R153, R188): a later copy's over an
earlier one's. -/
def recEnds (s : State) (x : EngOp) (b : List Byte) (idxs : List Word) : List ((Nat × Nat) × Nat) :=
  if rDstSpad b then
    (List.range (rRows b)).foldl (fun acc n =>
      let new := rowEnds s x b idxs n
      acc.filter (fun e => !new.any (fun f => f.1 == e.1)) ++ new) []
  else []

/-- Presence bits of lines cleared and set (R153, R188). Groups that wait for presence test again. -/
def linesAbsent (s : State) (ls : List (Nat × Nat)) : State :=
  ls.foldl (fun s e => s.updBlock e.1 (fun b => if b.absent.contains e.2 then b else { b with absent := b.absent ++ [e.2] })) s
def linesPresent (s : State) (ls : List (Nat × Nat)) : State :=
  if ls.isEmpty then s
  else wakeWhere (ls.foldl (fun s e => s.updBlock e.1 (fun b => { b with absent := b.absent.filter (· != e.2) })) s)
    (fun _ g => g.wait == .presence)

/-- The walk's length: bytes, or entries for TABLEWALK. -/
def rTotal (b : List Byte) : Nat := if rMode b = 7 then rRows b else rRows b * rExt b 0

/-- A record as its take leaves it (R182, R185): a malformed one has nothing left to walk. `sour` names the copies whose index was poisoned. -/
def newRec (a : DWord) (b : List Byte) (idxs : List Word) (sour : List Nat) (seq : Nat) (bad owed : Bool) : Rec :=
  { addr := a, bytes := b, indices := idxs, sour := sour, seq := seq, status := if bad then 3 else 0, done := if bad then rTotal b else 0,
    finished := bad || rRows b == 0, owed := owed }

/-- The destination lines of a record are absent from its take on (R153, R188), unless it is malformed. -/
def takeLines (s : State) (x : EngOp) (b : List Byte) (idxs : List Word) (bad : Bool) : State :=
  if bad then s else linesAbsent s ((recEnds s x b idxs).map (·.1))

/-! ## CHAIN (R182) -/

/-- CHAIN (R173, R174, R182): the head record is taken here, with its index list where a scratchpad is named, and checked here (R178, R185); OWN = 0
ends the chain. -/
def execChain (ch : BitVec 1) (a : BitVec 6) (s : State) : Out :=
  engIssue s a [] (fun s _ g => decide (((s.core g.die g.core).chan ch.toNat).chains.length ≥ 8)) 128 128 (fun s c g p b =>
    let go := fun (s : State) (idxs : List Byte) =>
      let x := { newOp s c g (.chain ch.toNat) p b (rCnt b) (rInc b) (rCsys b) 0 with extra := idxs }
      let bad := recBad s x b (wordsOf idxs)
      enqueue (takeLines s x b (wordsOf idxs) bad) c g { x with bad := bad } (fun s id =>
        s.updChan g.die g.core ch.toNat (fun h => { h with chains := h.chains ++ [id] }))
    if !rOwn b then .next (retire s c g)
    else if rEarly b && listOk b && rExt b 1 != 0 then
      blockRead s c g (BitVec.ofNat 64 (rAux b)) (4 * rExt b 1) go
    else go s [])

/-! ## The course of a channel -/

/-- A chain ends (R176, R185). -/
def endChain (s : State) (die core ch o : Nat) : State :=
  endOp (s.updChan die core ch (fun h => { h with cur := none, next := none, ahead := [] })) o

/-- The copy that a channel has read ahead for an address, under the current generation (R182). -/
def aheadCopy (s : State) (x : EngOp) (h : Chan) (a : DWord) : Option (List Byte) :=
  (h.ahead.find? (fun e => e.addr == a && e.gen == s.gen (s.ctx x.die x.ctx).asid)).map (·.bytes)

/-- An index list read at a take, word by word (R175, R186), with the copies whose index is poisoned (R180). -/
def readList (s : State) (x : EngOp) (b : List Byte) : Nat → Nat → List Word → List Nat → Except (AErr × DWord) (List Word × List Nat) × State
  | 0, _, ws, sour => (.ok (ws.reverse, sour), s)
  | k + 1, n, ws, sour =>
    match opRead s x (BitVec.ofNat 64 (rAux b + 4 * n)) 4 with
    | (.error e, s) => (.error e, s)
    | (.ok (bs, bad), s) => readList s x b k (n + 1) (BitVec.ofNat 32 (field bs 0 4) :: ws) (if bad then n :: sour else sour)

/-- A later record taken from its bytes (R182, R185, R186): OWN = 0 ends the chain; the index list is read with it where a scratchpad is
named. Where that list cannot be read the record is taken all the same, to read it again or to be cancelled (R179). -/
def takeNext (s : State) (die core ch o : Nat) (x : EngOp) (a : DWord) (b : List Byte) : State :=
  let put := fun (s : State) (idxs : List Word) (sour : List Nat) =>
    let (seq, s) := s.fresh
    let bad := recBad s x b idxs
    let r := newRec a b idxs sour seq bad (csysOwed s x.caller (rCsys b) (rCnt b))
    (takeLines s x b idxs bad).updChan die core ch (fun h => { h with cur := some r, next := none, ahead := h.ahead.filter (fun e => e.addr != a) })
  if !rOwn b then endChain s die core ch o
  else if rEarly b && !recFieldsBad b && listOk b then
    match readList s x b (rExt b 1) 0 [] [] with
    | (.error (e, va), s) =>
      let (seq, s) := s.fresh
      let r := { newRec a b [] [] seq false (csysOwed s x.caller (rCsys b) (rCnt b)) with listOwed := true }
      failOp (s.updChan die core ch (fun h => { h with cur := some r, next := none, ahead := h.ahead.filter (fun e => e.addr != a) })) o e va a 0
    | (.ok (idxs, sour), s) => put s idxs sour
  else put s [] []

/-- BARGE_RECORD_TAKE (R182, R185): the head of the next chain, the chain's next record, or the index list of one taken (R179). A record that is poisoned
holds the chain. -/
def recordTake (s : State) (die core ch : Nat) : Option State :=
  let h := (s.core die core).chan ch
  match h.chains.head?.bind (fun o => (FMap.get? s.ops o).map (fun x => (o, x))) with
  | none => none
  | some (o, x) =>
    match h.cur with
    | some r =>
      if r.listOwed && r.held.isNone && !r.cancelled && x.st == .running && !opFrozen s x then some (takeNext s die core ch o x r.addr r.bytes) else none
    | none =>
    if opFrozen s x then none
    else match x.st, h.next with
      | .queued, _ =>
        let r := newRec x.addr x.params (wordsOf x.extra) [] o x.bad x.owed
        some ((s.updOp o (fun x => { x with st := .running })).updChan die core ch (fun h => { h with cur := some r }))
      | .running, some a =>
        if x.flags.getLsbD 4 then some (endChain s die core ch o)
        else match aheadCopy s x h a with
          | some b => some (takeNext s die core ch o x a b)
          | none =>
            match opRead s x a 128 with
            | (.error (e, va), s) => some (failOp s o e va a 0)
            | (.ok (b, bad), s) => some (if bad then holdOp s o cPoison a a 0 else takeNext s die core ch o x a b)
      | _, _ => none

/-! ## Moving bytes -/

/-- Bytes read from a place by a barge, with whether they are poisoned (R180, R437). -/
def bargeRead (s : State) (x : EngOp) (p : Place) (n : Nat) : Except (AErr × DWord) (List Byte × Bool) × State :=
  match p with
  | .glob a => opRead s x a n
  | .spad sa => match spadAt s x.block sa n 1 with
    | some (b, off) => (.ok (spadRead s b off n, spadMarked s b off n), s)
    | none => (.ok (List.replicate n 0, false), s)

/-- Bytes written into a block's scratchpad by a barge (R180, R437): poisoned ones mark their lines, others clear the lines they cover. -/
def bargeSpad (s : State) (b off : Nat) (bs : List Byte) (bad : Bool) : State :=
  let s := spadWrite s b off bs
  if bad then s.updBlock b (fun x => { x with marked := (x.marked ++ spadLines off bs.length).dedup })
  else spadUnmark s b [(off, bs.length)]

/-- Bytes written to a place by a barge. -/
def bargeWrite (s : State) (x : EngOp) (p : Place) (bs : List Byte) (bad : Bool) : Except (AErr × DWord) Unit × State :=
  match p with
  | .glob a => opWrite s x bad a bs
  | .spad sa => match spadAt s x.block sa bs.length 1 with
    | some (b, off) => (.ok (), bargeSpad s b off bs bad)
    | none => (.ok (), s)

/-- What one landing leads to: bytes of the walk done and moved, whether poisoned, a target not delivered; a malformed address; a wait for
the slip; a failed access. -/
inductive Landed
  | moved (done bytes : Nat) (bad : Bool) (undeliv : Nat)
  | malformed
  | wait
  | failed (e : AErr) (va : DWord)
deriving DecidableEq, Repr

/-- The bytes that go together: up to the next 128-byte line of a global destination, or 64-byte line of a scratchpad. -/
def cut (p : Place) (left : Nat) : Nat :=
  let w := match p with | .glob _ => 128 | .spad _ => 64
  min left (w - p.nat % w)

/-- A piece of a plain copy (R186, R187). What a poisoned index chose is written poisoned (R180; log entry 68). -/
def landCopy (s : State) (x : EngOp) (src : Option Place) (dst : Place) (off left : Nat) (sour : Bool) : Landed × State :=
  let d := dst.add off
  let k := cut d left
  match (match src with | some p => bargeRead s x (p.add off) k | none => (.ok (List.replicate k 0, false), s)) with
  | (.error (e, va), s) => (.failed e va, s)
  | (.ok (bs, mark), s) =>
    let bad := mark || sour
    match bargeWrite s x d bs bad with
    | (.error (e, va), s) => (.failed e va, s)
    | (.ok _, s) => (.moved k k bad 0, s)

/-- The earliest take among a channel's records that fill a slip: the one it is at, and the heads of its chains (R189). -/
def slipTurn (s : State) (die core ch k : Nat) : Option Nat :=
  let h := (s.core die core).chan ch
  let fills := fun (b : List Byte) => rMode b == 5 && rSlip b == k
  let cur := match h.cur with | some r => if fills r.bytes && r.status == 0 && !r.finished then [r.seq] else [] | none => []
  let heads := h.chains.filter (fun o => match FMap.get? s.ops o with
    | some x => x.st == .queued && fills x.params && !x.bad
    | none => false)
  (cur ++ heads).min?

/-- Whether a channel holds or may now take a slip's claim (R189): the channel whose record was taken first comes first (log entry 18). -/
def mayClaim (s : State) (die core ch k : Nat) : Bool :=
  match ((s.core die core).slip k).claim with
  | some c => c == ch
  | none => match slipTurn s die core ch k, slipTurn s die core (1 - ch) k with
    | some a, some b => decide (a < b)
    | _, none => true
    | none, some _ => false

/-- Bytes pushed into a slip, with the poison window (R189). -/
def Slip.push (p : Slip) (bs : List Byte) (bad : Bool) : Slip :=
  let n := p.bytes.length
  { p with bytes := p.bytes ++ bs,
           poisonFrom := if bad && p.poisonTo == 0 then n else p.poisonFrom,
           poisonTo := if bad then n + bs.length else p.poisonTo }

/-- A piece of a SLIPFILL (R189). -/
def landSlip (s : State) (x : EngOp) (ch k : Nat) (src : Place) (off left : Nat) : Landed × State :=
  let room := 65536 - ((s.core x.die x.core).slip k).bytes.length
  if !(mayClaim s x.die x.core ch k) || room = 0 then (.wait, s)
  else
    let n := min room (cut (src.add off) left)
    match bargeRead s x (src.add off) n with
    | (.error (e, va), s) => (.failed e va, s)
    | (.ok (bs, bad), s) =>
      (.moved n n bad 0, s.updCore x.die x.core (fun c => c.setSlip k { (c.slip k).push bs bad with claim := some ch }))

/-- A piece of a MULTICAST copy (R190). -/
def landCast (s : State) (x : EngOp) (b : List Byte) (k off left : Nat) : Landed × State :=
  match castTarget s x b k with
  | none => (.moved left 0 false (2 ^ k), s)
  | some t =>
    let o := bits (field b 24 8) 18 0 + off
    let n := min left (64 - o % 64)
    match bargeRead s x ((placeAt (rSrcSpad b) (rSrc b)).add off) n with
    | (.error (e, va), s) => (.failed e va, s)
    | (.ok (bs, bad), s) => (.moved n n bad 0, bargeSpad s t o bs bad)

/-- A map entry read as one access (R164, R284), with whether its line is poisoned. -/
def entryRead (s : State) (x : EngOp) (va : DWord) : Except (AErr × DWord) (List Byte × Bool) × State :=
  match xlNeeds s x.die x.tlbCore x.ctx x.ring va [.read] { child := x.child } with
  | (.error e, s) => (.error (e, va), s)
  | (.ok t, s) =>
    match accessErr s x.die t.pa 16 false with
    | some e => (.error (e, va), s)
    | none =>
      let (bs, bad, s) := entryAt s x.die x.ctx x.child (va.toNat / 128) t.pa (spanOf (t.pa % 128) 16)
      (.ok (bs, bad), s)

/-- What a TABLEWALK writes of a block to its place, and whether it reports poison (R180, R191): the raw bytes and zeros after them; of an
undecodable block nothing (R347); of a poisoned one, the bytes of each poisoned line of a raw block, and every byte of a compressed one,
are written poisoned. -/
def blockWrites (s : State) (x : EngOp) (e : List Byte) (at_ : DWord) (n : Nat) : Bool × List (DWord × List Byte × Bool) × State :=
  match kvBlock s x.die x.child e with
  | (.raw bs, s) => (false, [(at_, slice bs 0 n, false)], s)
  | (.undecodable, s) => (true, [], s)
  | (.poisoned, s) =>
    let size := 32 * kvSize e
    if kvRaw e then
      (true, (chunks (kvAddr e) (min n size)).map (fun c => (at_ + BitVec.ofNat 64 (c.1 - kvAddr e), viewBytes s x.die x.child c.1 c.2,
          viewMark s x.die x.child c.1)) ++ [(at_ + BitVec.ofNat 64 size, List.replicate (n - size) 0, false)], s)
    else (true, [(at_, List.replicate n 0, true)], s)

/-- One entry of a TABLEWALK (R191): the gather entry, then the block where it is OK, read with its entry. An index that forms an address which is
not canonical makes the record MALFORMED there, what was written before staying (log entry 40). -/
def landEntry (s : State) (x : EngOp) (b : List Byte) (n : Nat) : Landed × State :=
  match opRead s x (BitVec.ofInt 64 (rSrc b + ((4 * n : Nat) : Int))) 4 with
  | (.error (e, va), s) => (.failed e va, s)
  | (.ok (ib, bad0), s) =>
    let i := field ib 0 4
    let ea := BitVec.ofNat 64 (rAux b + 16 * i)
    if !canonical ea then (.malformed, s)
    else match entryRead s x ea with
      | (.error (e, va), s) => (.failed e va, s)
      | (.ok (e, bad1), s) =>
        let bad := bad0 || bad1
        let (worse, ws, s) :=
          if rAux2 b ≠ 0 ∧ bad = false ∧ kvSeen s x.die e = 0 then
            blockWrites s x e (BitVec.ofNat 64 (rAux2 b) + BitVec.ofInt 64 ((n : Int) * rDstr b 1)) (rExt b 0)
          else (false, [], s)
        match bargeWrite s x (rowDst b n 0) (e ++ leBytes 4 i ++ List.replicate 12 0) bad with
        | (.error (e, va), s) => (.failed e va, s)
        | (.ok _, s) =>
          match opWrites s x ws with
          | (.error (e, va), s) => (.failed e va, s)
          | (.ok _, s) => (.moved 1 1 (bad || worse) 0, s)

/-- The index of copy n of a GATHER or SCATTER (R186), and whether it was poisoned: from the list read at the take, the one already read for this
copy, or read now. -/
def rowIndex (s : State) (x : EngOp) (r : Rec) (n off : Nat) : Except (AErr × DWord) (Nat × Bool) × State :=
  let b := r.bytes
  if !(rMode b == 2 || rMode b == 3) then (.ok (0, false), s)
  else if rEarly b then (.ok ((r.indices.getD n 0).toNat, r.sour.contains n), s)
  else match off, r.indices.head? with
    | _ + 1, some w => (.ok (w.toNat, r.sour.contains n), s)
    | _, _ =>
      match opRead s x (BitVec.ofNat 64 (rAux b + 4 * n)) 4 with
      | (.error e, s) => (.error e, s)
      | (.ok (bs, bad), s) => (.ok (field bs 0 4, bad), s)

/-- One landing of a record's walk, with the index it went by and whether that was poisoned. -/
def landPiece (s : State) (x : EngOp) (ch : Nat) (r : Rec) : Landed × Nat × Bool × State :=
  let b := r.bytes
  if rMode b = 7 then let (l, s) := landEntry s x b r.done; (l, 0, false, s)
  else
    let n := r.done / rExt b 0
    let off := r.done % rExt b 0
    let left := rExt b 0 - off
    match rowIndex s x r n off with
    | (.error (e, va), s) => (.failed e va, 0, false, s)
    | (.ok (idx, sour), s) =>
      if (rMode b == 2 || rMode b == 3) && (rowChecks b n (some idx)).any (fun p => !p.1.ok s x.block p.2) then (.malformed, idx, sour, s)
      else
        let (l, s) := match rMode b with
          | 5 => match rowSrc b n 0 with
            | some p => landSlip s x ch (rSlip b) p off left
            | none => (.malformed, s)
          | 6 => landCast s x b ((rIdx b n).getD 0 0) off left
          | _ => landCopy s x (rowSrc b n idx) (rowDst b n idx) off left sour
        (l, idx, sour, s)

/-- The lines whose last byte has landed between two points of the walk are present (R153, R188). -/
def landLines (s : State) (x : EngOp) (r : Rec) (before after : Nat) : State :=
  linesPresent s (((recEnds s x r.bytes r.indices).filter (fun e => decide (before < e.2) && decide (e.2 ≤ after))).map (·.1))

/-- The address of the record that a channel would read ahead next: at most four copies, following the chain (R182). -/
def aheadNext (h : Chan) (r : Rec) : Option DWord :=
  if h.ahead.length ≥ 4 then none
  else
    let next := rNext (match h.ahead.getLast? with | some e => e.bytes | none => r.bytes)
    if next = 0 ∨ baseBad next 128 then none else some (BitVec.ofNat 64 next)

/-- A record read ahead (R182); nothing of a read that fails or is poisoned is kept. -/
def readAhead (s : State) (die core ch : Nat) (x : EngOp) (r : Rec) : State :=
  let gen := s.gen (s.ctx x.die x.ctx).asid
  let h := (s.core die core).chan ch
  let h := { h with ahead := if h.ahead.all (fun e => e.gen == gen) then h.ahead else [] }
  match aheadNext h r with
  | none => s
  | some a => match opRead s x a 128 with
    | (.ok (b, false), s) => s.updChan die core ch (fun _ => { h with ahead := h.ahead ++ [⟨a, gen, b⟩] })
    | (_, s) => s

/-- The record that a channel is at, with its chain's operation, when it may move. -/
def chanAt (s : State) (die core ch : Nat) : Option (Nat × EngOp × Rec) :=
  let h := (s.core die core).chan ch
  match h.chains.head?.bind (fun o => (FMap.get? s.ops o).map (fun x => (o, x))), h.cur with
  | some (o, x), some r => if r.held.isSome then none else some (o, x, r)
  | _, _ => none

/-- Whether a channel may still complete a request: the line lets those that are outstanding go on within its skid bound, where no switch has stopped the
context (R407). -/
def mayLand (s : State) (x : EngOp) (core ch : Nat) : Bool :=
  !opFrozen s x || (!x.lineHeld && (s.ctx x.die x.ctx).sw == .run && inSkid s x.die x.ctx (.barge core ch))

/-- BARGE_DATA_LAND (R186-R191, R153): one piece of the walk. A request completed after the line's arrival is counted (R408). -/
def dataLand (s : State) (die core ch : Nat) (ahead : Bool) : Option State :=
  match chanAt s die core ch with
  | none => none
  | some (o, x, r) =>
    if r.finished || r.cancelled || r.waiting || r.listOwed || !mayLand s x core ch then none
    else
      let s := if ahead && !opFrozen s x then readAhead s die core ch x r else s
      let late := opFrozen s x
      let upd := fun (s : State) (f : Rec → Rec) => s.updChan die core ch (fun h => { h with cur := h.cur.map f })
      match landPiece s x ch r with
      | (.failed e va, _, _, s) => some (failOp s o e va r.addr r.moved)
      | (.malformed, _, _, s) => some (upd s (fun r => { r with status := 3, finished := true }))
      | (.wait, _, _, s) => some (upd s (fun r => { r with waiting := true }))
      | (.moved n k bad u, idx, sour, s) =>
        let s := landLines s x r r.done (r.done + n)
        let s := if late then s.updChan die core ch (fun h => { h with landed := h.landed + 1, landedAt := (s.die die).cycle }) else s
        some (upd s (fun r => { r with
          done := r.done + n, moved := r.moved + k, undeliv := r.undeliv ||| u, poisoned := r.poisoned || bad,
          indices := if rEarly r.bytes then r.indices else [BitVec.ofNat 32 idx],
          sour := if rEarly r.bytes then r.sour else if sour then [r.done / rExt r.bytes 0] else [],
          finished := decide (r.done + n ≥ rTotal r.bytes) }))

/-- SLIPFILL_ROOM (R189): the slip has room and the claim is the channel's. -/
def slipRoom (s : State) (die core ch : Nat) : Option State :=
  match chanAt s die core ch with
  | none => none
  | some (_, x, r) =>
    let k := rSlip r.bytes
    if r.waiting && !opFrozen s x && decide (((s.core die core).slip k).bytes.length < 65536) && mayClaim s die core ch k then
      some (s.updChan die core ch (fun h => { h with cur := h.cur.map (fun r => { r with waiting := false }) }))
    else none

/-- STATUS of a record (R184, R185, R190): CANCELLED of any that was (R179). Of poison and a target not delivered poison is reported (log entry 69). -/
def Rec.code (r : Rec) : Nat :=
  if r.cancelled then 4 else if r.status = 3 then 3 else if r.poisoned then 5 else if r.undeliv ≠ 0 then 2 else 1

/-- A record done with, before it is written back: its claim ends, and the lines that the walk did not come to are present (R189; log entry 40). -/
def recDone (s : State) (die core ch : Nat) (x : EngOp) (r : Rec) : State :=
  let b := r.bytes
  let s := linesPresent s (((recEnds s x b r.indices).filter (fun e => decide (r.done < e.2))).map (·.1))
  let s := s.updCore die core (fun c =>
    let p := c.slip (rSlip b)
    if rMode b = 5 ∧ p.claim = some ch then c.setSlip (rSlip b) { p with claim := none } else c)
  s.updChan die core ch (fun h => { h with cur := h.cur.map (fun r => { r with finished := true, waiting := false }) })

/-- What a record's write-back writes (R184, R185): CTL as taken with OWN 0 and STATUS, and UNDELIV; PROG. -/
def backBytes (r : Rec) : List (DWord × List Byte × Bool) :=
  let ctl := rCtl r.bytes
  [(r.addr, leBytes 4 (ctl - bits ctl 15 8 * 256 - bits ctl 0 0 + r.code * 256) ++ leBytes 4 r.undeliv, false),
   (r.addr + 124, leBytes 4 (min r.moved 0xFFFFFFFF), false)]

/-- BARGE_WRITEBACK (R185): CTL, UNDELIV and PROG written back. -/
def writeBack (s : State) (die core ch : Nat) : Option State :=
  match chanAt s die core ch with
  | none => none
  | some (o, x, r) =>
    if r.wrote || !(r.finished || r.cancelled) || opFrozen s x then none
    else
      match opWrites (recDone s die core ch x r) x (backBytes r) with
      | (.error (.lost, _), s) => some (s.updChan die core ch (fun h => { h with cur := h.cur.map (fun r => { r with wrote := true }) }))
      | (.error (e, va), s) => some (failOp s o e va r.addr r.moved)
      | (.ok _, s) => some (s.updChan die core ch (fun h => { h with cur := h.cur.map (fun r => { r with wrote := true }) }))

/-- The add of a record written back, and the chain's way on (R176, R185). -/
def completeRec (s : State) (o : Nat) (x : EngOp) (ch : Nat) : Option State :=
  match chanAt s x.die x.core ch with
  | none => none
  | some (o', _, r) =>
    if o' ≠ o || !r.wrote then none
    else
      let b := r.bytes
      let on := fun (s : State) =>
        if r.cancelled || rNext b = 0 || baseBad (rNext b) 128 then endChain s x.die x.core ch o
        else s.updChan x.die x.core ch (fun h => { h with cur := none, next := some (BitVec.ofNat 64 (rNext b)) })
      if rCnt b = 0 || ptrBad (rCnt b) 8 then some (on s)
      else match counterAdd s x (BitVec.ofNat 64 (rCnt b)) (rInc b) (rCsys b) r.owed r.cancelled with
        | (.error (e, va), s) => some (failOp s o e va r.addr r.moved)
        | (.ok _, s) => some (on s)

/-! ## The events -/

/-- An event whose effect is given where it can happen; where it cannot, its turn passes (log entry 2). -/
def happens (s : State) : Option State → Out
  | some s => .next s
  | none => .next s.pass

/-- BARGE_RECORD_TAKE (R185). -/
def execBargeRecordTake (s : State) : Out :=
  match s.model.ev with
  | some (.bargeRecordTake die core ch) => happens s (recordTake s die core ch)
  | _ => .next s.pass

/-- BARGE_DATA_LAND (R188). -/
def execBargeDataLand (s : State) : Out :=
  match s.model.ev with
  | some (.bargeDataLand die core ch ahead) => happens s (dataLand s die core ch ahead)
  | _ => .next s.pass

/-- SLIPFILL_ROOM (R189). -/
def execSlipfillRoom (s : State) : Out :=
  match s.model.ev with
  | some (.slipfillRoom die core ch) => happens s (slipRoom s die core ch)
  | _ => .next s.pass

/-- BARGE_WRITEBACK (R185). -/
def execBargeWriteback (s : State) : Out :=
  match s.model.ev with
  | some (.bargeWriteback die core ch) => happens s (writeBack s die core ch)
  | _ => .next s.pass

/-- ENGINE_COMPLETION (R176). -/
def execEngineCompletion (s : State) : Out :=
  match s.model.ev with
  | some (.engineCompletion o) =>
    match FMap.get? s.ops o with
    | none => .next s.pass
    | some x =>
      if addHeldUp s x then .next s.pass
      else match x.kind with
        | .chain ch => happens s (completeRec s o x ch)
        | _ => if x.st = .adding then .next (completeOp s o x) else .next s.pass
  | _ => .next s.pass

end Sys2Proof.Machine
end

