-- ==== Sys2Proof/Machine/Matrix.lean ====
section
/-! DEFINITION. The matrix engine (R193-R198, R277-R279): MCMD, the scales, the contributions of R74, the K-blocks. -/

namespace Sys2Proof.Machine

/-! ## The parameter block (R193, R194) -/

def mFmtA (b : List Byte) : Nat := field b 0 1
def mFmtB (b : List Byte) : Nat := field b 1 1
def mTile (b : List Byte) : Nat := field b 2 1
def mFlags (b : List Byte) : Nat := field b 3 1
def mZero (b : List Byte) : Bool := bit (mFlags b) 0
def mScmem (b : List Byte) : Bool := bit (mFlags b) 1
def mTri (b : List Byte) : Nat := bits (mFlags b) 4 3
def mM (b : List Byte) : Nat := field b 4 2
def mN (b : List Byte) : Nat := field b 6 2
def mK (b : List Byte) : Nat := field b 8 4
def mDiag (b : List Byte) : Int := sfield b 12 2

/-- KB and RPB (R194). -/
def mKb (b : List Byte) : Nat := ceilDiv (mK b) 128
def mRpb (b : List Byte) : Nat := ceilDiv (mM b) 32

/-- The operand formats of a floating-point code (R61). -/
def fmtOf (c : Nat) : Fmt := match c with | 1 => e4m3 | 2 => e5m2 | 5 => bf16 | _ => fp16

/-- Whether a pair of formats is one that the engine multiplies (R194). -/
def mPairOk (a b : Nat) : Bool :=
  (a == 0 && b == 0) || ((a == 1 || a == 2) && (b == 1 || b == 2)) || ((a == 3 || a == 4) && (b == 3 || b == 4)) ||
  (a == 5 && b == 5) || (a == 6 && b == 6)

/-- A malformed MCMD block, for a group with a register declaration in a block with a tile count (R31, R176, R177, R193, R194). -/
def mcmdBad (b : List Byte) (nregs ntiles : Nat) : Bool :=
  let e2 := mFmtA b == 0
  !(mPairOk (mFmtA b) (mFmtB b)) || decide (mTile b ≥ 4) || decide (mTile b ≥ ntiles) || mTri b == 3 || decide (mFlags b ≥ 32) ||
  mM b == 0 || decide (mM b > 128) || mN b == 0 || decide (mN b > 128) || mK b == 0 || decide (mK b > 2 ^ 31) ||
  decide (field b 15 1 ≥ 64) || !(zeroAt b 44 4) || !(zeroAt b 56 8) || ptrBad (field b 32 8) 8 || ptrBad (field b 48 8) 32 ||
  (!e2 && (mScmem b || field b 14 2 != 0 || !(zeroAt b 16 16))) ||
  (e2 && !mScmem b && (decide (field b 14 1 + mRpb b * mKb b > nregs) || decide (field b 15 1 + mKb b > 64))) ||
  (mScmem b && (baseBad (field b 16 8) 4 || baseBad (field b 24 8) 4))

/-! ## Scales (R195) -/

/-- The key of strip (i, b) and of square (b, 0) among an operation's scales. -/
def stripKey (b i : Nat) : Nat := b * 256 + i
def squareKey (b : Nat) : Nat := b * 256 + 128

/-- The register and lane that hold strip (i, b) (R195). -/
def stripReg (p : List Byte) (b i : Nat) : Nat × Nat := (field p 14 1 + mRpb p * b + i / 32, i % 32)

/-- The strips that a command uses. -/
def stripsOf (p : List Byte) : List (Nat × Nat) :=
  (List.range (mKb p)).flatMap (fun b => (List.range (mM p)).map (fun i => (b, i)))

/-- The scales that a command reads from its group's registers at issue (R195). -/
def regScales (g : Group) (p : List Byte) : FMap Word :=
  if mFmtA p ≠ 0 ∨ mScmem p = true then []
  else (List.range (mKb p)).flatMap (fun b =>
    (List.range (mM p)).map (fun i => let (r, l) := stripReg p b i; (stripKey b i, (g.readV r l).val)) ++
    [(squareKey b, (g.readS (field p 15 1 + b)).val)])

/-- The first register of a command's scales that is tagged: its number and space (R174). -/
def scaleTag (g : Group) (p : List Byte) : Option (Nat × Nat) :=
  if mFmtA p ≠ 0 ∨ mScmem p = true then none
  else match (stripsOf p).find? (fun e => let (r, l) := stripReg p e.1 e.2; (g.readV r l).tag) with
    | some e => some ((stripReg p e.1 e.2).1, 0)
    | none => ((List.range (mKb p)).find? (fun b => (g.readS (field p 15 1 + b)).tag)).map (fun b => (field p 15 1 + b, 2))

/-- Whether a write to one of a command's scale registers is outstanding (R228). -/
def scalesPending (g : Group) (p : List Byte) : Bool :=
  mFmtA p == 0 && !mScmem p &&
    ((stripsOf p).any (fun e => let (r, l) := stripReg p e.1 e.2; g.outstanding (.v r l)) ||
      (List.range (mKb p)).any (fun b => g.outstanding (.s (field p 15 1 + b))))

/-- MCMD (R173, R174, R193-R195): the tile is busy from here on (R32). -/
def execMcmd (a : BitVec 6) (s : State) : Out :=
  engIssue s a [] (fun s _ g => decide ((s.core g.die g.core).mq.length ≥ 4)) 64 64 (fun s c g p b =>
    let blk := FMap.getD s.blocks g.block {}
    if mcmdBad b g.nregs blk.tiles.length then .next (groupFault s c cAddr p)
    else if csysRefused s g (bit (mFlags b) 2) (field b 32 8) then .next (groupFault s c cProtect p)
    else if (dbgWin s g.die g.ctx).prc && scalesPending g b then .next (stopForDebugger s c.gid)
    else match scaleTag g b with
      | some (r, sp) => .next (poisonFault s c c.lanes r sp)
      | none =>
        let t := blk.tiles.getD (mTile b) 0
        let x := { newOp s c g .mcmd p b (field b 32 8) (field b 40 4) (bit (mFlags b) 2) (field b 48 8) with tile := t, scales := regScales g b }
        enqueue s c g x (fun s id => s.updCore g.die g.core (fun k =>
          { k with mq := k.mq ++ [id], tiles := k.tiles.modify t (fun t => { t with busy := t.busy + 1 }) })))

/-! ## Contributions (R74) -/

/-- Bytes of a row or column of 128 elements (R196, R279). -/
def rowBytes (fmt : Nat) : Nat := if fmt = 0 then 64 else if fmt ≤ 4 then 128 else 256

/-- One element's exact value as a whole number: of quarter units for E2M1X under its extra value, of the format's smallest unit for the
others; nothing for an infinity or a NaN. -/
def elemInt (fmt : Nat) (x : Int) (row : List Byte) (k : Nat) : Option Int :=
  match fmt with
  | 0 =>
    let byte := field row (k / 2) 1
    some (quarterOf x (if k % 2 = 0 then byte % 16 else byte / 16))
  | 3 => some (sfield row k 1)
  | 4 => some ((field row k 1 : Nat) : Int)
  | _ =>
    let f := fmtOf fmt
    let n := if fmt ≤ 2 then 1 else 2
    match f.decode (field row (n * k) n) with
    | .fin neg m e => some (finInt neg m e (1 - (f.bias : Int) - f.mw))
    | _ => none

/-- The exponent of the unit of a format's whole numbers. -/
def unitExp (fmt : Nat) : Int :=
  match fmt with
  | 0 => 0
  | 3 => 0
  | 4 => 0
  | _ => 1 - ((fmtOf fmt).bias : Int) - (fmtOf fmt).mw

/-- The exact sum of products over the K-steps of a K-block; infinities and NaNs enter as zero. -/
def dotInts (xs ys : List (Option Int)) : Int := (xs.zip ys).foldl (fun acc p => acc + p.1.getD 0 * p.2.getD 0) 0

/-- A sum rounded once to a 38-bit signed significand (R74). -/
def round38 (x e : Int) : Contrib :=
  if x = 0 then ⟨0, 0⟩
  else
    let k : Int := (Nat.log2 x.natAbs : Int) - 37
    let m := rintShift x k
    if m.natAbs ≥ 2 ^ 38 then ⟨m / 2, e + k + 1⟩ else ⟨m, e + k⟩

/-- The contribution of one element (R74), its scales given. -/
def contribOf (fa fb : Nat) (sa sb : Word) (xs ys : List (Option Int)) : Contrib :=
  let d := dotInts xs ys
  if fa = 0 then
    if scaleE sa = 0 ∨ scaleE sb = 0 ∨ scaleE sa = 255 ∨ scaleE sb = 255 then ⟨0, 0⟩
    else ⟨d * ((256 + scaleM sa : Nat) : Int) * ((256 + scaleM sb : Nat) : Int), (scaleE sa : Int) + (scaleE sb : Int) - 274⟩
  else if fa = 3 ∨ fa = 4 then ⟨d, 0⟩
  else round38 d (unitExp fa + unitExp fb)

/-- Whether TRI keeps an element (R197). -/
def triKeeps (p : List Byte) (i j : Nat) : Bool :=
  match mTri p with
  | 1 => decide ((j : Int) ≤ (i : Int) + mDiag p)
  | 2 => decide ((j : Int) ≥ (i : Int) + mDiag p)
  | _ => true

/-- The K-steps of K-block b (R196). -/
def kSteps (p : List Byte) (b : Nat) : Nat := min 128 (mK p - 128 * b)

/-- A K-block formed from its drained bytes and scales (R277 steps 3 and 4): the contributions, and whether an operand was infinite or NaN;
elements at and beyond K are not looked at (log entry 70). -/
def formKblock (p : List Byte) (b : Nat) (raw : List Byte) (strip : Nat → Word) (square : Word) : FMap Contrib × Bool :=
  let ra := rowBytes (mFmtA p)
  let rb := rowBytes (mFmtB p)
  let rows := (List.range (mM p)).map (fun i =>
    (List.range (kSteps p b)).map (fun k => elemInt (mFmtA p) (scaleX (strip i)) (slice raw (ra * i) ra) k))
  let cols := (List.range (mN p)).map (fun j =>
    (List.range (kSteps p b)).map (fun k => elemInt (mFmtB p) (scaleX square) (slice raw (ra * mM p + rb * j) rb) k))
  let cs := (rows.mapIdx (fun i xs => cols.mapIdx (fun j ys =>
    (128 * i + j, if triKeeps p i j then contribOf (mFmtA p) (mFmtB p) (strip i) square xs ys else ⟨0, 0⟩)))).flatten
  (cs, (rows ++ cols).any (fun xs => xs.any (·.isNone)))

/-! ## The engine at work (R197, R277) -/

/-- A slip drained of n bytes, with its poison window moved along (R189). -/
def Slip.drain (p : Slip) (n : Nat) : Slip :=
  { p with bytes := p.bytes.drop n, poisonFrom := if p.poisonTo ≤ n then 0 else p.poisonFrom - n, poisonTo := p.poisonTo - n }

/-- Whether a drain of n bytes takes one inside the poison window (R189). -/
def Slip.drainsPoison (p : Slip) (n : Nat) : Bool := decide (p.poisonFrom < p.poisonTo) && decide (p.poisonFrom < n)

/-- The command that a core's matrix engine is at. -/
def matrixAt (s : State) (die core : Nat) : Option (Nat × EngOp) :=
  ((s.core die core).mq.head?).bind (fun o => (FMap.get? s.ops o).map (fun x => (o, x)))

/-- MCMD_START (R197). -/
def mcmdStart (s : State) (die core : Nat) : Option State :=
  match matrixAt s die core with
  | none => none
  | some (o, x) =>
    if x.st ≠ .queued || opFrozen s x then none
    else
      let s := s.updOp o (fun x => { x with st := .running })
      some (if mZero x.params then
          s.updCore die core (fun c => { c with tiles := c.tiles.modify x.tile (fun t => { t with elems := [], exp := 0 }) })
        else s)

/-- Poison met by a command: its flag and its tile's (R180). -/
def markPoison (s : State) (o : Nat) (bad : Bool) : State :=
  match FMap.get? s.ops o, bad with
  | some x, true => (s.updOp o (fun x => { x with flags := x.flags ||| 8#32 })).updCore x.die x.core (fun c =>
      { c with tiles := c.tiles.modify x.tile (fun t => { t with poison := true }) })
  | _, _ => s

/-- The scale words of a K-block read from memory (R195): its strips and its square, with whether one is poisoned. -/
def memScales (s : State) (x : EngOp) (b : Nat) : List Nat → List Word → Bool → Except (AErr × DWord) (List Word × Bool) × State
  | [], ws, bad => (.ok (ws, bad), s)
  | i :: is, ws, bad =>
    let p := x.params
    let a := if i < mM p then BitVec.ofNat 64 (field p 16 8 + 4 * (i * mKb p + b)) else BitVec.ofNat 64 (field p 24 8 + 4 * b)
    match opRead s x a 4 with
    | (.error e, s) => (.error e, s)
    | (.ok (bs, bad'), s) => memScales s x b is (ws ++ [BitVec.ofNat 32 (field bs 0 4)]) (bad || bad')

/-- Whether the scales of a command's next K-block are at hand: the copies of its issue, or words read or restored for it. -/
def scalesHere (x : EngOp) : Bool :=
  mFmtA x.params != 0 || !mScmem x.params || (FMap.get? x.scales (squareKey x.kb)).isSome

/-- The scales of the next K-block taken (R277 step 2): with SCMEM the memory words, read now and kept with the drained bytes (R388). -/
def takeScales (s : State) (o : Nat) (x : EngOp) : State :=
  if scalesHere x then s
  else
    let p := x.params
    match memScales s x x.kb (List.range (mM p + 1)) [] false with
    | (.error (e, va), s) => failOp s o e va x.addr x.kb
    | (.ok (ws, bad), s) =>
      let ks := (List.range (mM p)).map (fun i => (stripKey x.kb i, ws.getD i 0)) ++ [(squareKey x.kb, ws.getD (mM p) 0)]
      markPoison (s.updOp o (fun x => { x with scales := ks })) o bad

/-- The toll counter of a command's formats (R429). -/
def mToll (fmt : Nat) : Nat := match fmt with | 0 => 0 | 1 => 1 | 2 => 1 | 3 => 2 | 4 => 2 | _ => 3

/-- A command ends with the exponent of its tile (R177). -/
def finishMcmd (s : State) (o : Nat) (x : EngOp) : State :=
  let t := (s.core x.die x.core).tiles.getD x.tile {}
  finishOp s o (fun x => { x with progress := x.kb, detail := BitVec.ofInt 64 t.exp, staged := none })

/-- The first half of a K-block's course (R277 steps 1 and 2): its rows and columns drained into staging, and its scales taken. Nothing while a slip
holds too few bytes. -/
def kblockDrain (s : State) (o : Nat) (x : EngOp) : Option State :=
  let p := x.params
  let c := s.core x.die x.core
  let na := mM p * rowBytes (mFmtA p)
  let nb := mN p * rowBytes (mFmtB p)
  if c.slipA.bytes.length < na ∨ c.slipB.bytes.length < nb then none
  else
    let s := s.updCore x.die x.core (fun k => { k with slipA := k.slipA.drain na, slipB := k.slipB.drain nb })
    let x := { x with staged := some (c.slipA.bytes.take na ++ c.slipB.bytes.take nb) }
    some (takeScales (markPoison (s.putOp o x) o (c.slipA.drainsPoison na || c.slipB.drainsPoison nb)) o x)

/-- The second half (R277 steps 3 to 5): the contributions formed and the tile updated, at once; the last K-block ends the command. -/
def kblockForm (s : State) (o : Nat) (x : EngOp) (raw : List Byte) : State :=
  let p := x.params
  let strip := fun (i : Nat) => FMap.getD x.scales (stripKey x.kb i) 0
  let square := FMap.getD x.scales (squareKey x.kb) 0
  let (cs, nonfin) := formKblock p x.kb raw strip square
  let ebad := mFmtA p == 0 && (scaleE square == 255 || (List.range (mM p)).any (fun i => scaleE (strip i) == 255))
  let s := s.updCore x.die x.core (fun k => { k with tiles := k.tiles.modify x.tile (fun t => applyKblock t cs) })
  let s := s.toll x.die (mToll (mFmtA p)) (2 * mM p * mN p * kSteps p x.kb)
  let x := { x with kb := x.kb + 1, kstep := 0, staged := none, progress := x.kb + 1, scales := if mScmem p then [] else x.scales,
                    flags := x.flags ||| BitVec.ofNat 32 (2 * bitOf ebad + 4 * bitOf nonfin) }
  let s := s.putOp o x
  if x.kb ≥ mKb p then finishMcmd s o x else s

/-- KBLOCK_APPLY (R277): the next K-block drained; then, or where it stands drained already (R379, R388), applied whole. -/
def kblockApply (s : State) (die core : Nat) : Option State :=
  match matrixAt s die core with
  | none => none
  | some (o, x) =>
    if x.st ≠ .running || opFrozen s x then none
    else if x.flags.getLsbD 4 then some (finishMcmd s o x)
    else match x.staged with
      | none => kblockDrain s o x
      | some raw => some (if scalesHere x then kblockForm s o x raw else takeScales s o x)

/-- MCMD_START (R197). -/
def execMcmdStart (s : State) : Out :=
  match s.model.ev with
  | some (.mcmdStart die core) => happens s (mcmdStart s die core)
  | _ => .next s.pass

/-- KBLOCK_APPLY (R277). -/
def execKblockApply (s : State) : Out :=
  match s.model.ev with
  | some (.kblockApply die core) => happens s (kblockApply s die core)
  | _ => .next s.pass

end Sys2Proof.Machine
end

