-- ==== Sys2Proof/Machine/Attn.lean ====
section
/-! DEFINITION. The memory attention units (R199-R201, R285-R289): ATTN, the tiles of a sweep, the arithmetic of a segment, its results. -/

namespace Sys2Proof.Machine

/-! ## The parameter block (R199) -/

def aQ (b : List Byte) : Nat := field b 0 8
def aMap (b : List Byte) : Nat := field b 8 8
def aPlist (b : List Byte) : Nat := field b 16 8
def aP0 (b : List Byte) : Nat := field b 24 4
def aP1 (b : List Byte) : Nat := field b 28 4
def aD (b : List Byte) : Nat := field b 32 2
def aQh (b : List Byte) : Nat := field b 34 1
def aFlags (b : List Byte) : Nat := field b 35 1
def aSeg (b : List Byte) : Nat := field b 36 2
def aDie (b : List Byte) : Nat := bits (field b 38 1) 3 0
def aStack (b : List Byte) : Nat := bits (field b 38 1) 4 4
def aScale (b : List Byte) : Word := BitVec.ofNat 32 (field b 40 4)
def aLimit (b : List Byte) : Nat := field b 44 4
def aList (b : List Byte) : Bool := aPlist b != 0
def aProbe (b : List Byte) : Bool := bit (aFlags b) 2

/-- A malformed ATTN block, for a group's die (R176, R177, R199). -/
def attnBad (s : State) (die : Nat) (b : List Byte) : Bool :=
  aQ b % 64 != 0 || aMap b % 16 != 0 || aPlist b % 32 != 0 ||
  (if aList b then aP0 b != 0 || aP1 b == 0 || decide (aP1 b > 4096)
   else aP0 b % 64 != 0 || decide (aP0 b ≥ aP1 b) || decide (aP1 b > 2 ^ 24)) ||
  !([64, 128, 256].contains (aD b)) || aQh b == 0 || decide (aQh b > 32) || decide (aFlags b ≥ 8) ||
  aSeg b % 64 != 0 || decide (aSeg b < 64) || decide (aSeg b > 4096) ||
  decide (field b 38 1 ≥ 32) || !((vfDies s die).contains (aDie b)) || field b 39 1 != 0 ||
  field b 48 8 % 64 != 0 || field b 56 8 % 32 != 0 || (!aProbe b && field b 64 8 != 0) ||
  ptrBad (field b 72 8) 8 || !(zeroAt b 84 4) || ptrBad (field b 88 8) 32 || !(zeroAt b 96 32)

/-- The queue of the MAU of a stack. -/
def mauQueue (d : Die) (stack : Nat) : List Nat := if stack = 0 then d.mau0 else d.mau1

/-- Whether the MAU that a block names is full; the block is looked at for its STACK field alone (R173, R174). -/
def mauFull (s : State) (c : Issue) (g : Group) (p : DWord) : Bool :=
  if addrBad p 64 then false
  else match vRead s g.die g.core g.ctx g.ring (holdOf s g c.lanes) p 128 with
    | (.ok (b, _), _) => decide ((mauQueue (s.die (aDie b)) (aStack b)).length ≥ 64)
    | _ => false

/-- ATTN (R173, R174, R199). -/
def execAttn (a : BitVec 6) (s : State) : Out :=
  engIssue s a [] (fun s c g => !(g.sPairT a) && mauFull s c g (g.sPair a)) 64 128 (fun s c g p b =>
    if attnBad s g.die b then .next (groupFault s c cAddr p)
    else if csysRefused s g (bit (aFlags b) 1) (field b 72 8) then .next (groupFault s c cProtect p)
    else
      let x := newOp s c g .attn p b (field b 72 8) (field b 80 4) (bit (aFlags b) 1) (field b 88 8)
      enqueue s c g x (fun s id => s.updDie (aDie b) (fun d =>
        if aStack b = 0 then { d with mau0 := d.mau0 ++ [id] } else { d with mau1 := d.mau1 ++ [id] })))

/-! ## Geometry (R200, R201) -/

/-- The tiles of a sweep, of a segment, and the end of the segment that begins at a tile. -/
def aTiles (b : List Byte) : Nat := if aList b then aP1 b else ceilDiv (aP1 b - aP0 b) 64
def aPerSeg (b : List Byte) : Nat := aSeg b / 64
def aSegEnd (b : List Byte) (t : Nat) : Nat := min (t + aPerSeg b) (aTiles b)

/-- The bytes of a triple (R201). -/
def aTs (b : List Byte) : Nat := 64 * ceilDiv (8 + 4 * aD b) 64

/-! ## The arithmetic of a segment (R286) -/

/-- An element of a query vector as FP32. -/
def qElem (b raw : List Byte) (h i : Nat) : Word :=
  if bit (aFlags b) 0 then BitVec.ofNat 32 (field raw (2 * (h * aD b + i)) 2 * 65536)
  else BitVec.ofNat 32 (field raw (4 * (h * aD b + i)) 4)

/-- An element of a key-value vector as an exact value. -/
def kvElem (f : Nat) (vec : List Byte) (i : Nat) : Fv := (fmtOf f).decode (field vec (kvEs f * i) (kvEs f))

/-- s_p of a head at a position: the dot product rounded once, times SCALE rounded once (R286). -/
def scoreOf (b q : List Byte) (h f : Nat) (vec : List Byte) : Word :=
  let dot := (List.range (aD b)).foldl (fun acc i => Fv.add false acc (Fv.mul (fv32 (qElem b q h i)) (kvElem f vec i))) (.fin false 0 0)
  mulF32 (toF32 dot) (aScale b)

/-- The largest of words, as FMAX orders them. -/
def maxWords : List Word → Word
  | [] => inf32 true
  | w :: ws => ws.foldl (fun m x => if Fv.lt (fv32 m) (fv32 x) then x else m) w

/-- Whether a value is a number that FP32 holds. -/
def Fv.isF32 (v : Fv) : Bool := match v with | .fin _ _ _ => Fv.eq v (fv32 (toF32 v)) | _ => false

/-- The whole number m × 2^e, if it is one. -/
def wholeOf (m : Nat) (e : Int) : Option Nat :=
  if 0 ≤ e then some (m * 2 ^ e.toNat) else if m % 2 ^ (-e).toNat = 0 then some (m / 2 ^ (-e).toNat) else none

/-- t_p = 2^(s − m) within 1 ulp and at most 1 (R286, R287): a free value held to that (log entry 10), but exact where s − m is a whole number and
the power is normal (R304). -/
def mauExp (x m : Word) : Word :=
  match Fv.add false (fv32 x) (Fv.neg (fv32 m)) with
  | .fin n mm e =>
    match (wholeOf mm e).filter (fun k => decide (k ≤ 126)) with
    | some k => BitVec.ofNat 32 ((127 - k) * 2 ^ 23)
    | none =>
    let w := sfuPick 2 (Config.mauExp2 x m) false (fxExp2 n mm e)
    if Fv.lt (.fin false 1 0) (fv32 w) then 0x3F800000#32 else w
  | .inf true => 0
  | _ => nan32

/-- The exact sum of values from +0. -/
def fvSum (xs : List Fv) : Fv := xs.foldl (Fv.add false) (.fin false 0 0)

/-- Whether every partial sum of values is a number that FP32 holds. -/
def partials (acc : Fv) : List Fv → Bool
  | [] => true
  | v :: vs => (Fv.add false acc v).isF32 && partials (Fv.add false acc v) vs

/-- A compensated FP32 sum of terms in order (R286): a free value held to 2^−24 of the exact sum and 2^−25 of the sum of magnitudes; with an
infinity or a NaN among the terms, what they add to (log entry 10); and the exact sum where every partial sum and, as `exact` says, every product is
an FP32 value (R304). -/
def mauTotal (exact : Bool) (ws : List Word) : Word :=
  let vs := ws.map fv32
  let x := if exact && partials (.fin false 0 0) vs then toF32 (fvSum vs) else Config.mauSum ws
  match fvSum vs, fv32 x with
  | .fin n m e, .fin n' m' e' =>
    match Fv.add false (.fin n' m' e') (Fv.neg (.fin n m e)), fvSum (vs.map Fv.abs) with
    | .fin _ dm de, .fin _ am ae =>
      let q := min de (min ae e)
      if m ≠ 0 ∧ 2 ^ 25 * (dm * 2 ^ (de - q).toNat) ≤ 2 * (m * 2 ^ (e - q).toNat) + am * 2 ^ (ae - q).toNat then x
      else toF32 (.fin n m e)
    | _, _ => toF32 (.fin n m e)
  | v, _ => toF32 v

/-- One position that enters a segment: its number within the sweep, the position itself, its format, its vector. -/
structure Entrant where
  n : Nat
  pos : Nat
  fmt : Nat
  vec : List Byte
deriving DecidableEq, Repr

/-- An entrant put in its place by position, behind those of its own. -/
def addEntrant (e : Entrant) : List Entrant → List Entrant
  | [] => [e]
  | x :: xs => if e.pos < x.pos then e :: x :: xs else x :: addEntrant e xs

/-- Entrants in ascending position order (R286). -/
def byPosition (es : List Entrant) : List Entrant := es.foldl (fun acc e => addEntrant e acc) []

/-- The triple of a head over a segment's entrants, and the exponentials for PROBE: m, l, o (R200, R286). A NaN score is a NaN among them, and with no
entrant the triple is -infinity and zeros (log entry 10). -/
def triple (b q : List Byte) (h : Nat) (es : List Entrant) : Word × Word × List Word × List (Nat × Word) :=
  let d := aD b
  let ss := es.map (fun e => (e, scoreOf b q h e.fmt e.vec))
  let anyNan := (fv32 (aScale b)).isNan || (List.range d).any (fun i => (fv32 (qElem b q h i)).isNan) ||
    es.any (fun e => (List.range (2 * d)).any (fun i => (kvElem e.fmt e.vec i).isNan)) || ss.any (fun x => (fv32 x.2).isNan)
  let live := ss.filter (fun x => x.2 != inf32 true)
  let m := maxWords (live.map (·.2))
  if live.isEmpty && !(anyNan && !es.isEmpty) then (inf32 true, 0, List.replicate d 0, es.map (fun e => (e.n, 0)))
  else if anyNan then (nan32, nan32, List.replicate d nan32, es.map (fun e => (e.n, nan32)))
  else if m = inf32 false then
    (m, nan32, List.replicate d nan32, ss.map (fun x => (x.1.n, if x.2 = m then nan32 else 0)))
  else
    let ts := live.map (fun x => (x.1, mauExp x.2 m))
    let o := (List.range d).map (fun i =>
      let ps := ts.map (fun t => Fv.mul (fv32 t.2) (kvElem t.1.fmt t.1.vec (d + i)))
      mauTotal (ps.all Fv.isF32) (ps.map toF32))
    (m, mauTotal true (ts.map (·.2)), o, ts.map (fun t => (t.1.n, t.2)))

/-- The E4M3 byte of a probability (R201, R289): below 2^−9 it is zero. -/
def probByte (t : Word) : Byte :=
  if Fv.lt (fv32 t) (.fin false 1 (-9)) then 0 else BitVec.ofNat 8 (e4m3.round .rne (fv32 t))

/-! ## The sweep (R200, R285) -/

/-- The head dimension's query bytes. -/
def qBytes (b : List Byte) : Nat := aD b * (if bit (aFlags b) 0 then 2 else 4)

/-- The query vectors read head after head, with the heads that are poisoned (R180). -/
def readHeads (s : State) (x : EngOp) : List Nat → List Byte → List Nat → Except (AErr × DWord) (List Byte × List Nat) × State
  | [], acc, bad => (.ok (acc, bad), s)
  | h :: hs, acc, bad =>
    match opRead s x (BitVec.ofNat 64 (aQ x.params + h * qBytes x.params)) (qBytes x.params) with
    | (.error e, s) => (.error e, s)
    | (.ok (bs, p), s) => readHeads s x hs (acc ++ bs) (if p then bad ++ [h] else bad)

/-- Whether every operation before one in its MAU's queue has started (R181). -/
def inTurn (s : State) (q : List Nat) (o : Nat) : Bool :=
  (q.takeWhile (· != o)).all (fun k => match FMap.get? s.ops k with | some y => y.st != .queued | none => true)

/-- ATTN_SWEEP_START (R200): the query vectors are read. -/
def sweepStart (s : State) (o : Nat) : Option State :=
  match FMap.get? s.ops o with
  | none => none
  | some x =>
    let q := mauQueue (s.die (aDie x.params)) (aStack x.params)
    let fresh := x.st == .queued || (x.st == .running && x.extra.isEmpty)
    if x.kind ≠ .attn ∨ q.contains o = false ∨ fresh = false ∨ inTurn s q o = false ∨ opFrozen s x = true then none
    else if x.flags.getLsbD 4 then some (finishOp s o (fun d => d))
    else match readHeads s x (List.range (aQh x.params)) [] [] with
      | (.error (e, va), s) => some (failOp s o e va x.addr x.progress)
      | (.ok (bs, bad), s) => some (s.updOp o (fun x =>
          { x with st := .running, extra := bs, queryBad := bad, curTile := x.segTile, entering := [], stats := [],
                   flags := if bad.isEmpty then x.flags else x.flags ||| 8#32 }))

/-- The entry of tile t, with whether its line is poisoned, and the tile's first position (R200). -/
def tileEntry (s : State) (x : EngOp) (t : Nat) : Except (AErr × DWord) (List Byte × Bool × Nat) × State :=
  let b := x.params
  if aList b then
    match opRead s x (BitVec.ofNat 64 (aPlist b + 32 * t)) 32 with
    | (.error e, s) => (.error e, s)
    | (.ok (bs, bad), s) => (.ok (slice bs 0 16, bad, 64 * field bs 16 4), s)
  else
    match entryRead s x (BitVec.ofNat 64 (aMap b + 16 * (aP0 b / 64 + t))) with
    | (.error e, s) => (.error e, s)
    | (.ok (e, bad), s) => (.ok (e, bad, aP0 b + 64 * t), s)

/-- The status of a tile and its block's bytes where they are read (R285). A poisoned map or gather entry gives POISON (log entry 64). -/
def tileStatus (s : State) (x : EngOp) (e : List Byte) (bad : Bool) : Nat × List Byte × State :=
  let b := x.params
  if bad || kvIll s x.die e then (4, [], s)
  else if kvStatus e ≠ 0 then (kvStatus e, [], s)
  else if kvDim e ≠ aD b then (4, [], s)
  else if bits (kvAddr e) 44 41 ≠ aDie b ∨ bits (kvAddr e) 40 40 ≠ aStack b then (3, [], s)
  else match kvBlock s x.die x.child e with
    | (.raw raw, s) => (0, raw, s)
    | (_, s) => (4, [], s)

/-- The entrants of an OK tile (R200, R282): positions at or below LIMIT, where that does not admit every one (R199), and in range mode below P1; each
with its format, its position and its vector. -/
def tileEntrants (b : List Byte) (t base : Nat) (e raw : List Byte) : List (Nat × List Byte) :=
  ((List.range 64).filter (fun i => (aLimit b == 0xFFFFFFFF || decide (base + i ≤ aLimit b)) && (aList b || decide (base + i < aP1 b)))).map (fun i =>
    (64 * t + i, b8 (kvEfmt e) :: leBytes 8 (base + i) ++ slice raw (2 * aD b * kvEs (kvEfmt e) * i) (2 * aD b * kvEs (kvEfmt e))))

/-- The entrants that an operation holds. -/
def EngOp.entrants (x : EngOp) : List Entrant := byPosition (x.entering.map (fun e => ⟨e.1, field e.2 1 8, field e.2 0 1, e.2.drop 9⟩))

/-- The writes of a finished segment (R180, R201): triples, tile statuses and, with PROBE, probabilities. -/
def segWrites (x : EngOp) : List (DWord × List Byte × Bool) :=
  let b := x.params
  let g := x.segTile / aPerSeg b
  let heads := (List.range (aQh b)).map (fun h => (h, x.queryBad.contains h, triple b x.extra h x.entrants))
  let trips := heads.map (fun t =>
    let (m, l, o, _) := t.2.2
    (BitVec.ofNat 64 (field b 48 8 + (g * aQh b + t.1) * aTs b), padTo (aTs b) (bytesOf (m :: l :: o)), t.2.1))
  let nib := fun (i : Nat) => x.stats.getD i 0xF
  let tst := (BitVec.ofNat 64 (field b 56 8 + 32 * g), (List.range 32).map (fun i => b8 (nib (2 * i) + 16 * nib (2 * i + 1))), false)
  let probs := if aProbe b then heads.map (fun t =>
      let n := 64 * (aSegEnd b x.segTile - x.segTile)
      let ps := t.2.2.2.2.2
      (BitVec.ofNat 64 (field b 64 8 + t.1 * 64 * aTiles b + 64 * x.segTile),
       (List.range n).map (fun i => match ps.find? (fun e => e.1 == 64 * x.segTile + i) with | some e => probByte e.2 | none => 0), t.2.1))
    else []
  trips ++ [tst] ++ probs

/-- The positions and tiles of the segment under way counted into what the record reports (R177). -/
def EngOp.counted (x : EngOp) : EngOp :=
  let bad := (x.stats.filter (· != 0)).length
  let fl : BitVec 32 := BitVec.ofNat 32 (32 * bitOf (x.stats.contains 2) + 64 * bitOf (bad != 0))
  { x with progress := x.progress + x.entering.length, detail := x.detail + BitVec.ofNat 64 bad, flags := x.flags ||| fl, entering := [], stats := [] }

/-- A cancelled sweep ends with all that it has swept counted (R177, R179, R429). -/
def cancelSweep (s : State) (o : Nat) (x : EngOp) : State := finishOp (s.toll (aDie x.params) 13 x.entering.length) o EngOp.counted

/-- A segment ends (R177, R201, R429): its results written and counted; the last one ends the sweep. -/
def segmentEnd (s : State) (o : Nat) (x : EngOp) : State :=
  match opWrites s x (segWrites x) with
  | (.error (e, va), s) => failOp s o e va x.addr x.progress
  | (.ok _, s) =>
    let n := x.entering.length
    let x := { x.counted with segTile := aSegEnd x.params x.segTile }
    let s := (s.putOp o x).toll (aDie x.params) 13 n
    if x.segTile ≥ aTiles x.params then finishOp s o (fun d => d) else s

/-- ATTN_TILE (R285): the next tile of the segment; with the segment's last tile its results are written. -/
def attnTile (s : State) (o : Nat) : Option State :=
  match FMap.get? s.ops o with
  | none => none
  | some x =>
    if x.kind ≠ .attn ∨ x.st ≠ .running ∨ x.extra.isEmpty = true ∨ opFrozen s x = true then none
    else if x.flags.getLsbD 4 then some (cancelSweep s o x)
    else
      let t := x.curTile
      if t ≥ aSegEnd x.params x.segTile then some (segmentEnd s o x)
      else match tileEntry s x t with
        | (.error (e, va), s) => some (failOp s o e va x.addr x.progress)
        | (.ok (e, bad, base), s) =>
          let (st, raw, s) := tileStatus s x e bad
          let x := { x with curTile := t + 1, stats := x.stats ++ [st],
                            entering := x.entering ++ (if st = 0 then tileEntrants x.params t base e raw else []) }
          let s := s.putOp o x
          some (if t + 1 ≥ aSegEnd x.params x.segTile then segmentEnd s o x else s)

/-- ATTN_SWEEP_START (R200). -/
def execAttnSweepStart (s : State) : Out :=
  match s.model.ev with
  | some (.attnSweepStart o) => happens s (sweepStart s o)
  | _ => .next s.pass

/-- ATTN_TILE (R285). -/
def execAttnTile (s : State) : Out :=
  match s.model.ev with
  | some (.attnTile o) => happens s (attnTile s o)
  | _ => .next s.pass

end Sys2Proof.Machine
end

