-- ==== Sys2Proof/Machine/Unmask.lean ====
section
/-! DEFINITION. The unmasking engine (R202-R204, R290-R292): UNMASK, the ranking of a round, its writes one after another. -/

namespace Sys2Proof.Machine

/-! ## The parameter block (R202, R203) -/

def uNpos (b : List Byte) : Nat := field b 32 4
def uShare (b : List Byte) : Nat := field b 36 2
def uRadius (b : List Byte) : Nat := field b 38 1
def uFlags (b : List Byte) : Nat := field b 39 1
def uThr (b : List Byte) : Word := BitVec.ofNat 32 (field b 40 4)
def uNlg (b : List Byte) : Nat := field b 44 1

/-- A malformed UNMASK block (R176, R177, R202). -/
def unmaskBad (b : List Byte) : Bool :=
  field b 0 8 % 4 != 0 || field b 16 8 % 4 != 0 || field b 24 8 % 4 != 0 || uNpos b == 0 || decide (uNpos b > 2 ^ 20) ||
  decide (uShare b > 256) || decide (uFlags b ≥ 8) || (bit (uFlags b) 0 && (fv32 (uThr b)).isNan) || decide (uNlg b > 16) ||
  !(zeroAt b 45 3) || field b 48 8 % 32 != 0 || (!bit (uFlags b) 2 && field b 56 8 != 0) ||
  ptrBad (field b 64 8) 8 || !(zeroAt b 76 4) || ptrBad (field b 80 8) 32 || !(zeroAt b 88 40)

/-- A layer-group entry breaks the limits of R203. -/
def layerBad (e : List Byte) : Bool :=
  field e 8 8 % 16 != 0 || field e 16 4 == 0 || decide (field e 16 4 > 256) || field e 20 4 % 16 != 0 || !(zeroAt e 24 8)

/-- The layer groups of an operation, as its issue read them. -/
def layersOf (lgt : List Byte) : List (List Byte) := (List.range (lgt.length / 32)).map (fun i => slice lgt (32 * i) 32)

/-- UNMASK (R173, R174, R202, R203): the layer-group entries are read with the block, before either is judged. -/
def execUnmask (a : BitVec 6) (s : State) : Out :=
  engIssue s a [] (fun s _ g => decide ((s.die g.die).umx.length ≥ 8)) 64 128 (fun s c g p b =>
    let go := fun (s : State) (lgt : List Byte) =>
      if unmaskBad b || (layersOf lgt).any layerBad then .next (groupFault s c cAddr p)
      else if csysRefused s g (bit (uFlags b) 1) (field b 64 8) then .next (groupFault s c cProtect p)
      else
        let x := { newOp s c g .unmask p b (field b 64 8) (field b 72 4) (bit (uFlags b) 1) (field b 80 8) with extra := lgt }
        enqueue s c g x (fun s id => s.updDie g.die (fun d => { d with umx := d.umx ++ [id] }))
    if uNlg b = 0 then go s []
    else blockRead s c g (BitVec.ofNat 64 (field b 48 8)) (32 * uNlg b) go)

/-! ## Ranking (R204, R291) -/

/-- Whether a position ranks before another: by CONF descending, NaN after every number, then by position. -/
def ranksBefore (a b : Nat × Word) : Bool :=
  let x := fv32 a.2
  let y := fv32 b.2
  match x.isNan, y.isNan with
  | true, true => decide (a.1 < b.1)
  | true, false => false
  | false, true => true
  | false, false => Fv.lt y x || (!(Fv.lt x y) && decide (a.1 < b.1))

/-- Insertion into a ranked list. -/
def rankIn (a : Nat × Word) : List (Nat × Word) → List (Nat × Word)
  | [] => [a]
  | b :: bs => if ranksBefore a b then a :: b :: bs else b :: rankIn a bs

/-- The masked positions of a bitmap (R202). -/
def maskedOf (mask : List Byte) (npos : Nat) : List Nat := (List.range npos).filter (fun p => (mask.getD (p / 8) 0).getLsbD (p % 8))

/-- How many positions a round commits (R204). -/
def commits (b : List Byte) (ranked : List (Nat × Word)) : Nat :=
  let rem := ranked.length
  if rem = 0 then 0
  else
    let n := max 1 (ceilDiv (uShare b * rem) 256)
    let t := (ranked.filter (fun e => Fv.lt (fv32 (uThr b)) (fv32 e.2) || Fv.eq (fv32 (uThr b)) (fv32 e.2))).length
    min (if bit (uFlags b) 0 then max n t else n) rem

/-- Words read at places of an array, with whether one is poisoned. -/
def readWords (s : State) (x : EngOp) (base : Nat) : List Nat → List Word → Bool → Except (AErr × DWord) (List Word × Bool) × State
  | [], ws, bad => (.ok (ws, bad), s)
  | p :: ps, ws, bad =>
    match opRead s x (BitVec.ofNat 64 (base + 4 * p)) 4 with
    | (.error e, s) => (.error e, s)
    | (.ok (bs, b), s) => readWords s x base ps (ws ++ [BitVec.ofNat 32 (field bs 0 4)]) (bad || b)

/-- The tiles that a round's commits affect (R204). -/
def tilesNear (b : List Byte) (chosen : List Nat) : List Nat :=
  (List.range (ceilDiv (uNpos b) 64)).filter (fun u =>
    chosen.any (fun p => decide (u ≤ p / 64 + uRadius b) && decide (p / 64 ≤ u + uRadius b)))

/-! ## Writes (R204, R290) -/

/-- One write of a round: bytes, a bit set in a byte, an entry's status made STALE. -/
inductive UmxWrite
  | put (va : Nat) (bs : List Byte)
  | orBit (va i : Nat)
  | stale (va : Nat)
deriving DecidableEq, Repr

/-- The writes of a round in order (R204). `entering` holds the MASK as read, `stats` the positions chosen, `staged` their tokens. -/
def umxWrites (x : EngOp) : List UmxWrite :=
  let b := x.params
  let mask := (x.entering.headD (0, [])).2
  let toks := x.staged.getD []
  let one := fun (i p : Nat) =>
    let gone := (x.stats.take (i + 1)).filter (fun q => q / 8 == p / 8)
    let byte := gone.foldl (fun (m : Byte) q => m &&& ~~~(1#8 <<< (q % 8))) (mask.getD (p / 8) 0)
    [UmxWrite.put (field b 24 8 + 4 * p) (slice toks (4 * i) 4), .put (field b 8 8 + p / 8) [byte]]
  let list := if bit (uFlags b) 2 ∧ x.stats ≠ [] then [UmxWrite.put (field b 56 8) (x.stats.flatMap (fun p => leBytes 4 p))] else []
  let near := tilesNear b x.stats
  let layer := fun (e : List Byte) => near.flatMap (fun u =>
    .orBit (field e 0 8 + u / 8) (u % 8) ::
      (List.range (field e 16 4)).map (fun h => UmxWrite.stale (field e 8 8 + h * field e 20 4 + 16 * u)))
  (x.stats.mapIdx one).flatten ++ list ++ (layersOf x.extra).flatMap layer

/-- What a round changes at its home (R290): nothing, or an address with what is done there. -/
abbrev UmxChange := State → Nat → Option (Nat × HeldDo)

/-- A word changed where it is held, as one event (R290): at its home, or in a deterministic child's view. A poisoned word, or one whose read is lost,
stays as it is (log entry 64). -/
def umxChange (s : State) (x : EngOp) (va : DWord) (n : Nat) (change : UmxChange) : Except (AErr × DWord) Unit × State :=
  match xlNeeds s x.die x.tlbCore x.ctx x.ring va [.read, .write] { child := x.child } with
  | (.error e, s) => (.error (e, va), s)
  | (.ok t, s) =>
    match placeErr s x.die t.pa with
    | some e => (.error (e, va), s)
    | none =>
      let vl := va.toNat / 128
      let (lost, s) := homeRead (writeBackWhere (claimLine s x.die x.ctx vl) x.die (fun l => l.line == lineOf t.pa)) x.die t.pa n
      match (if lost then none else change s t.pa) with
      | none => (.ok (), s)
      | some (pa, act) =>
        let h : HeldOp := ⟨vl, pa, s.gen (s.ctx x.die x.ctx).asid, act, t.cbit⟩
        let s := noteKids s x.kid.toList vl
        match x.child.bind (fun k => (FMap.get? s.children k).map (fun y => (k, y))) with
        | some (k, y) => if heldFits s k y [h] then (.ok (), wakeOps (addHeld s k h) x.die (some k) [h]) else (.error (.full, va), s)
        | none => (.ok (), wakeOps (mergeOp s x.die x.core x.ctx h) x.die none [h])

/-- An entry as a party sees it at its home is OK or STALE (R204). -/
def entryLive (s : State) (x : EngOp) (pa : Nat) : Bool :=
  let e := viewBytes s x.die x.child pa 16
  !(viewMark s x.die x.child pa) && !(kvIll s x.die e) && (kvStatus e == 0 || kvStatus e == 2)

/-- One write performed. -/
def umxWrite (s : State) (x : EngOp) (w : UmxWrite) : Except (AErr × DWord) Unit × State :=
  match w with
  | .put va bs => opWrite s x false (BitVec.ofNat 64 va) bs
  | .orBit va i =>
    umxChange s x (BitVec.ofNat 64 (va / 4 * 4)) 4 (fun _ pa => some (pa, .atomic .or false (1#64 <<< (8 * (va % 4) + i)) 0))
  | .stale va =>
    umxChange s x (BitVec.ofNat 64 va) 16 (fun s pa => if entryLive s x pa then some (pa + 12, .store [2] none) else none)

/-! ## The round -/

/-- The commits that a round has made (R177, R204): all it chose, or when it is cancelled those whose token and bit are written. -/
def commitsMade (x : EngOp) : Nat := if x.flags.getLsbD 4 then min (x.kb / 2) x.stats.length else x.stats.length

/-- A round ends: PROGRESS the positions that stay masked, DETAIL the commits (R177, R204). Of a round cancelled before it could read MASK, how many
positions stay masked is a free value within NPOS. -/
def roundEnd (s : State) (o : Nat) (x : EngOp) : State :=
  let (v, t) := s.draw
  let (rem, s) := if x.entering.isEmpty then (v.toNat % (uNpos x.params + 1), t) else (x.lost, s)
  (finishOp s o (fun y => { y with progress := rem - commitsMade x, detail := BitVec.ofNat 64 (commitsMade x), lost := 0 })).toll x.die 14 1

/-- The ranking of a round (R290, R291): MASK, the masked positions' CONF and the chosen ones' PROP, all read before the first write; the
round commits nothing when any is poisoned (R180). `lost` keeps the number of masked positions until the round ends. -/
def rankRound (s : State) (o : Nat) (x : EngOp) : State :=
  let b := x.params
  match opRead s x (BitVec.ofNat 64 (field b 8 8)) (ceilDiv (uNpos b) 8) with
  | (.error (e, va), s) => failOp s o e va x.addr 0
  | (.ok (mask, bad0), s) =>
    let ps := maskedOf mask (uNpos b)
    let s := s.updOp o (fun x => { x with lost := ps.length, entering := [(0, mask)] })
    match readWords s x (field b 0 8) ps [] false with
    | (.error (e, va), s) => failOp s o e va x.addr 0
    | (.ok (cs, bad1), s) =>
      let ranked := (ps.zip cs).foldr rankIn []
      let chosen := (ranked.take (commits b ranked)).map (·.1)
      match readWords s x (field b 16 8) chosen [] false with
      | (.error (e, va), s) => failOp s o e va x.addr 0
      | (.ok (ts, bad2), s) =>
        let bad := bad0 || bad1 || bad2
        let x := { x with st := .running, lost := ranked.length, stats := if bad then [] else chosen, staged := some (bytesOf ts),
                          entering := [(0, mask)], kb := 0, flags := if bad then x.flags ||| 8#32 else x.flags }
        let s := s.putOp o x
        if (umxWrites x).isEmpty then roundEnd s o x else s

/-- UNMASK_ROUND (R204): the ranking of the next round, or the next write of the round under way. -/
def unmaskRound (s : State) (die : Nat) : Option State :=
  match (s.die die).umx.head?.bind (fun o => (FMap.get? s.ops o).map (fun x => (o, x))) with
  | none => none
  | some (o, x) =>
    if opFrozen s x then none
    else match x.st with
      | .queued => some (rankRound s o x)
      | .running =>
        if x.flags.getLsbD 4 then some (roundEnd s o x)
        else if x.staged.isNone then some (rankRound s o x)
        else match (umxWrites x)[x.kb]? with
          | none => some (roundEnd s o x)
          | some w => match umxWrite s x w with
            | (.error (e, va), s) => some (failOp s o e va x.addr x.kb)
            | (.ok _, s) =>
              let x := { x with kb := x.kb + 1 }
              let s := s.putOp o x
              some (if x.kb ≥ (umxWrites x).length then roundEnd s o x else s)
      | _ => none

/-- UNMASK_ROUND (R204). -/
def execUnmaskRound (s : State) : Out :=
  match s.model.ev with
  | some (.unmaskRound die) => happens s (unmaskRound s die)
  | _ => .next s.pass

end Sys2Proof.Machine
end

