-- ==== Sys2Proof/Machine/Coll.lean ====
section
/-! DEFINITION. The collective unit (R205-R208, R368): COLL, the balanced tree of R207, the end of a collective at a member. -/

namespace Sys2Proof.Machine

/-! ## The parameter block and the team (R205, R206) -/

def cOp (b : List Byte) : Nat := field b 0 1
def cFmt (b : List Byte) : Nat := field b 1 1
def cRop (b : List Byte) : Nat := field b 2 1
def cFlags (b : List Byte) : Nat := field b 3 1
def cCount (b : List Byte) : Nat := field b 4 4
def cSeq (b : List Byte) : Nat := field b 44 4

def tNm (t : List Byte) : Nat := field t 0 2
def tRoot (t : List Byte) : Nat := field t 2 2
def tSelf (t : List Byte) : Nat := field t 4 2
def tMember (t : List Byte) (m : Nat) : Nat := field t (64 + 4 * m) 4
def tPkg (t : List Byte) (m : Nat) : Nat := bits (tMember t m) 9 0
def tDie (t : List Byte) (m : Nat) : Nat := bits (tMember t m) 13 10

/-- The bits of an element of a format (R61, R63); 0 for an unassigned code. -/
def elemBits (f : Nat) : Nat :=
  match f with
  | 0 => 4
  | 1 => 8
  | 2 => 8
  | 3 => 8
  | 4 => 8
  | 5 => 16
  | 6 => 16
  | 7 => 32
  | 8 => 16
  | 9 => 32
  | 10 => 64
  | 11 => 32
  | 12 => 16
  | 13 => 32
  | _ => 0

/-- A malformed COLL block (R176, R177, R205). A barrier keeps to the four formats too (log entry 20). -/
def collBad (b : List Byte) : Bool :=
  decide (cOp b > 4) || (if cOp b = 2 ∨ cOp b = 3 then elemBits (cFmt b) == 0 else !([5, 7, 9, 10].contains (cFmt b))) ||
  decide (cRop b > 2) || (cRop b != 0 && decide (cOp b > 1)) || decide (cFlags b > 1) ||
  (if cOp b = 4 then cCount b != 0 else cCount b == 0 || decide (cCount b > 2 ^ 28)) ||
  field b 8 8 % 64 != 0 || ptrBad (field b 32 8) 8 || ptrBad (field b 48 8) 32 || !(zeroAt b 56 8)

/-- A malformed team record, for the issuer's die (R206). -/
def teamBad (t : List Byte) (die : Nat) : Bool :=
  tNm t == 0 || decide (tNm t > 1024) || decide (tRoot t ≥ tNm t) || decide (tSelf t ≥ tNm t) || !(zeroAt t 6 58) ||
  (List.range (tNm t)).any (fun m => bits (tMember t m) 31 14 != 0) || tDie t (tSelf t) != die

/-- Whether a member lies on the issuer's own package. -/
def tLocal (t : List Byte) (m : Nat) : Bool := tPkg t m == tPkg t (tSelf t)

/-- The ranks of a team on other packages, in rank order. -/
def tRemote (t : List Byte) : List Nat := (List.range (tNm t)).filter (fun m => !tLocal t m)

/-! ## Members (R208) -/

/-- Whether two members issued the same collective: equal OP, FMT, ROP, COUNT, SEQ and member lists (R208). -/
def collSame (x y : EngOp) : Bool :=
  let k := fun (z : EngOp) => (cOp z.params, cFmt z.params, cRop z.params, cCount z.params, cSeq z.params, tNm z.extra, z.extra.drop 64)
  k x == k y

/-- The operations that stand at a rank of a team on this package: those of its die that name that rank as their own. -/
def atRank (s : State) (t : List Byte) (m : Nat) : List (Nat × EngOp) :=
  s.ops.filter (fun e => e.2.kind == .coll && e.2.die == tDie t m && tSelf e.2.extra == m && !e.2.flags.getLsbD 0)

/-- The operation of a local member that issued the same collective; the oldest. -/
def memberOp (s : State) (x : EngOp) (m : Nat) : Option (Nat × EngOp) := (atRank s x.extra m).find? (fun e => collSame x e.2)

/-- What names a collective among those of its members: its sequence number and its member list. -/
def collKey (x : EngOp) : Nat × List Byte := (cSeq x.params, x.extra.drop 64)

/-- Whether two members' operations are one collective issued with a difference (R208): they share the sequence number or the member list, they
are not the same, and neither is the same as another of the other's rank. -/
def differs (s : State) (x y : EngOp) : Bool :=
  !collSame x y && ((collKey x).1 == (collKey y).1 || (collKey x).2 == (collKey y).2) &&
    (memberOp s x (tSelf y.extra)).isNone && (memberOp s y (tSelf x.extra)).isNone

/-- Whether a member detects a difference (R208): a member elsewhere may; on this package one does where the operation of a rank differs. -/
def detects (s : State) (x : EngOp) : Bool :=
  x.flags.getLsbD 8 || (x.staged.isNone && (!(tRemote x.extra).isEmpty ||
    (List.range (tNm x.extra)).any (fun m => (atRank s x.extra m).any (fun e => differs s x e.2))))

/-- What another member of this package has in flight of the collective of x: the same, or one that differs. -/
def counterpart (s : State) (x : EngOp) (m : Nat) : Option (Nat × EngOp) :=
  match memberOp s x m with
  | some e => some e
  | none => (atRank s x.extra m).find? (fun e => differs s x e.2)

/-- The ranks of x's team on this package but its own. -/
def otherRanks (x : EngOp) : List Nat := (List.range (tNm x.extra)).filter (fun m => tLocal x.extra m && m != tSelf x.extra)

/-- A difference ends the operation at every member (R208): those in flight are to end with MISMATCH, and those not yet issued when they are. -/
def spread (s : State) (x : EngOp) : State :=
  if x.flags.getLsbD 8 then s
  else
    let found := (otherRanks x).map (fun m => (m, counterpart s x m))
    let keys := (collKey x :: found.filterMap (fun e => e.2.map (fun y => collKey y.2))).dedup
    found.foldl (fun s e => match e.2 with
      | some (k, _) => s.updOp k (fun y => { y with flags := y.flags ||| 0x100#32 })
      | none => s.updDie (tDie x.extra e.1) (fun d => { d with collOwed := d.collOwed ++ [⟨e.1, x.ctx, keys⟩] })) s

/-- A loss ends the operation at every surviving member (R208): those in flight are to end with PEERLOST. -/
def spreadLoss (s : State) (x : EngOp) (n : Nat) : State :=
  ((otherRanks x).filterMap (fun m => (memberOp s x m).map (·.1))).foldl (fun s k => s.updOp k (fun y => { y with lost := max y.lost n })) s

/-- The members on this package that are lost: their die refuses the issuer's gangway traffic (R208, R424). -/
def lostLocal (s : State) (x : EngOp) : Nat :=
  ((List.range (tNm x.extra)).filter (fun m => tLocal x.extra m && !gangwayOk s x.die (tDie x.extra m))).length

/-! ## COLL -/

/-- COLL (R173, R174, R178, R205, R206): the team record is read with the block; on the ZH-940M a team with a member elsewhere is malformed (R353). A
member that issues what others have already found to differ is to end with MISMATCH (R208). -/
def execColl (a : BitVec 6) (s : State) : Out :=
  engIssue s a [] (fun s _ g => decide ((s.die g.die).coll.length ≥ 16)) 64 64 (fun s c g p b =>
    if collBad b then .next (groupFault s c cAddr p)
    else blockRead s c g (BitVec.ofNat 64 (field b 8 8)) 64 (fun s h =>
      if tNm h = 0 ∨ tNm h > 1024 then .next (groupFault s c cAddr p)
      else blockRead s c g (BitVec.ofNat 64 (field b 8 8)) (64 + 4 * tNm h) (fun s t =>
        if teamBad t g.die || (s.fit == .m && !(tRemote t).isEmpty) then .next (groupFault s c cAddr p)
        else if (!(tRemote t).isEmpty && !((s.die g.die).mpolicy.getLsbD 2)) || csysRefused s g (bit (cFlags b) 0) (field b 32 8) then
          .next (groupFault s c cProtect p)
        else
          let x := { newOp s c g .coll p b (field b 32 8) (field b 40 4) (bit (cFlags b) 0) (field b 48 8) with extra := t, st := .running }
          let owed := (s.die g.die).collOwed.find? (fun e => e.rank == tSelf t && e.keys.contains (collKey x))
          let x := { x with flags := if owed.isSome then 0x100#32 else 0 }
          enqueue s c g x (fun s id => s.updDie g.die (fun d =>
            { d with coll := d.coll ++ [id], collOwed := d.collOwed.filter (fun e => some e != owed) })))))

/-! ## Results (R207) -/

/-- An element of n bits of a byte list. -/
def elemAt (n : Nat) (raw : List Byte) (e : Nat) : Nat :=
  if n = 4 then field raw (e / 2) 1 / 16 ^ (e % 2) % 16 else field raw (n / 8 * e) (n / 8)

/-- Elements packed into bytes; an odd element of 4 bits shares its byte with zeros. -/
def packElems (n : Nat) : List Nat → List Byte
  | [] => []
  | [x] => if n = 4 then [b8 x] else leBytes (n / 8) x
  | x :: y :: xs => if n = 4 then b8 (x + 16 * y) :: packElems n xs else leBytes (n / 8) x ++ packElems n (y :: xs)

/-- op() of the tree on elements of a format: FP32 words for the floating-point formats. -/
def redOp (f rop x y : Nat) : Nat :=
  let w := fun (n : Nat) => BitVec.ofNat 32 n
  match f, rop with
  | 9, 0 => (w x + w y).toNat
  | 9, 1 => (maxS (w x) (w y)).toNat
  | 9, _ => (minS (w x) (w y)).toNat
  | 10, 0 => (BitVec.ofNat 64 x + BitVec.ofNat 64 y).toNat
  | 10, 1 => (maxS (BitVec.ofNat 64 x) (BitVec.ofNat 64 y)).toNat
  | 10, _ => (minS (BitVec.ofNat 64 x) (BitVec.ofNat 64 y)).toNat
  | _, 0 => (addF32 (w x) (w y)).toNat
  | _, 1 => (fmaxW (w x) (w y)).toNat
  | _, _ => (fminW (w x) (w y)).toNat

/-- One level of the balanced tree. -/
def redLevel (f rop : Nat) : List Nat → List Nat
  | x :: y :: xs => redOp f rop x y :: redLevel f rop xs
  | xs => xs

/-- The balanced tree in rank order (R207), by as many levels as it can need. -/
def redTree (f rop : Nat) : Nat → List Nat → Nat
  | 0, xs => xs.headD 0
  | n + 1, xs => if xs.length ≤ 1 then xs.headD 0 else redTree f rop n (redLevel f rop xs)

/-- red() of elements: BF16 goes through FP32 (R207). -/
def redElems (f rop : Nat) (xs : List Nat) : Nat :=
  if f = 5 then bf16.round .rne (fv32 (BitVec.ofNat 32 (redTree f rop 11 (xs.map (· * 65536))))) else redTree f rop 11 xs

/-- The elements of rank m's source that the collective reads, none but the root's in a broadcast (R207), and those of a destination (R205). -/
def srcCount (b t : List Byte) (m : Nat) : Nat :=
  if cOp b = 4 ∨ (cOp b = 3 ∧ m ≠ tRoot t) then 0 else if cOp b = 1 then tNm t * cCount b else cCount b
def dstCount (b t : List Byte) : Nat := if cOp b = 4 then 0 else if cOp b = 2 then tNm t * cCount b else cCount b

/-- The bytes that a number of elements takes. -/
def elemBytes (b : List Byte) (n : Nat) : Nat := ceilDiv (elemBits (cFmt b) * n) 8

/-- The bytes that element e lies in. -/
def bytesOfElem (n e : Nat) : List Nat := (List.range ((n * e + n - 1) / 8 + 1 - n * e / 8)).map (fun i => n * e / 8 + i)

/-- A source: its bytes, the 128-byte lines of its address range that are poisoned, and of a source elsewhere the poisoned elements. -/
structure Source where
  at_ : Nat
  raw : List Byte
  bad : List Nat
  sour : List Nat := []
deriving DecidableEq, Repr

/-- Whether element e of a source is poisoned (R180): a byte of it lies in a poisoned line. -/
def Source.badAt (n : Nat) (x : Source) (e : Nat) : Bool :=
  x.sour.contains e || (bytesOfElem n e).any (fun i => x.bad.contains (lineOf (x.at_ + i)))

/-- The elements of the sources that element e of rank m's result depends on: rank and index (R207). -/
def dependsOn (b t : List Byte) (m e : Nat) : List (Nat × Nat) :=
  match cOp b with
  | 0 => (List.range (tNm t)).map (fun r => (r, e))
  | 1 => (List.range (tNm t)).map (fun r => (r, m * cCount b + e))
  | 2 => [(e / cCount b, e % cCount b)]
  | 3 => [(tRoot t, e)]
  | _ => []

/-- The result at rank m, with the indices of the elements that are poisoned (R180, R207). -/
def collResult (b t : List Byte) (m : Nat) (srcs : List Source) : List Byte × List Nat :=
  let n := elemBits (cFmt b)
  let val := fun (d : Nat × Nat) => elemAt n (srcs.getD d.1 { at_ := 0, raw := [], bad := [] }).raw d.2
  let es := (List.range (dstCount b t)).map (fun e =>
    let ds := dependsOn b t m e
    if cOp b ≤ 1 then redElems (cFmt b) (cRop b) (ds.map val) else (ds.map val).headD 0)
  (packElems n es, (List.range (dstCount b t)).filter (fun e => (dependsOn b t m e).any (fun d => (srcs.getD d.1 { at_ := 0, raw := [], bad := [] }).badAt n d.2)))

/-- A source read line by line. -/
def readSource (s : State) (y : EngOp) : List (Nat × Nat) → Source → Except (AErr × DWord) Source × State
  | [], acc => (.ok acc, s)
  | (va, n) :: cs, acc =>
    match opRead s y (BitVec.ofNat 64 va) n with
    | (.error e, s) => (.error e, s)
    | (.ok (bs, bad), s) => readSource s y cs { acc with raw := acc.raw ++ bs, bad := if bad then lineOf va :: acc.bad else acc.bad }

/-- The sources of a team's ranks: a local member's from memory, a remote one's as it comes in. The operation whose read fails comes with
the error. -/
def gather (s : State) (x : EngOp) : List Nat → List (List Byte × List Nat) → List Source → Except (Option (Nat × AErr × DWord)) (List Source) × State
  | [], _, acc => (.ok acc, s)
  | m :: ms, rem, acc =>
    if tLocal x.extra m then
      match memberOp s x m with
      | none => (.error none, s)
      | some (o, y) =>
        match readSource s y (chunks (field y.params 16 8) (elemBytes y.params (srcCount y.params y.extra m)))
            { at_ := field y.params 16 8, raw := [], bad := [] } with
        | (.error (e, va), s) => (.error (some (o, e, va)), s)
        | (.ok src, s) => gather s x ms rem (acc ++ [src])
    else gather s x ms rem.tail (acc ++ [{ at_ := 0, raw := (rem.headD ([], [])).1, bad := [], sour := (rem.headD ([], [])).2 }])

/-- The results of every local member kept with its operation (R207). -/
def stageAll (s : State) (x : EngOp) (srcs : List Source) : State :=
  (List.range (tNm x.extra)).foldl (fun s m =>
    if tLocal x.extra m then
      match memberOp s x m with
      | some (o, y) =>
        let (bs, bad) := collResult y.params y.extra m srcs
        s.putOp o { y with staged := some bs, queryBad := bad, flags := if bad.isEmpty then y.flags else y.flags ||| 8#32 }
      | none => s
    else s) s

/-- Results staged where they are not: every member of this package has issued and what the others send has the right length. -/
def collReady (s : State) (o : Nat) (x : EngOp) (remote : List (List Byte × List Nat)) : Option State :=
  if x.staged.isSome then some s
  else
    let need := (tRemote x.extra).map (fun m => elemBytes x.params (srcCount x.params x.extra m))
    if remote.map (·.1.length) ≠ need ∨ lostLocal s x > 0 then none
    else match gather s x (List.range (tNm x.extra)) remote [] with
      | (.error none, _) => none
      | (.error (some (k, e, va)), s) =>
        if k = o then some (failOp s k e va x.addr 0) else some (failOp s k e va (FMap.getD s.ops k {}).addr 0)
      | (.ok srcs, s) => some (stageAll s x srcs)

/-- The pieces of a member's result as writes: line by line, those named by a test; poisoned where an element of theirs is (R180). An odd
last element of 4 bits keeps what shares its byte. -/
def collWrites (s : State) (x : EngOp) (keep : Nat → Bool) : List (DWord × List Byte × Bool) :=
  let b := x.params
  let n := elemBits (cFmt b)
  let dst := field b 24 8
  let bs := x.staged.getD []
  let odd := n = 4 ∧ dstCount b x.extra % 2 = 1
  let last := bs.length - 1
  let old := match opRead s x (BitVec.ofNat 64 (dst + last)) 1 with | (.ok (r, _), _) => r.headD 0 | _ => 0
  let bs := if odd then bs.set last ((bs.getD last 0 &&& 0x0F#8) ||| (old &&& 0xF0#8)) else bs
  (chunks dst bs.length).flatMap (fun c =>
    let bad := x.queryBad.any (fun e => (bytesOfElem n e).any (fun i => lineOf (dst + i) == lineOf c.1))
    let is := (List.range c.2).filter (fun i => keep (c.1 - dst + i))
    if is.length = c.2 then [(BitVec.ofNat 64 c.1, slice bs (c.1 - dst) c.2, bad)]
    else is.map (fun i => (BitVec.ofNat 64 (c.1 + i), slice bs (c.1 - dst + i) 1, bad)))

/-- Pieces of a result written, those written before a fault left out (R179). `stats` names the bytes of the destination that are written. The first
access that fails comes back. -/
def collPut (s : State) (o : Nat) : List (DWord × List Byte × Bool) → Option (AErr × DWord) × State
  | [] => (none, s)
  | (va, bs, bad) :: ws =>
    match FMap.get? s.ops o with
    | none => (none, s)
    | some x =>
      let offs := (List.range bs.length).map (fun i => va.toNat + i - field x.params 24 8)
      if offs.all (fun i => x.stats.contains i) then collPut s o ws
      else match opWrite s x bad va bs with
        | (.error e, s) => (some e, s)
        | (.ok _, s) => collPut (s.updOp o (fun x => { x with stats := x.stats ++ offs })) o ws

/-- The elements of its destination that a member has written (R177). -/
def collWritten (x : EngOp) : Nat :=
  ((List.range (dstCount x.params x.extra)).filter (fun e => (bytesOfElem (elemBits (cFmt x.params)) e).all (fun i => x.stats.contains i))).length

/-- A member's operation ends with its flags and losses, PROGRESS the elements written to DST (R177, R208). -/
def collFinish (s : State) (o : Nat) (on off : BitVec 32) (lost : Nat) : State :=
  finishOp s o (fun y => { y with flags := (y.flags &&& ~~~off) ||| on, lost := lost, progress := collWritten y, stats := [] })

/-- COLL_END (R207, R208): a member's results written, or MISMATCH. -/
def collEnd (s : State) (o : Nat) (mismatch : Bool) (remote : List (List Byte × List Nat)) : Option State :=
  match FMap.get? s.ops o with
  | none => none
  | some x =>
    if x.kind ≠ .coll ∨ x.st ≠ .running ∨ opFrozen s x then none
    else if x.flags.getLsbD 4 then some (collFinish s o 0 0x100 0)
    else if mismatch || x.flags.getLsbD 8 then
      (if detects s x then some (collFinish (spread s x) o 0x100 0 0) else none)
    else if x.lost ≠ 0 then none
    else match collReady s o x remote with
      | none => none
      | some s =>
        match FMap.get? s.ops o with
        | none => some s
        | some x =>
          if x.st ≠ .running ∨ x.staged.isNone then some s
          else match collPut s o (collWrites s x (fun _ => true)) with
            | (some (e, va), s) => some (failOp s o e va x.addr 0)
            | (none, s) => some (collFinish s o 0 0 0)

/-- COLL_MEMBER_LOST (R208): a survivor ends with PEERLOST and LOST; the named bytes of its destination hold their final values. -/
def collLost (s : State) (o lost : Nat) (remote : List (List Byte × List Nat)) (landed : List Nat) : Option State :=
  match FMap.get? s.ops o with
  | none => none
  | some x =>
    if x.kind ≠ .coll ∨ x.st ≠ .running ∨ opFrozen s x ∨ lost = 0 ∨ lost > (tRemote x.extra).length + max (lostLocal s x) x.lost then none
    else
      let finish := fun (s : State) => collFinish (spreadLoss s x lost) o 0x80 0x100 lost
      if landed.isEmpty then some (finish s)
      else match collReady s o x remote with
        | none => none
        | some s =>
          match FMap.get? s.ops o with
          | none => some s
          | some x =>
            if x.st ≠ .running ∨ x.staged.isNone then some s
            else match collPut s o (collWrites s x (fun i => landed.contains i)) with
              | (some (e, va), s) => some (failOp s o e va x.addr 0)
              | (none, s) => some (finish s)

/-- COLL_END (R207). -/
def execCollEnd (s : State) : Out :=
  match s.model.ev with
  | some (.collEnd o mismatch remote) => happens s (collEnd s o mismatch remote)
  | _ => .next s.pass

/-- COLL_MEMBER_LOST (R208). -/
def execCollMemberLost (s : State) : Out :=
  match s.model.ev with
  | some (.collMemberLost o lost remote landed) => happens s (collLost s o lost remote landed)
  | _ => .next s.pass

end Sys2Proof.Machine
end

