-- ==== Sys2Proof/Machine/Launch.lean ====
section
/-! DEFINITION. Launches (R309-R321): launch records and their checks, coherence objects (R259), takes, frame reservations, the end of a launch,
and the distributor's placing of blocks. -/

namespace Sys2Proof.Machine

/-! ## Launch records (R315) -/

def lState (b : List Byte) : Nat := field b 0 1
def lKidx (b : List Byte) : Nat := field b 2 2
def lFlags (b : List Byte) : Nat := field b 6 2
def lArg (b : List Byte) : DWord := BitVec.ofNat 64 (field b 8 8)
def lGx (b : List Byte) : Nat := field b 16 4
def lGy (b : List Byte) : Nat := field b 20 2
def lGz (b : List Byte) : Nat := field b 22 2
def lCnt (b : List Byte) : Nat := field b 24 8
def lInc (b : List Byte) : Nat := field b 32 4
def lNobj (b : List Byte) : Nat := field b 36 2
def lPnode (b : List Byte) : Nat := field b 38 2
def lObjl (b : List Byte) : Nat := field b 40 8
def lEno (b : List Byte) : Nat := field b 48 1

/-- The dies that a mask of 16 bits names, in ascending order. -/
def diesOf (m : Nat) : List Nat := (List.range 16).filter (fun d => bit m d)

/-- The dies of a record's grid (R315): a mask of 0 stands for the given ones. -/
def lDies (b : List Byte) (all : List Nat) : List Nat := if field b 4 2 = 0 then all else diesOf (field b 4 2)

/-- Grid extents within their limits (R315, R369). -/
def gridOk (gx gy gz : Nat) : Bool := decide (1 ≤ gx) && decide (gx ≤ 2 ^ 31) && decide (1 ≤ gy) && decide (1 ≤ gz)

/-- A record breaks a limit of R315 (R316 code 1); a graph node's record is given with its number. -/
def recLimits (b : List Byte) (node : Option Nat) : Bool :=
  (match node with
    | none => lFlags b != 0 || lPnode b != 0
    | some n => decide (lFlags b > 1) || decide (lPnode b > n)) ||
  !gridOk (lGx b) (lGy b) (lGz b) || decide (lNobj b > 4096) || lObjl b % 8 != 0 || !zeroAt b 49 79

/-! ## Capacity (R316 code 4, R320) -/

/-- The blocks of a kernel that an empty core holds at once under a carve (R31, R34, R241). -/
def perCore (k : Kernel) (carve : Nat) : Nat :=
  if !fitsEmpty k carve then 0
  else
    let n := min 16 (2048 / slotsOf k) / placesOf k
    let n := if k.tiles = 0 then n else min n (4 / k.tiles)
    if grantOf k = 0 then n else min n (carve * 65536 / grantOf k)

/-- The cores of a hardware cluster of a die that work (R213, R434). -/
def workingCores (s : State) (die h : Nat) : Nat :=
  ((List.range 8).filter (fun r => !(s.core die (8 * h + r)).fenced && !(s.die die).mg.failedCores.contains (8 * h + r))).length

/-- Whether a die, empty, holds its share of a gang (R316, R320). -/
def gangFits (s : State) (die ctx : Nat) (k : Kernel) (blocks n j : Nat) : Bool :=
  let m := perCore k (effCarve s die ctx)
  let share := shareOf k blocks n j
  let last := (ceilDiv blocks k.clu - 1) % n = j ∧ blocks % k.clu ≠ 0
  let full := if last then share - 1 else share
  let holds := fun (h : Nat) => if k.clu ≤ workingCores s die h then workingCores s die h * m / k.clu else 0
  let total := ((List.range 24).map holds).foldl (· + ·) 0
  decide (full ≤ total) &&
    (decide (¬ last) || decide (full < total) || (List.range 24).any (fun h =>
      decide (blocks % k.clu ≤ workingCores s die h) && decide (blocks % k.clu ≤ workingCores s die h * m - holds h * k.clu)))

/-- Whether every block of a grid can be placed (R316 code 4). -/
def gridFits (s : State) (ctx : Nat) (k : Kernel) (dies : List Nat) (blocks : Nat) : Bool :=
  dies.all (fun d => fitsEmpty k (effCarve s d ctx)) &&
    (!k.gang || ((List.range dies.length).zip dies).all (fun e => gangFits s e.2 ctx k blocks dies.length e.1))

/-! ## The frame pool (R265, R316) -/

/-- The pool of a context on a die: its size and its address. -/
def poolSize (x : Ctx) : Nat := 2 ^ bits x.framebase.toNat 61 57
def poolBase (x : Ctx) : DWord := (x.framebase.extractLsb' 0 57).signExtend 64 &&& ~~~0x7F#64

/-- The records that launches of a context taken on a die hold: free in their reservations, of open frames, or holding children. -/
def poolInUse (s : State) (die ctx : Nat) : List DWord :=
  let mine := namesWhere s.launches (fun _ l => l.die == die && l.ctx == ctx)
  s.launches.flatMap (fun e => if mine.contains e.1 then e.2.free else []) ++
  s.frames.filterMap (fun e => if mine.contains e.2.launch then some e.2.addr else none) ++
  s.children.filterMap (fun e => if mine.contains e.2.launch && e.2.st == .held then some e.2.record else none)

/-- The first n free records of a context's pool on a die; nothing while fewer are free (R316). -/
def poolTake (s : State) (die ctx n : Nat) : Option (List DWord) :=
  let x := s.ctx die ctx
  let used := poolInUse s die ctx
  let free := (((List.range (poolSize x)).map (fun i => poolBase x + BitVec.ofNat 64 (128 * i))).filter (fun a => !used.contains a)).take n
  if free.length = n then some free else none

/-! ## Coherence objects (R259) -/

/-- A malformed shape record, or one that is no object (R60, R259): every limit of R60's table is held to at run time (log entry 73). -/
def shapeBad (b : List Byte) : Bool :=
  let rank := field b 9 1
  bits (field b 0 8) 63 57 != 0 || elemBits (field b 8 1) == 0 || rank == 0 || decide (rank > 4) || field b 10 1 != 1 || !zeroAt b 11 5 ||
  (List.range 4).any (fun i => if i < rank then field b (16 + 4 * i) 4 == 0 else !zeroAt b (16 + 4 * i) 4 || !zeroAt b (32 + 8 * i) 8) ||
  (elemBits (field b 8 1) == 4 && (sfield b 32 8 != 0 || field b 16 4 % 2 != 0))

/-- The first and last line of a shape's hull (R259): from its lowest element byte to its highest. -/
def hullOf (b : List Byte) : Nat × Nat :=
  let four := elemBits (field b 8 1) = 4
  let span := fun (i : Nat) => ((field b (16 + 4 * i) 4 : Int) - 1) * sfield b (32 + 8 * i) 8
  let spans := (List.range (field b 9 1)).map (fun i => if four ∧ i = 0 then 0 else span i)
  let lo := (field b 0 8 : Int) + (spans.map (fun x => min x 0)).foldl (· + ·) 0
  let hi := (field b 0 8 : Int) + (spans.map (fun x => max x 0)).foldl (· + ·) 0 +
    (if four then (field b 16 4 / 2 : Nat) else (elemBits (field b 8 1) / 8 : Nat) : Nat) - 1
  (lineOf (BitVec.ofInt 64 lo).toNat, lineOf (BitVec.ofInt 64 hi).toNat)

/-- The lowest object index that a die's table has free. -/
def freeObj (s : State) (die : Nat) : Option Nat :=
  (List.range 4096).find? (fun i => (s.die die).dm.objs.all (fun e => e.1 % 4096 != i))

/-- An object entered CLEAN on every die of the virtual function (R259); nothing when it is refused. -/
def registerObj (s : State) (die ctx : Nat) (b : List Byte) : Option (Nat × State) :=
  let (lo, hi) := hullOf b
  if shapeBad b || (s.die die).dm.objs.any (fun e => e.2.ctx == objCtx s die ctx && decide (e.2.lo ≤ hi) && decide (lo ≤ e.2.hi)) then none
  else match freeObj s die with
    | none => none
    | some i =>
      let id := objCtx s die ctx
      let e : ObjEnt := ⟨id, lo, hi, s.gen (s.ctx die ctx).asid, none, false⟩
      some (objKey id i, foldNames s (vfDies s die) (fun s d => s.updDm d (fun m => { m with objs := FMap.put m.objs (objKey id i) e })))

/-- Objects taken out of the table again (R316). -/
def dropObjs (s : State) (die : Nat) (keys : List Nat) : State :=
  foldNames s (vfDies s die) (fun s d => s.updDm d (fun m => { m with objs := m.objs.filter (fun e => !keys.contains e.1) }))

/-- The objects of a list registered in order; false when one is refused, and those before it removed (R316 code 6). -/
def registerAll (s : State) (die ctx : Nat) (kid : Option Nat) : List Nat → List Nat → Except (AErr × DWord) Bool × State
  | [], _ => (.ok true, s)
  | a :: as, keys =>
    match unitRead s die ctx (BitVec.ofNat 64 a) 64 kid with
    | (.error e, s) => (.error e, dropObjs s die keys)
    | (.ok (b, _), s) =>
      match registerObj s die ctx b with
      | none => (.ok false, dropObjs s die keys)
      | some (k, s) => registerAll s die ctx kid as (k :: keys)

/-- The objects of a record's list (R315, R316). -/
def takeObjs (s : State) (die ctx : Nat) (b : List Byte) (kid : Option Nat := none) : Except (AErr × DWord) Bool × State :=
  if lNobj b = 0 then (.ok true, s)
  else match unitRead s die ctx (BitVec.ofNat 64 (lObjl b)) (8 * lNobj b) kid with
    | (.error e, s) => (.error e, s)
    | (.ok (l, _), s) => registerAll s die ctx kid ((List.range (lNobj b)).map (fun i => field l (8 * i) 8)) []

/-! ## Takes (R316) -/

/-- Codes 2 to 5 of R316, in ascending order; 0 when none applies. -/
def kernelCode (s : State) (die ctx : Nat) (k : Option Kernel) (eno : Nat) (dies : List Nat) (blocks : Nat) : Nat :=
  match k with
  | none => 2
  | some k =>
    if eno ≥ k.entries.length then 2
    else if dies.any (fun d => !(s.ctx die ctx).dies.contains d) then 3
    else if !gridFits s ctx k dies blocks then 4
    else if k.frames > poolSize (s.ctx die ctx) then 5 else 0

/-- A record judged (R316): the code, and the kernel when it is 0. Objects are registered when every other check has passed. -/
def judge (s : State) (die ctx : Nat) (b : List Byte) (node : Option Nat) (dies : List Nat) (kid : Option Nat := none) :
    Except (AErr × DWord) (Nat × Kernel) × State :=
  if recLimits b node then (.ok (1, {}), s)
  else match readKernel s die ctx (lKidx b) kid with
    | (.error e, s) => (.error e, s)
    | (.ok k, s) =>
      let code := kernelCode s die ctx k (lEno b) dies (lGx b * lGy b * lGz b)
      let code := if code = 0 ∧ ptrBad (lCnt b) 8 then 7 else code
      if code ≠ 0 then (.ok (code, {}), s)
      else match takeObjs s die ctx b kid with
        | (.error e, s) => (.error e, s)
        | (.ok true, s) => (.ok (0, k.getD {}), s)
        | (.ok false, s) => (.ok (6, {}), s)

/-- A launch as its take makes it. -/
def launchOf (die ctx prio : Nat) (b : List Byte) (k : Kernel) (dies : List Nat) (arg : DWord) (src : LSrc) : Launch :=
  { ctx := ctx, die := die, dies := dies, prio := prio, kernel := k, entry := k.entries.getD (lEno b) 0, arg := arg,
    gx := lGx b, gy := lGy b, gz := lGz b, cnt := BitVec.ofNat 64 (lCnt b), inc := lInc b, src := src }

/-- A launch leaves the machine; the node it was launched for has ended (R323), or its manifest slot is free (R372). -/
def dropLaunch (s : State) (lid : Nat) (l : Launch) : State :=
  let s := { s with launches := FMap.erase s.launches lid }
  match l.src with
  | .line _ _ => s
  | .node i n => s.updInst i (fun x => { x with nodes := x.nodes.set n .ended })
  | .manifest k slot => { s with pkg := { s.pkg with sessions := updIn s.pkg.sessions k (fun x => { x with slots := x.slots.set slot none }) } }

/-- A launch ends with every write of its grid at its home, for the nodes below it to read (R323), and INC is added at CNT at .sys as the publish of R253
(R316, R372); a failed add is a unit fault (R441). -/
def launchAdd (s : State) (lid : Nat) (l : Launch) : State :=
  let s := foldNames s l.dies (fun s d => producerNow s d l.ctx true)
  if l.cnt = 0 then dropLaunch s lid l
  else
    match counterAdd s { kind := .replay, die := l.die, ctx := l.ctx, ring := 1 } l.cnt l.inc true false false with
    | (.error (e, a), s) => raiseUnit s l.die l.ctx 6 (.launchAdd lid) e.cause a
    | (.ok _, s) => dropLaunch s lid l

/-- A take ends (R316): STATE and CODE written, or the whole take held (`s₀`, answering nothing); it answers the launch's name. A refused launch advances its counter all the same, but for code 7. -/
def takeEnd (s₀ s : State) (die ctx : Nat) (va : DWord) (l : Launch) (code : Nat) (w : UnitWork) (kid : Option Nat := none) :
    Option (Option Nat) × State :=
  match unitWrite s die ctx va [if code = 0 then 2 else 3, b8 code] kid with
  | (.error (e, a), _) => (none, raiseUnit s₀ die ctx 6 w e.cause a)
  | (.ok _, s) =>
    let (lid, s) := s.fresh
    if code = 0 then (some (some lid), (s.putLaunch lid l).toll die 12 1)
    else
      let l := { l with st := .ended, cnt := if code = 7 then 0 else l.cnt, src := .line die 0 }
      (some none, launchAdd (s.putLaunch lid l) lid l)

/-- LAUNCH_TAKE (R314-R317): the launch unit of the context's lowest die reads a watched line that is READY. -/
def takeLine (s : State) (die ctx line : Nat) : Option State :=
  match s.ctx? die ctx with
  | none => none
  | some x =>
    if x.dies.head? ≠ some die ∨ line ≥ 8 ∨ x.llen.getLsbD line = false ∨ x.rewatch.contains line ∨ unitHeld s die ctx (.take line) then none
    else
      let va := x.llines + BitVec.ofNat 64 (128 * line)
      let hold := fun (s : State) (e : AErr × DWord) => some (raiseUnit s die ctx 6 (.take line) e.1.cause e.2)
      match unitRead s die ctx va 128 with
      | (.error e, s) => hold s e
      | (.ok (b, _), s) =>
        if lState b ≠ 1 then none
        else
          let dies := lDies b x.dies
          match judge s die ctx b none dies with
          | (.error e, s) => hold s e
          | (.ok (code, k), t) =>
            some (takeEnd s t die ctx va (launchOf die ctx line b k dies (lArg b) (.line die line)) code (.take line)).2

/-! ## Placing (R318-R320) -/

/-- The linear indices of the blocks of cluster c of a grid (R213). -/
def clusterBlocks (l : Launch) (c : Nat) : List Nat :=
  (List.range (min l.kernel.clu (l.gx * l.gy * l.gz - c * l.kernel.clu))).map (fun i => c * l.kernel.clu + i)

/-- The next cluster of a launch on a die (R318). -/
def Launch.nextCluster (l : Launch) (die : Nat) : Nat :=
  (l.dies.takeWhile (· != die)).length + l.dies.length * FMap.getD l.placed die 0

/-- LAUNCH_FRAME_RESERVE (R316): the records are reserved, the launch numbered on each of its dies from 0 (R386; log entry 74), the launch edge's consumer half performed on every die of the grid (R258), and the grid
handed to the distributors. -/
def reserveFrames (s : State) (lid : Nat) : Option State :=
  match FMap.get? s.launches lid with
  | none => none
  | some l =>
    if l.st ≠ .taken then none
    else match poolTake s l.die l.ctx l.kernel.frames with
      | none => none
      | some recs =>
        let s := s.putLaunch lid { l with st := .placing, free := recs, seqs := l.dies.map (fun d => (d, (s.die d).launched)) }
        let s := foldNames s l.dies (fun s d => s.updDie d (fun d => { d with launched := d.launched + 1 }))
        some (foldNames s l.dies (fun s d =>
          let asid := (s.ctx d l.ctx).asid
          let s := foldNames s (List.range 192) (fun s c =>
            if (FMap.get? s.cores (coreKey d c)).isSome then s.updCore d c (fun c => l1Self c asid) else s)
          dropClean s d (fun x => x.users.any (fun u => u.asid == asid))))

/-- A group enters its quarter, in the active set while that has room (R230). -/
def enterQuarter (s : State) (g : Group) : Group :=
  let now := (s.die g.die).cycle
  let n := ((quarterGroups s g.die g.core g.quarter).filter (fun e => e.2.active)).length
  { g with place := freePlace s g.die g.core g.quarter, active := decide (n < 8), lastIssue := now, entered := now, readySince := now }

/-- A group as it starts (R23, R34, R310), x0 and x1 in its s0:1. Its deep registers are as many as the descriptor's rounded DEEP (log entry 71). -/
def startGroup (s : State) (die core ctx lid bid grp : Nat) (k : Kernel) (entry : DWord) (kind : GKind) (x0 x1 : Reg) : Group :=
  { die := die, core := core, quarter := grp % 4, ctx := ctx, block := bid, grp := grp, ring := (s.ctx die ctx).ring, kind := kind, launch := lid,
    nregs := k.regs, ndeep := k.deep, s := ([(0, x0), (1, x1)] : FMap Reg).filter (fun e => e.2 != {}),
    lanes := List.replicate 32 { st := .ready, pc := entry }, b := entry }

/-- A core takes the carve of a block placed on it empty (R240): what leaves L1 is discarded, the lines of the sets that are no more (log entry 48). -/
def Core.take (c : Core) (empty : Bool) (carve : Nat) : Core :=
  if !empty || c.split = carve then c
  else { c with split := carve, l1 := c.l1.filter (fun x => decide (x.line % l1Sets c.split < l1Sets carve)) }

/-- The lowest tiles of a core that are free, n of them (R31). -/
def freeTiles (c : Core) (n : Nat) : List Nat := ((List.range 4).filter (fun t => ((c.tiles.getD t {}).owner).isNone)).take n

/-- A block is placed on a core (R31, R34, R213, R241): its tiles zero, its scratchpad zero and present, its barriers zero, its groups started. -/
def placeBlock (s : State) (b : Block) (entry : DWord) (x0 x1 : Reg) (lanes : Lane → Lane) : State :=
  let (bid, s) := s.fresh
  let core := s.core b.die b.core
  let bs := coreBlocks s b.die b.core
  let tiles := freeTiles core b.kernel.tiles
  let seq := freeSeq s b.die b.core
  let s := s.updCore b.die b.core (fun c =>
    let c := c.take bs.isEmpty (effCarve s b.die b.ctx)
    { c with tiles := c.tiles.mapIdx (fun i t => if tiles.contains i then { owner := some bid } else t) })
  let s := { s with clusters := FMap.upd s.clusters b.cluster {} (fun c => { c with blocks := c.blocks ++ [bid] }) }
  let s := s.putBlock bid { b with tiles := tiles, seq := seq }
  foldNames s (List.range b.kernel.groups) (fun s i =>
    let (gid, s) := s.fresh
    let g := startGroup s b.die b.core b.ctx b.launch bid i b.kernel entry .block x0 x1
    let g := enterQuarter s { g with lanes := g.lanes.map lanes, child := b.child }
    (s.putGroup gid g).updBlock bid (fun b => { b with groups := b.groups ++ [gid] }))

/-- A cluster's blocks placed on cores, one each (R213); nothing when a core has no room or the cores are not of one hardware cluster. -/
def placeCluster (s : State) (die lid : Nat) (l : Launch) (cores : List Nat) : Option State :=
  let lins := clusterBlocks l (l.nextCluster die)
  let one := match cores with | [] => false | c :: cs => cs.all (fun d => d / 8 == c / 8)
  if cores.length ≠ lins.length ∨ !one ∨ decide cores.Nodup = false ∨ cores.any (fun c => !coreRoom s die c l.ctx l.kernel) then none
  else
    let (cl, s) := s.fresh
    let s := (cores.zip lins).foldl (fun s e => placeBlock s
      { die := die, core := e.1, ctx := l.ctx, launch := lid, kernel := l.kernel, cluster := cl, bx := e.2 % l.gx, by_ := e.2 / l.gx % l.gy,
        bz := e.2 / (l.gx * l.gy), gx := l.gx, gy := l.gy, gz := l.gz } l.entry (reg (loHalf l.arg)) (reg (hiHalf l.arg)) (fun x => x)) s
    some (s.updLaunch lid (fun x => { x with placed := FMap.upd x.placed die 0 (· + 1), live := x.live + lins.length }))

/-- A placement on a die: the head waits anew from now on (R321). -/
def placedOn (s : State) (die : Nat) : State := s.updDie die (fun x => { x with headSince := x.cycle })

/-- BLOCK_PLACE (R318, R319): the next cluster of the head launch, which is no gang. -/
def placeNext (s : State) (die : Nat) (cores : List Nat) : Option State :=
  match headLaunch s die with
  | none => none
  | some (lid, l) =>
    if l.kernel.gang ∨ !l.owes die ∨ restoreFirst s die l.prio then none else (placeCluster s die lid l cores).map (fun s => placedOn s die)

/-- The clusters of a gang's share on a die placed one after another. -/
def placeShare (s : State) (die lid : Nat) : Nat → List Nat → Option (List Nat × State)
  | 0, cores => some (cores, s)
  | n + 1, cores =>
    match FMap.get? s.launches lid with
    | none => none
    | some l =>
      let m := (clusterBlocks l (l.nextCluster die)).length
      match placeCluster s die lid l (cores.take m) with
      | none => none
      | some s => placeShare s die lid n (cores.drop m)

/-- GANG_PLACE (R320): every die's share at once, `cores` naming a core for each block, die by die; the gang heads the order of each of them. -/
def placeGang (s : State) (lid : Nat) (cores : List Nat) : Option State :=
  match FMap.get? s.launches lid with
  | none => none
  | some l =>
    let ds := l.dies.filter (fun d => decide (l.share d > 0))
    if l.st ≠ .placing ∨ !l.kernel.gang ∨ l.dies.any (fun d => decide (FMap.getD l.placed d 0 > 0)) ∨
        ds.any (fun d => (headLaunch s d).map (·.1) != some lid || restoreFirst s d l.prio) then none
    else
      match ds.foldl (fun (acc : Option (List Nat × State)) d =>
          acc.bind (fun p => (placeShare p.2 d lid (l.share d) p.1).map (fun r => (r.1, placedOn r.2 d)))) (some (cores, s)) with
      | some ([], s) => some s
      | _ => none

/-- LAUNCH_END (R316): every block of the grid has ended; the records are returned and the add made. -/
def endLaunch (s : State) (lid : Nat) (manifest : Bool) : Option State :=
  match FMap.get? s.launches lid with
  | none => none
  | some l =>
    let isM := match l.src with | .manifest _ _ => true | _ => false
    let done := l.st == .ended || (l.st == .placing && l.live == 0 && l.dies.all (fun d => !l.owes d))
    if !done || isM != manifest || unitHeld s l.die l.ctx (.launchAdd lid) then none
    else
      let l := { l with st := .ended, free := [] }
      some (launchAdd (s.putLaunch lid l) lid l)

/-! ## Children (R137-R139) -/

/-- The records of children that are no longer held go back to their launch (R137). -/
def freeRecord (s : State) (lid : Nat) (rec : DWord) : State :=
  if anyIn s.children (fun _ c => c.launch == lid && c.record == rec && c.st == .held) then s
  else
    let s := s.updLaunch lid (fun l => { l with free := l.free ++ [rec] })
    wakeWhere s (fun _ g => g.launch == lid && (g.wait == .pool || g.wait == .childRoom))

/-- Room for one free-standing group of a kernel, the whole of its block (R212), on a core for a quarter (R34, R240). -/
def groupRoom (s : State) (die core q ctx : Nat) (k : Kernel) : Bool :=
  let c := s.core die core
  !c.fenced && !(s.die die).mg.failedCores.contains core && c.reserved.isNone && decide (core < 192) && quarterRoom s die core q 1 (slotsOf k) &&
  ((coreBlocks s die core).isEmpty || c.split == effCarve s die ctx)

/-- A free-standing group placed with its one-group block (R142, R240); the core's L1 is self-invalidated (R258). -/
def placeFree (s : State) (c : Child) (core : Nat) (kind : GKind) (cid : Option Nat) (f : Group → Group) : State :=
  let (bid, s) := s.fresh
  let (cl, s) := s.fresh
  let (gid, s) := s.fresh
  let seq := freeSeq s c.die core
  let empty := (coreBlocks s c.die core).isEmpty
  let carve := effCarve s c.die c.ctx
  let s := s.updCore c.die core (fun k => l1Self (k.take empty carve) (s.ctx c.die c.ctx).asid)
  let g := f { startGroup s c.die core c.ctx c.launch bid 0 c.kernel c.entry kind {} {} with child := cid }
  let s := s.putGroup gid (enterQuarter s g)
  let s := { s with clusters := FMap.put s.clusters cl { blocks := [bid] } }
  s.putBlock bid { die := c.die, core := core, ctx := c.ctx, launch := c.launch, kernel := c.kernel, cluster := cl, groups := [gid], free := true, seq := seq }

/-- Strands of one source quad in ascending source-lane order (R137, R138): their spawn indices ascend with their lanes. -/
def addStrand (e : Nat × Child) : List (Nat × Child) → List (Nat × Child)
  | [] => [e]
  | x :: xs => if e.2.index < x.2.index then e :: x :: xs else x :: addStrand e xs

/-- The strands of a strand group by quad (R138): each source quad whole, in one quad of the group, in order of first appearance. -/
def strandQuads (cs : List (Nat × Child)) : List (List (Nat × Child)) :=
  ((cs.map (fun e => e.2.source)).dedup).map (fun q => (cs.filter (fun e => e.2.source == q)).foldl (fun acc e => addStrand e acc) [])

/-- The lanes of a strand group: strands, the helpers that fill their quads, and quads that hold none (R138, R214). -/
def strandLanes (entry : DWord) (qs : List (List (Nat × Child))) : List Lane :=
  (List.range 32).map (fun l =>
    match qs[l / 4]? with
    | none => {}
    | some q => match q[l % 4]? with
      | some (cid, c) => { st := .ready, pc := entry, strand := BitVec.ofNat 32 c.index, child := some cid }
      | none => { st := .ready, helper := true, pc := entry, strand := BitVec.allOnes 32 })

/-- v0:1 of the lanes of a strand group (R23). -/
def strandRegs (qs : List (List (Nat × Child))) : FMap Reg :=
  let at_ := fun (l : Nat) => (qs[l / 4]?).bind (fun q => q[l % 4]?)
  (([0, 1] : List Nat).flatMap (fun r => (List.range 32).filterMap (fun l =>
    (at_ l).map (fun e => (r * 32 + l, if r = 0 then e.2.arg0 else e.2.arg1))))).filter (fun e => e.2 != {})

/-- CHILD_PLACE (R137-R139): every strand that a packed group's record holds, whole and together, all of one entry and one root launch (log entry 58); a
group child; or the next block child of the head launch. -/
def placeChild (s : State) (cids : List Nat) (core : Nat) : Option State :=
  let cs := cids.filterMap (fun i => (FMap.get? s.children i).map (fun c => (i, c)))
  match cs with
  | [] => none
  | (cid, c) :: _ =>
    if cs.length ≠ cids.length ∨ decide cids.Nodup = false ∨ !mayPlace s c.die c.ctx ∨ cs.any (fun e => e.2.st != .held) then none
    else
      let placed := fun (s : State) =>
        let s := foldNames s cids (fun s i => s.updChild i (fun c => { c with st := .placed }))
        foldNames s ((cs.map (fun e => e.2.launch)).dedup) (fun s l =>
          ((cs.filter (fun e => e.2.launch == l)).map (fun e => e.2.record)).dedup.foldl (fun s r => freeRecord s l r) s)
      match c.kind with
      | .strand =>
        let qs := strandQuads cs
        let pack := namesWhere s.children (fun _ x => x.kind == .strand && x.st == .held && x.launch == c.launch && x.record == c.record)
        if cs.any (fun e => !pack.contains e.1) || decide (pack.length ≠ cids.length) || decide (qs.length > 8) ||
            !groupRoom s c.die core 0 c.ctx c.kernel then none
        else some (placed (placeFree s c core .strand none (fun g => { g with lanes := strandLanes c.entry qs, v := strandRegs qs })))
      | .group =>
        if cs.length ≠ 1 ∨ !groupRoom s c.die core 0 c.ctx c.kernel then none
        else some (placed (placeFree s c core .child (some cid) (fun g =>
          { g with s := ([(0, c.arg0), (1, c.arg1)] : FMap Reg).filter (fun e => e.2 != {}),
                   lanes := g.lanes.map (fun x => { x with strand := BitVec.ofNat 32 c.index, child := some cid }) })))
      | .block =>
        match headLaunch s c.die with
        | none => none
        | some (lid, l) =>
          if cs.length ≠ 1 ∨ lid ≠ c.launch ∨ l.owes c.die ∨ restoreFirst s c.die l.prio ∨ (heldBlocks s c.die lid).head? ≠ some cid ∨ !coreRoom s c.die core c.ctx c.kernel then none
          else
            let (cl, s) := s.fresh
            let s := s.updCore c.die core (fun k => l1Self k (s.ctx c.die c.ctx).asid)
            let s := placeBlock s { die := c.die, core := core, ctx := c.ctx, launch := c.launch, kernel := c.kernel, child := some cid, cluster := cl }
              c.entry c.arg0 c.arg1 (fun x => { x with strand := BitVec.ofNat 32 c.index, child := some cid })
            some (placedOn (placed s) c.die)

/-! ## Continuations (R140, R268, R269, R380) -/

/-- A group that waits in place takes a slot that has become free (R380). -/
def slotFreed (s : State) (die ctx : Nat) (k : DWord) : State :=
  let s := s.updCtx die ctx (fun x => { x with contSlots := x.contSlots.filter (· != k) })
  match s.groups.find? (fun e => e.2.die == die && e.2.ctx == ctx && e.2.wait == .awaitPlace && e.2.pend.isEmpty && e.2.rejects.isEmpty && !inFlight s e.1) with
  | some (gid, _) => parkAwait s gid
  | none => s

/-- The lanes that issued the AWAIT go on past it (R140). B is the address after it where the continuation was stolen, and otherwise where the AWAIT was
issued at B (R217, R380). -/
def pastAwait (g : Group) (cont : DWord) (stolen : Bool) : Group :=
  { g.updLanes g.mask (fun _ x => if x.pc = cont - 4 ∧ x.st = .ready then { x with pc := cont } else x) with
    b := if stolen || g.b == cont - 4 then cont else g.b }

/-- Whether a core has room for a continuation (R34, R268), and works (R434). -/
def contRoom (s : State) (g : Group) (f : Frame) (core : Nat) : Bool :=
  if f.pin then
    core == f.home && !(s.core g.die core).fenced && !(s.die g.die).mg.failedCores.contains core && quarterRoom s g.die core (g.grp % 4) 1 (g.nregs + g.ndeep)
  else groupRoom s g.die core (g.grp % 4) g.ctx (FMap.getD s.blocks g.block {}).kernel

/-- The core that a continuation resumes on (R268): the one with the most free places, ties to the lower number; a pinned one's home. -/
def contCore (s : State) (g : Group) (f : Frame) : Option Nat :=
  (List.range 192).foldl (fun best c =>
    if !contRoom s g f c then best
    else match best with
      | some b => if freePlaces s g.die c > freePlaces s g.die b then some c else best
      | none => some c) none

/-- A group's block comes with its continuation to a core (R240, R268). -/
def moveBlock (s : State) (g : Group) (core : Nat) : State :=
  let b := FMap.getD s.blocks g.block {}
  if b.core = core then s
  else
    let seq := freeSeq s g.die core
    let empty := (coreBlocks s g.die core).isEmpty
    let carve := effCarve s g.die g.ctx
    (s.updCore g.die core (fun c => c.take empty carve)).updBlock g.block (fun b => { b with core := core, seq := seq })

/-- A continuation resumes from its slot on a core (R140, R268, R269): what its slot holds, then `next`. -/
def stealCont (s : State) (gid core : Nat) (g : Group) (k : DWord) (next : Group → Group) : State :=
  match unitRead s g.die g.ctx k (glen g.nregs g.ndeep) with
  | (.error (e, a), s) => raiseUnit s g.die g.ctx 7 (.slot gid) e.cause a
  | (.ok (b, _), s) =>
    let h := (loadGroup (FMap.getD s.groups gid g) b).getD g
    let h := enterQuarter s { h with loc := .resident, core := core, quarter := g.grp % 4 }
    let s := moveBlock (s.putGroup gid (next h)) g core
    let s := consumerHalf s g.die core (s.ctx g.die g.ctx).asid false
    runDue (slotFreed s g.die g.ctx k) gid

/-- CONTINUATION_RESUME (R140, R268, R380): the frame closes and the group goes on, from its slot on an allowed core, or in place. When the merge is
refused the group issues its AWAIT again, to fault there (R330, R440). -/
def resumeCont (s : State) (gid core : Nat) : Option State :=
  match FMap.get? s.groups gid with
  | none => none
  | some g =>
    match g.frames with
    | [] => none
    | fid :: _ =>
      let f := FMap.getD s.frames fid {}
      let parked : Bool := g.wait == .await || g.wait == .awaitPlace
      let away : Bool := match g.loc with | .cont _ => contCore s g f != some core | _ => false
      if f.count ≠ 0 ∨ !mayPlace s g.die g.ctx ∨ g.holds.trap.isSome ∨ !parked ∨ away ∨ unitHeld s g.die g.ctx (.slot gid) then none
      else
        let go := fun (s : State) (next : Group → Group) =>
          match g.loc with
          | .cont k => stealCont s gid core g k next
          | _ => s.updGroup gid next
        let awake := fun (g : Group) => g.wakeAt (s.die g.die).cycle
        match closeFrame s gid g fid with
        | .held s => some s
        | .done s => some (go s (fun h => pastAwait (awake h) f.cont (match g.loc with | .cont _ => true | _ => false)))
        | .refused _ _ s => some (go (s.updFrame fid (fun f => { f with cont := 0, save := 0, awaiting := false })) awake)

/-! ## Events -/

/-- LAUNCH_TAKE (R316). -/
def execLaunchTake (s : State) : Out :=
  match s.model.ev with
  | some (.launchTake die ctx line) => happens s (takeLine s die ctx line)
  | _ => .next s.pass

/-- LAUNCH_FRAME_RESERVE (R316). -/
def execLaunchFrameReserve (s : State) : Out :=
  match s.model.ev with
  | some (.launchFrameReserve l) => happens s (reserveFrames s l)
  | _ => .next s.pass

/-- LAUNCH_END (R316). -/
def execLaunchEnd (s : State) : Out :=
  match s.model.ev with
  | some (.launchEnd l) => happens s (endLaunch s l false)
  | _ => .next s.pass

/-- BLOCK_PLACE (R319). -/
def execBlockPlace (s : State) : Out :=
  match s.model.ev with
  | some (.blockPlace die cores) => happens s (placeNext s die cores)
  | _ => .next s.pass

/-- GANG_PLACE (R320). -/
def execGangPlace (s : State) : Out :=
  match s.model.ev with
  | some (.gangPlace l cores) => happens s (placeGang s l cores)
  | _ => .next s.pass

/-- CHILD_PLACE (R137). -/
def execChildPlace (s : State) : Out :=
  match s.model.ev with
  | some (.childPlace cids core) => happens s (placeChild s cids core)
  | _ => .next s.pass

/-- CONTINUATION_RESUME (R268). -/
def execContinuationResume (s : State) : Out :=
  match s.model.ev with
  | some (.continuationResume gid core) => happens s (resumeCont s gid core)
  | _ => .next s.pass

/-- MANIFEST_GRID_END (R372). -/
def execManifestGridEnd (s : State) : Out :=
  match s.model.ev with
  | some (.manifestGridEnd l) => happens s (endLaunch s l true)
  | _ => .next s.pass

end Sys2Proof.Machine
end

