-- ==== Sys2Proof/Machine/Graph.lean ====
section
/-! DEFINITION. Graphs (R210, R322, R323): REPLAY, the instances, their nodes; and manifests (R209, R369-R373): SHIP, the sending Helm, the receiving
Helm. -/

namespace Sys2Proof.Machine

/-! ## Graph objects (R322) -/

def gNnode (b : List Byte) : Nat := field b 0 2
def gNpatch (b : List Byte) : Nat := field b 2 2
def gPatchlen (b : List Byte) : Nat := field b 4 2
def gReentrant (b : List Byte) : Bool := bit (field b 6 1) 0
def gNslot (b : List Byte) : Nat := field b 7 1
def gInst (b : List Byte) : Nat := field b 8 8
def gArga (b : List Byte) : Nat := field b 16 8
def gArglen (b : List Byte) : Nat := field b 24 4

/-- The size of an instance slot. -/
def gSz (b : List Byte) : Nat := 128 * gNnode b + 128 * ceilDiv (gArglen b) 128

/-- A header breaks the limits of R322. -/
def graphBad (b : List Byte) : Bool :=
  gNnode b == 0 || decide (gNnode b > 256) || decide (gNpatch b > 256) || decide (gPatchlen b > 4096) || decide (field b 6 1 > 1) ||
  gNslot b == 0 || decide (gNslot b > 16) || (!gReentrant b && gNslot b != 1) || gInst b % 128 != 0 || decide (gArglen b > 65536) ||
  !zeroAt b 28 4 || ptrBad (field b 32 8) 8 || !zeroAt b 44 20

/-- The node records and the patch table break the limits of R322. -/
def nodesBad (h b : List Byte) : Bool :=
  (List.range (gNnode h)).any (fun n => field b (128 * n) 2 != 0 || decide (lPnode (b.drop (128 * n)) > n)) ||
  (List.range (gNpatch h)).any (fun m =>
    let e := field b (128 * gNnode h + 8 * m) 8
    bits e 63 48 != 0 || bits e 31 16 == 0 || decide (bits e 31 16 > 4096) || decide (bits e 15 0 + bits e 31 16 > gPatchlen h) ||
      decide (bits e 47 32 + bits e 31 16 > gSz h))

/-- REPLAY (R173, R174, R210, R323): the header is read and the patch captured. -/
def execReplay (a b : BitVec 6) (s : State) : Out :=
  engIssue s a (pairRegs b) (fun s _ g => decide ((s.die g.die).lunit.length ≥ 16)) 64 64 (fun s c g p h =>
    if graphBad h then .next (groupFault s c cAddr p)
    else blockRead s c g (p + 64) (128 * gNnode h + 8 * gNpatch h) (fun s t =>
      if nodesBad h t then .next (groupFault s c cAddr p)
      else
        let go := fun (s : State) (patch : List Byte) =>
          enqueue s c g { newOp s c g .replay p h (field h 32 8) (field h 40 4) false 0 with extra := patch }
            (fun s id => s.updDie g.die (fun d => { d with lunit := d.lunit ++ [id] }))
        if gPatchlen h = 0 then go s [] else blockRead s c g (g.sPair b) (gPatchlen h) go))

/-! ## Instances (R323) -/

/-- The running instances of a graph on a die. -/
def graphInsts (s : State) (x : EngOp) : List Inst :=
  (s.insts.filter (fun e => e.2.graph == x.addr && e.2.die == x.die && e.2.ctx == x.ctx)).map (·.2)

/-- The slot that a replay takes: the lowest free one; a graph that is not reentrant has one (R322, R323). -/
def graphSlot (s : State) (x : EngOp) : Option Nat :=
  (List.range (gNslot x.params)).find? (fun i => (graphInsts s x).all (fun y => y.slot != i))

/-- The writes of the patch entries that keep their limits, in order (R322, R323). -/
def patchWrites (h tab patch : List Byte) : List (Nat × List Byte) :=
  (List.range (gNpatch h)).filterMap (fun m =>
    let e := field tab (8 * m) 8
    if bits e 15 0 + bits e 31 16 ≤ patch.length ∧ bits e 47 32 + bits e 31 16 ≤ gSz h then
      some (bits e 47 32, slice patch (bits e 15 0) (bits e 31 16)) else none)

/-- A node and every node below it have ended (R323). -/
def endSubtree (x : Inst) (n : Nat) : Inst :=
  let gone := (List.range x.nnode).foldl (fun (acc : List Nat) m =>
    let p := x.parents.getD m 0
    if m > n ∧ 1 ≤ p ∧ p ≤ m ∧ acc.contains (p - 1) then acc ++ [m] else acc) [n]
  { x with nodes := x.nodes.mapIdx (fun m y => if gone.contains m then .ended else y) }

/-- A node launches from its slot copy, as the child that replayed the graph sees it (R272, R316, R323); a take that the P handler has ended is refused with code 2 (R441). -/
def launchNode (s : State) (iid n : Nat) : State :=
  match FMap.get? s.insts iid with
  | none => s
  | some x =>
    let va := x.base + BitVec.ofNat 64 (128 * n)
    let w := UnitWork.node iid n
    let hold := fun (s : State) (e : AErr × DWord) => raiseUnit s x.die x.ctx 6 w e.1.cause e.2
    let kid := (FMap.get? s.ops x.op).bind EngOp.child
    match unitRead s x.die x.ctx va 128 kid with
    | (.error e, s) => hold s e
    | (.ok (b, _), s) =>
      let dies := lDies b [x.die]
      let arg := if bit (lFlags b) 0 then x.base + BitVec.ofNat 64 (128 * x.nnode) + lArg b else lArg b
      let go := fun (t : State) (code : Nat) (k : Kernel) =>
        match takeEnd s t x.die x.ctx va (launchOf x.die x.ctx x.prio b k dies arg (.node iid n)) code w kid with
        | (none, t) => t
        | (some none, t) => t.updInst iid (fun x => endSubtree x n)
        | (some (some lid), t) => t.updInst iid (fun x => { x with nodes := x.nodes.set n (.launched lid) })
      if x.nodes[n]? = some .abandoned then go s 2 {}
      else match judge s x.die x.ctx b (some n) dies kid with
        | (.error e, s) => hold s e
        | (.ok (code, k), t) => go t code k

/-- Whether a node may launch: a root, or one whose parent's launch has ended (R323); a patched PNODE that names no earlier node is refused as a
root. -/
def nodeReady (x : Inst) (n : Nat) : Bool :=
  let p := x.parents.getD n 0
  (x.nodes[n]? == some .waiting || x.nodes[n]? == some .abandoned) &&
    (p == 0 || decide (p > n) || x.nodes[p - 1]? == some .ended)

/-- REPLAY_START (R181, R323): the first operation of the launch unit that has not started takes a slot; nodes, patches and arguments are read,
the slot written, the roots launched. -/
def replayStart (s : State) (o : Nat) : Option State :=
  match FMap.get? s.ops o with
  | none => none
  | some x =>
    let first := ((s.die x.die).lunit.find? (fun k => match FMap.get? s.ops k with | some y => y.inst.isNone | none => false)) == some o
    if x.kind ≠ .replay ∨ opFrozen s x ∨ x.inst.isSome ∨ !first ∨ !(x.st == .queued || x.st == .running) then none
    else if x.flags.getLsbD 4 then some (finishOp s o (fun d => d))
    else match graphSlot s x with
      | none => none
      | some slot =>
        let h := x.params
        let fail := fun (s : State) (e : AErr × DWord) => some (failOp (s.updOp o (fun y => { y with st := .running })) o e.1 e.2 x.addr 0)
        match opRead s x (x.addr + 64) (128 * gNnode h + 8 * gNpatch h) with
        | (.error e, s) => fail s e
        | (.ok (t, _), s) =>
          match opRead s x (BitVec.ofNat 64 (gArga h)) (gArglen h) with
          | (.error e, s) => fail s e
          | (.ok (args, _), s) =>
            let base := BitVec.ofNat 64 (gInst h + gSz h * slot)
            let nodes := t.take (128 * gNnode h)
            let ps := patchWrites h (t.drop (128 * gNnode h)) x.extra
            let copy := ps.foldl (fun (b : List Byte) e => overlay 0 b e.1 e.2) (padTo (gSz h) (nodes ++ args))
            match opWrites s x ((base, nodes ++ args, false) :: ps.map (fun e => (base + BitVec.ofNat 64 e.1, e.2, false))) with
            | (.error e, s) => fail s e
            | (.ok _, s) =>
              let (iid, s) := s.fresh
              let prio := ((FMap.get? s.groups x.gid).bind (fun g => FMap.get? s.launches g.launch)).map (·.prio)
              let y : Inst := { op := o, die := x.die, ctx := x.ctx, graph := x.addr, slot := slot, base := base, nnode := gNnode h,
                                parents := (List.range (gNnode h)).map (fun n => lPnode (copy.drop (128 * n))),
                                nodes := List.replicate (gNnode h) .waiting, prio := prio.getD 0, reentrant := gReentrant h }
              let s := (s.putInst iid y).updOp o (fun x => { x with st := .running, inst := some iid })
              some (foldNames s ((List.range (gNnode h)).filter (fun n => nodeReady y n)) (fun s n => launchNode s iid n))

/-- GRAPH_NODE_LAUNCH (R323). -/
def nodeLaunch (s : State) (iid n : Nat) : Option State :=
  match FMap.get? s.insts iid with
  | none => none
  | some x => if !nodeReady x n || unitHeld s x.die x.ctx (.node iid n) then none else some (launchNode s iid n)

/-- GRAPH_INSTANCE_END (R323): every node has ended; INC is added at .ten, the slot is free, the operation ends. -/
def instanceEnd (s : State) (iid : Nat) : Option State :=
  match FMap.get? s.insts iid with
  | none => none
  | some y =>
    match FMap.get? s.ops y.op with
    | none => none
    | some x =>
      if y.nodes.any (· != .ended) ∨ opFrozen s x ∨ addHeldUp s x ∨ unitHeld s y.die y.ctx (.instAdd iid) then none
      else
        let gone := fun (s : State) => endOp { s with insts := FMap.erase s.insts iid } y.op
        if x.cnt = 0 then some (gone s)
        else match counterAdd s x x.cnt x.inc false false (x.flags.getLsbD 4) with
          | (.error (e, a), s) => some (raiseUnit s y.die y.ctx 6 (.instAdd iid) e.cause a)
          | (.ok _, s) => some (gone s)

/-! ## Manifests (R369) -/

def mTport (b : List Byte) : Nat := bits (field b 6 2) 11 0
def mRange (b : List Byte) (i : Nat) : Nat × Nat × Bool := (field b (48 + 16 * i) 8, field b (56 + 16 * i) 4, bit (field b (60 + 16 * i) 4) 0)

/-- A manifest breaks the table of R369. -/
def manifestBad (b : List Byte) : Bool :=
  field b 0 1 != 1 || decide (field b 1 1 > 2) || field b 5 1 != 0 || bits (field b 6 2) 15 12 != 0 ||
  !gridOk (field b 8 4) (field b 12 2) (field b 14 2) || field b 16 8 == 0 || ptrBad (field b 16 8) 8 || ptrBad (field b 32 8) 8 ||
  ptrBad (field b 40 8) 8 ||
  (List.range 2).any (fun i =>
    if i < field b 1 1 then !canonical (BitVec.ofNat 64 (field b (48 + 16 * i) 8)) || field b (56 + 16 * i) 4 == 0 ||
      decide (field b (60 + 16 * i) 4 > 1)
    else !zeroAt b (48 + 16 * i) 16)

/-- SHIP (R173, R174, R178, R209, R252, R369): a manifest that is not at a multiple of 128 is malformed, once it has been read; else the manifest goes to Helm's queue after the group's writes have reached their homes. -/
def execShip (a : BitVec 6) (s : State) : Out :=
  engIssue s a [] (fun s _ g => decide ((s.die g.die).helm.length ≥ 16)) 64 128 (fun s c g p b =>
    if manifestBad b || p.toNat % 128 != 0 then .next (groupFault s c cAddr p)
    else if !(s.die g.die).mpolicy.getLsbD 3 then .next (groupFault s c cProtect p)
    else enqueue (producerNow s g.die g.ctx true) c g (newOp s c g .ship p b (field b 32 8) (field b 28 4) false (field b 40 8))
      (fun s id => s.updDie g.die (fun d => { d with helm := d.helm ++ [id] })))

/-- The end of a SHIP (R370): the acknowledgement word, then the add. -/
def shipAck (s : State) (o : Nat) (status : Byte) (seq : DWord) : State :=
  let s := finishOp s o (fun x => { x with progress := status.toNat + 256 * bits seq.toNat 55 0 })
  match FMap.get? s.ops o with
  | some x => if x.st = .adding ∧ x.recAddr = 0 then completeOp s o x else s
  | none => s

/-- HELM_MANIFEST_SEND (R370): Helm signs the first manifest of its queue that it has not taken, and sends it. With no session the status is
NOSESSION, beside a number that the spec does not give (a free value). Over a port that has failed the packet is lost (R365). -/
def manifestSend (s : State) (die : Nat) : Option State :=
  match (s.die die).helm.find? (fun k => match FMap.get? s.ops k with | some x => x.st == .queued && !opFrozen s x | none => false) with
  | none => none
  | some o =>
    match FMap.get? s.ops o with
    | none => none
    | some x =>
      let s := s.updOp o (fun x => { x with st := .running })
      match s.pkg.sessions.find? (fun e => e.2.live && e.2.spec.sender && e.2.spec.peer.isNone && e.2.spec.die == die && e.2.spec.tport == mTport x.params) with
      | none => let (n, s) := s.draw; some (shipAck s o 2 n)
      | some (k, y) =>
        let p : Packet := ⟨o, k, y.seq, x.params, Config.hmacSha384 y.manifestKey (leBytes 8 y.seq.toNat ++ x.params)⟩
        let t := { s with pkg := { s.pkg with sessions := FMap.put s.pkg.sessions k { y with seq := y.seq + 1 } } }
        some (if y.lost then shipAck t o 8 y.seq else { t with pkg := { t.pkg with packets := t.pkg.packets ++ [p] } })

/-- MANIFEST_ANSWER (R370, R371): the answer to a packet, or LOST. -/
def manifestAnswer (s : State) (o : Nat) (status : Byte) : Option State :=
  match s.pkg.packets.find? (fun p => p.op == o) with
  | none => none
  | some p =>
    if status = 0 ∨ status.toNat > 9 then none
    else some (shipAck { s with pkg := { s.pkg with packets := s.pkg.packets.filter (fun q => q.op != o) } } o status p.seq)

/-- A range lies wholly in extents, of any die of the package, that the die's tenant holds, writable to the die where it needs writing (R371). -/
def rangeOk (s : State) (die ctx tport : Nat) (r : Nat × Nat × Bool) : Bool :=
  (List.range ((r.1 + r.2.1 - 1) / 4096 + 1 - r.1 / 4096)).all (fun i =>
    let va := (r.1 / 4096 + i) * 4096
    match walk s die (va % 2 ^ 64) 4 (s.ctx die ctx).root with
    | .error _ => false
    | .ok (b, f, _) => match extOf s (homeDie s die (f + va % 2 ^ b)) (f + va % 2 ^ b) with
      | none => false
      | some e => e.tenant == (s.die die).mg.world && (!r.2.2 || !e.reqs.contains (tport, false)))

/-- The ranges of a manifest, and its counter (R371). -/
def rangesOk (s : State) (die ctx : Nat) (b : List Byte) : Bool :=
  ((List.range (min (field b 1 1) 2)).map (mRange b)).all (fun r => rangeOk s die ctx (mTport b) r) &&
    rangeOk s die ctx (mTport b) (field b 16 8, 8, true)

/-- A packet whose tag verifies: its number is recorded, where it is above those recorded before, and that it has been (R371; log entry 72). -/
def noteVerified (s : State) (k : Nat) (q : DWord) : State :=
  { s with pkg := { s.pkg with sessions := updIn s.pkg.sessions k (fun x =>
      { x with verified := if x.verified.toNat < q.toNat then q else x.verified,
               checked := if x.verified.toNat < q.toNat then q.toNat :: x.checked else x.checked }) } }

/-- Helm answers a manifest packet, which is then done with (R371). -/
def answered (s : State) (k : Nat) (seq : Option DWord) (status : Nat) : State :=
  { s with pkg := { s.pkg with
      sessions := match seq with
        | some q => updIn s.pkg.sessions k (fun x => { x with checked := x.checked.filter (· != q.toNat), refuse := x.refuse.filter (· != q.toNat) })
        | none => s.pkg.sessions,
      reply := [b8 status], replyOk := true } }

/-- An accepted manifest written to its slot and taken as a launch (R372); a slot that cannot be written holds it. -/
def acceptManifest (s : State) (sess : Nat) (x : Session) (seq : DWord) (b : List Byte) (k : Kernel) : State :=
  match x.slots.findIdx? (·.isNone) with
  | none => answered s sess (some seq) 7
  | some i =>
    let die := x.spec.die
    let ctx := x.spec.ctx
    let va := x.spec.slots + BitVec.ofNat 64 (128 * i)
    match unitWrite s die ctx va b with
    | (.error (e, a), s) => raiseUnit s die ctx 6 (.manifest sess seq.toNat) e.cause a
    | (.ok _, s) =>
      let (lid, s) := s.fresh
      let l : Launch := { ctx := ctx, die := die, dies := [die], prio := x.spec.prio, kernel := k, entry := k.entries.getD (field b 4 1) 0,
                          arg := va + 80, gx := field b 8 4, gy := field b 12 2, gz := field b 14 2, cnt := BitVec.ofNat 64 (field b 16 8),
                          inc := field b 24 4, src := .manifest sess i }
      let s := ((s.putLaunch lid l).toll die 12 1).toll die 15 1
      let s := { s with pkg := { s.pkg with sessions := updIn s.pkg.sessions sess (fun x => { x with slots := x.slots.set i (some lid) }) } }
      answered s sess (some seq) 1

/-- MANIFEST_CHECK (R371, R372): the checks in the order of R371's rows. A packet that a unit fault has held goes on behind the checks that it has passed. -/
def manifestCheck (s : State) (die sess : Nat) (seq : DWord) (b : List Byte) (tag : BitVec 384) : Option State :=
  if b.length ≠ 128 then none
  else match FMap.get? s.pkg.sessions sess with
    | none => some (answered s sess none 2)
    | some x =>
      let ctx := x.spec.ctx
      if x.spec.sender ∨ x.spec.peer.isSome ∨ x.spec.die ≠ die ∨ !x.live then some (answered s sess none 2)
      else if tag ≠ Config.hmacSha384 x.manifestKey (leBytes 8 seq.toNat ++ b) then some (answered s sess none 3)
      else if unitHeld s die ctx (.manifest sess seq.toNat) then none
      else if seq.toNat ≤ x.verified.toNat ∧ x.checked.contains seq.toNat = false then some (answered s sess (some seq) 4)
      else
      let s := noteVerified s sess seq
      if x.refuse.contains seq.toNat ∨ (s.ctx? die ctx).isNone ∨ !gridOk (field b 8 4) (field b 12 2) (field b 14 2) then
        some (answered s sess (some seq) 5)
      else match readKernel s die ctx (field b 2 2) with
        | (.error (e, a), s) => some (raiseUnit s die ctx 6 (.manifest sess seq.toNat) e.cause a)
        | (.ok k, s) =>
          let code := kernelCode s die ctx k (field b 4 1) [die] (field b 8 4 * field b 12 2 * field b 14 2)
          if code = 2 then some (answered s sess (some seq) 5)
          else if !rangesOk s die ctx b then some (answered s sess (some seq) 6)
          else if code ≠ 0 then some (answered s sess (some seq) 9)
          else some (acceptManifest s sess x seq b (k.getD {}))

/-- The packets of sessions that meet a test are lost with their target (R365, R370): each SHIP ends with LOST. -/
def losePackets (s : State) (f : Session → Bool) : State :=
  (s.pkg.packets.filter (fun p => f (FMap.getD s.pkg.sessions p.sess { spec := ⟨0, 0, false, 0, 0, 0, 0, none⟩, manifestKey := 0, stationKey := 0 }))).foldl
    (fun s p => shipAck { s with pkg := { s.pkg with packets := s.pkg.packets.filter (fun q => q != p) } } p.op 8 p.seq) s

/-- A failed port loses the sessions that it carries, and their packets (R365). -/
def loseSessions (s : State) (port : Nat) : State :=
  let mine := fun (x : Session) => x.spec.sender && x.spec.peer.isNone && x.spec.via == port
  let s := losePackets s mine
  { s with pkg := { s.pkg with sessions := FMap.mapV s.pkg.sessions (fun _ (x : Session) => if mine x then { x with lost := true } else x) } }

/-! ## Events -/

/-- REPLAY_START (R323). -/
def execReplayStart (s : State) : Out :=
  match s.model.ev with
  | some (.replayStart o) => happens s (replayStart s o)
  | _ => .next s.pass

/-- GRAPH_NODE_LAUNCH (R323). -/
def execGraphNodeLaunch (s : State) : Out :=
  match s.model.ev with
  | some (.graphNodeLaunch i n) => happens s (nodeLaunch s i n)
  | _ => .next s.pass

/-- GRAPH_INSTANCE_END (R323). -/
def execGraphInstanceEnd (s : State) : Out :=
  match s.model.ev with
  | some (.graphInstanceEnd i) => happens s (instanceEnd s i)
  | _ => .next s.pass

/-- HELM_MANIFEST_SEND (R370). -/
def execHelmManifestSend (s : State) : Out :=
  match s.model.ev with
  | some (.helmManifestSend die) => happens s (manifestSend s die)
  | _ => .next s.pass

/-- MANIFEST_ANSWER (R370). -/
def execManifestAnswer (s : State) : Out :=
  match s.model.ev with
  | some (.manifestAnswer o status) => happens s (manifestAnswer s o status)
  | _ => .next s.pass

/-- MANIFEST_CHECK (R371). -/
def execManifestCheck (s : State) : Out :=
  match s.model.ev with
  | some (.manifestCheck die k seq b tag) => happens s (manifestCheck s die k seq b tag)
  | _ => .next s.pass

end Sys2Proof.Machine
end

