-- ==== Sys2Proof/Machine/SwitchImage.lean ====
section
/-! DEFINITION. The switch image (R381-R388): what a stopped context holds on a core, its bytes, and the parts read back from them. Fields that
name an object (a kernel, a group, a block, a launch) or give a section's size are those of the objects saved (log entry 21). -/

namespace Sys2Proof.Machine

/-! ## Core records -/

/-- The names of a core's blocks of a context, with free-standing groups as blocks of one group (R142, R386). -/
def blocksOn (s : State) (die core ctx : Nat) : List Nat :=
  namesWhere s.blocks (fun _ b => b.die == die && b.core == core && b.ctx == ctx && !b.handler)

/-- The core record of a context on a core (R383). A cluster's barriers are carried by the record of its lowest core; a set whose barriers are all
zero is left out (log entry 21). -/
def coreRecOf (s : State) (die ctx core : Nat) : CoreRec :=
  let c := s.core die core
  let bs := blocksOn s die core ctx
  let blk := fun (b : Nat) => FMap.getD s.blocks b {}
  let mine := fun (o : Nat) => match FMap.get? s.ops o with | some x => x.ctx == ctx && x.die == die | none => false
  let chan := fun (h : Chan) =>
    if (match h.chains with | o :: _ => mine o | [] => false) then { h with chains := h.chains.filter mine, ahead := [] }
    else { chains := h.chains.filter mine }
  let clu := (bs.map (fun b => (blk b).cluster)).dedup.filter (fun k =>
    let x := FMap.getD s.clusters k {}
    x.bars.any (fun e => e.2 != {}) && x.blocks.all (fun b => decide (core ≤ (blk b).core)))
  { core := core, carve := c.split, blocks := bs,
    groups := bs.flatMap (fun b =>
      let gs := (blk b).groups.filter (fun g => (FMap.getD s.groups g {}).loc == .resident)
      (List.range 64).flatMap (fun i => gs.filter (fun g => (FMap.getD s.groups g {}).grp == i))),
    tiles := (List.range 4).filterMap (fun t => match (c.tiles.getD t {}).owner with
      | some b => if bs.contains b then some (t, c.tiles.getD t {}) else none
      | none => none),
    mq := c.mq.filter mine, chan0 := chan c.chan0, chan1 := chan c.chan1, slipA := c.slipA, slipB := c.slipB, clusters := clu.take 8 }

/-- The MAU and UMX operations of a context on a die, MAUs first (R379, R382). -/
def engsOf (s : State) (die ctx : Nat) : List Nat :=
  let mine := fun (o : Nat) => match FMap.get? s.ops o with | some x => x.ctx == ctx && x.die == die | none => false
  let dies := List.range s.fit.dies
  ((dies.flatMap (fun d => (s.die d).mau0 ++ (s.die d).mau1)) ++ (s.die die).umx).filter mine

/-- Whether a core's matrix engine has a command of the record running (R383). -/
def CoreRec.running (r : CoreRec) (s : State) : Bool :=
  match r.mq.head?.bind (FMap.get? s.ops) with | some x => x.st != .queued | none => false

/-- The records' grants in order. -/
def CoreRec.grants (r : CoreRec) (s : State) : List Nat := r.blocks.map (fun b => grantOf (FMap.getD s.blocks b {}).kernel)

/-- Where the sections of a record begin (R383): the group records, tiles, slips, matrix records, staging and scratchpad, and its end. -/
structure Sections where
  grp : List Nat
  tile : Nat
  slip : Nat
  mat : Nat
  stg : Nat
  scr : Nat
  fin : Nat
deriving DecidableEq, Repr

/-- Offsets of consecutive things of given lengths. -/
def offsets (at_ : Nat) : List Nat → List Nat
  | [] => []
  | n :: ns => at_ :: offsets (at_ + n) ns

def CoreRec.glens (r : CoreRec) (s : State) : List Nat :=
  r.groups.map (fun g => let x := FMap.getD s.groups g {}; glen x.nregs x.ndeep)

def CoreRec.sections (r : CoreRec) (s : State) : Sections :=
  let g := 4096 + 4096 * r.blocks.length
  let tile := g + (r.glens s).foldl (· + ·) 0
  let slip := tile + 98304 * r.tiles.length
  let mat := slip + 131072
  let stg := roundUp (mat + 16768 * r.mq.length) 4096
  let scr := stg + (if r.running s then 65536 else 0)
  { grp := offsets g (r.glens s), tile := tile, slip := slip, mat := mat, stg := stg, scr := scr,
    fin := scr + (r.grants s).foldl (· + ·) 0 }

/-- The image's records: the offset of each from the image's start, and the image's length (R381). -/
def Switch.layout (w : Switch) (s : State) : List Nat × Nat :=
  let lens := w.recs.map (fun r => (r.sections s).fin)
  let first := 4096 + roundUp (256 * w.engs.length) 4096
  (offsets first lens, first + lens.foldl (· + ·) 0)

/-! ## Bytes -/

/-- The bytes of a barrier (R386). -/
def barBytes (s : State) (x : Bar) : List Byte :=
  let ws := natOfBits ((List.range 32).map (fun i => x.waiters.any (fun g => (FMap.getD s.groups g {}).grp == i)))
  [b8 (bitOf x.phase), 0] ++ leBytes 2 x.arrivals ++ leBytes 2 x.expected ++ [0, 0] ++ leBytes 4 ws ++ [0, 0, 0, 0]

/-- A bitmap of n bits, by a test of the bit's number. -/
def bitmap (n : Nat) (f : Nat → Bool) : List Byte :=
  (List.range (n / 8)).map (fun i => b8 (natOfBits ((List.range 8).map (fun j => f (8 * i + j)))))

/-- The die-local number of a block's launch (R386). -/
def launchNo (s : State) (b : Block) : Nat := FMap.getD (FMap.getD s.launches b.launch {}).seqs b.die 0 % 2 ^ 32

/-- A block record (R386). -/
def blockBytes (s : State) (b : Block) : List Byte :=
  let k := b.kernel
  let lines := grantOf k / 64
  let head := leBytes 2 k.idx ++ [b8 k.groups, b8 k.tiles] ++ leBytes 4 b.bx ++ leBytes 2 b.by_ ++ leBytes 2 b.bz ++ leBytes 4 b.gx ++
    leBytes 2 b.gy ++ leBytes 2 b.gz ++ leBytes 4 k.spad ++ padTo 4 (b.tiles.map b8) ++
    leBytes 4 (launchNo s b)
  padTo 4096 (head ++ (List.range 16).flatMap (fun i => barBytes s (FMap.getD b.bars i {})) ++
    bitmap 7168 (fun n => decide (n < lines) && !b.absent.contains n) ++ bitmap 7168 (fun n => decide (n < lines) && b.marked.contains n))

/-- The cursor of a record within its walk (R385): the bytes done within the innermost copy, then the loop indices. -/
def cursorBytes (r : Rec) : List Byte :=
  let b := r.bytes
  let per := if rMode b = 7 then 1 else rExt b 0
  padTo 24 (leBytes 4 (r.done % per) ++ (rIdx b (r.done / per)).flatMap (fun i => leBytes 4 i))

/-- The chains of a channel that stand in its queue (R385): all but the one whose record it is at. -/
def Chan.queued (h : Chan) : List Nat := if h.cur.isSome || h.next.isSome then h.chains.drop 1 else h.chains

/-- A channel field (R385). A channel held at the read of its next record keeps that record's address with no copy. -/
def chanBytes (s : State) (h : Chan) : List Byte :=
  let cur := match h.cur, h.next with
    | some r, _ => padTo 128 r.bytes ++ leBytes 8 r.addr.toNat ++ cursorBytes r
    | none, some a => List.replicate 128 0 ++ leBytes 8 a.toNat ++ List.replicate 24 0
    | none, none => List.replicate 160 0
  let q := h.queued.map (fun o => FMap.getD s.ops o {})
  padTo 1280 (padTo 168 (cur ++ [b8 q.length]) ++ q.flatMap (fun x => leBytes 8 x.addr.toNat ++ padTo 128 x.params))

/-- The 16 bytes of a slip in a core header (R384). -/
def slipHead (p : Slip) : List Byte :=
  leBytes 4 p.bytes.length ++ [b8 (match p.claim with | some c => c + 1 | none => 0), 0, 0, 0] ++ leBytes 4 p.poisonFrom ++ leBytes 4 p.poisonTo

/-- A core header (R384). -/
def coreHeader (s : State) (r : CoreRec) : List Byte :=
  let head := padTo 16 (leBytes 2 r.core ++ [b8 r.carve, b8 r.blocks.length, b8 r.groups.length, b8 r.tiles.length, b8 r.mq.length])
  let ts := r.tiles.flatMap (fun e => padTo 16 (leBytes 2 ((BitVec.ofInt 16 e.2.exp).toNat) ++ [b8 (bitOf (e.2.busy != 0)), b8 (bitOf e.2.poison)]))
  let cb := r.clusters.flatMap (fun k =>
    let x := FMap.getD s.clusters k {}
    let idx := (r.blocks.takeWhile (fun b => !x.blocks.contains b)).length
    padTo 8 [b8 idx] ++ (List.range 8).flatMap (fun i => barBytes s (FMap.getD x.bars i {})))
  padTo 4096 (padTo 0x80 (head ++ slipHead r.slipA ++ slipHead r.slipB ++ ts) ++ chanBytes s r.chan0 ++ chanBytes s r.chan1 ++
    padTo 8 [b8 r.clusters.length] ++ cb)

/-- A tile's elements (R388). -/
def tileBytes (t : Tile) : List Byte := (List.range 16384).flatMap (fun i => leBytes 6 ((BitVec.ofInt 48 (FMap.getD t.elems i 0)).toNat))

/-- A matrix record (R388). -/
def matrixBytes (x : EngOp) : List Byte :=
  let p := x.params
  let kb := mKb p
  let head := padTo 128 (padTo 64 p ++ leBytes 8 x.kb ++ [b8 (bitOf x.staged.isSome), b8 (bitOf (x.st != .queued))])
  let word := fun (k : Nat) => leBytes 4 (FMap.getD x.scales k 0).toNat
  let scales :=
    if mFmtA p ≠ 0 then []
    else if mScmem p then
      if x.staged.isNone then []
      else padTo 16384 ((List.range (mM p)).flatMap (fun i => word (stripKey x.kb i))) ++ word (squareKey x.kb)
    else padTo 16384 ((List.range (mM p)).flatMap (fun i => (List.range kb).flatMap (fun b => word (stripKey b i)))) ++
      (List.range kb).flatMap (fun b => word (squareKey b))
  padTo 16768 (head ++ scales)

/-- The parts of a record (R383, R389): offsets within the record, with their bytes. The core header is written with each part that has fields
in it. -/
def CoreRec.part (r : CoreRec) (s : State) (k : Nat) : List (Nat × List Byte) :=
  let z := r.sections s
  let blk := fun (b : Nat) => FMap.getD s.blocks b {}
  let grp := fun (g : Nat) =>
    let x := FMap.getD s.groups g {}
    groupBytes s x (r.blocks.takeWhile (· != x.block)).length
  match k with
  | 0 => (z.grp.zip r.groups).map (fun e => (e.1 + 0x2000, (grp e.2).drop 0x2000))
  | 1 => (z.grp.zip r.groups).map (fun e => (e.1, (grp e.2).take 0x2000))
  | 2 => [(0, coreHeader s r), (4096, r.blocks.flatMap (fun b => blockBytes s (blk b)))]
  | 3 => ((offsets z.scr (r.grants s)).zip r.blocks).map (fun e =>
      (e.1, (List.range (grantOf (blk e.2).kernel)).map (fun i => FMap.getD (blk e.2).spad i 0)))
  | 4 => [(0, coreHeader s r), (z.tile, r.tiles.flatMap (fun e => tileBytes e.2))]
  | _ => [(0, coreHeader s r), (z.slip, padTo 65536 r.slipA.bytes ++ padTo 65536 r.slipB.bytes),
      (z.mat, padTo (z.stg - z.mat) (r.mq.flatMap (fun o => matrixBytes (FMap.getD s.ops o {}))))] ++
      (if r.running s then
        [(z.stg, padTo 65536 (((r.mq.head?.bind (FMap.get? s.ops)).bind (fun (x : EngOp) => x.staged)).getD []))] else [])

/-- The context-scope CSRs that a header holds, in order (R382). -/
def imageCsrs : List Nat := [0x400, 0x401, 0x402, 0x403, 0x404, 0x410, 0x411, 0x412, 0x418, 0x419, 0x41A, 0x803]

/-- The header and directory (R382), with a STATE. -/
def Switch.header (w : Switch) (s : State) (die ctx state : Nat) : List Byte :=
  let (offs, len) := w.layout s
  let g : Group := { die := die, ctx := ctx }
  let head := [1, b8 state] ++ leBytes 2 w.recs.length ++ leBytes 2 w.engs.length ++ [b8 die, b8 ctx] ++ leBytes 8 len ++
    imageCsrs.flatMap (fun a => leBytes 8 (csrRead s g a).toNat)
  padTo 4096 (padTo 0x100 head ++ (offs.zip w.recs).flatMap (fun e =>
    leBytes 2 e.2.core ++ [0, 0] ++ leBytes 4 (e.2.sections s).fin ++ leBytes 8 e.1))

/-- An engine record (R382). -/
def engBytes (x : EngOp) : List Byte :=
  let mau := x.kind == .attn
  padTo 256 (padTo 128 ([if mau then 1 else 2, if mau then b8 (field x.params 38 1) else 0, b8 (bitOf (x.st != .queued)), 0, 0, 0, 0, 0] ++
    leBytes 8 (if mau then x.segTile else 0)) ++ padTo 128 x.params)

/-- Whether the engine records of an image are those of the operations saved (R382, R391; log entry 21): their kinds, the unit that each block copy names,
and a STATE of 0 or 1. -/
def engsOk (s : State) (engs : List Nat) (bs : List Byte) : Bool :=
  (engs.zip (List.range engs.length)).all (fun e =>
    let b := slice bs (256 * e.2) 256
    let mau := (FMap.getD s.ops e.1 {}).kind == .attn
    field b 0 1 == (if mau then 1 else 2) && field b 1 1 == (if mau then field b (128 + 38) 1 else 0) && decide (field b 2 1 ≤ 1))

/-- What a stop writes besides the parts (R378, R382): header and directory, engine records. STATE is 0 while parts are missing, so 1 when there
is no record at all. -/
def Switch.front (w : Switch) (s : State) (die ctx : Nat) : List (Nat × List Byte) :=
  [(0, w.header s die ctx (bitOf w.recs.isEmpty)), (4096, padTo (roundUp (256 * w.engs.length) 4096) (w.engs.flatMap (fun o => engBytes (FMap.getD s.ops o {}))))]

/-! ## Parts read back (R391) -/

/-- n bytes at an offset, from pieces read at their offsets. -/
def pick (ps : List (Nat × List Byte)) (off n : Nat) : List Byte :=
  match ps.find? (fun p => decide (p.1 ≤ off) && decide (off + n ≤ p.1 + p.2.length)) with
  | some p => slice p.2 (off - p.1) n
  | none => List.replicate n 0

/-- The spans of a record that a part's load reads. -/
def CoreRec.spans (r : CoreRec) (s : State) (k : Nat) : List (Nat × Nat) := (r.part s k).map (fun p => (p.1, p.2.length))

/-- A barrier read back; its waiters are the groups that wait at it. -/
def barOfBytes (x : Bar) (b : List Byte) : Bar :=
  { x with phase := bit (field b 0 1) 0, arrivals := field b 2 2, expected := field b 4 2 }

/-- The barriers among n that a record does not hold as zero. -/
def barsOf (old : FMap Bar) (n : Nat) (b : List Byte) : FMap Bar :=
  (List.range n).filterMap (fun i =>
    let x := barOfBytes (FMap.getD old i {}) (slice b (16 * i) 16)
    if x = {} then none else some (i, x))

/-- Whether a block record is within its limits (R391): the fields that name its launch or size sections are those saved (log entry 21). -/
def blockRecOk (s : State) (b : Block) (bs : List Byte) : Bool :=
  field bs 28 4 == launchNo s b && field bs 2 1 == b.kernel.groups && field bs 20 4 == b.kernel.spad && field bs 3 1 == b.tiles.length && b.tiles.all (fun t => decide (t < 4))

/-- A block read back from its record (R386): its place in its grid, its tiles, barriers, presence, poison marks. -/
def loadBlock (b : Block) (bs : List Byte) : Block :=
  let lines := List.range (grantOf b.kernel / 64)
  { b with kernel := { b.kernel with idx := field bs 0 2, tiles := field bs 3 1 },
           bx := field bs 4 4, by_ := field bs 8 2, bz := field bs 10 2, gx := field bs 12 4, gy := field bs 16 2, gz := field bs 18 2,
           tiles := (List.range b.tiles.length).map (fun t => field bs (24 + t) 1 % 4),
           bars := barsOf b.bars 16 (slice bs 32 256),
           absent := lines.filter (fun n => !bit (field bs (288 + n / 8) 1) (n % 8)),
           marked := lines.filter (fun n => bit (field bs (1184 + n / 8) 1) (n % 8)) }

/-- The copy that a cursor's indices name (R385). -/
def copyOf (b : List Byte) (i : Nat → Nat) : Nat :=
  match rMode b with
  | 0 => 0
  | 1 => i 0 + rExt b 1 * (i 1 + rExt b 2 * i 2)
  | 5 => i 0 + rExt b 1 * (i 1 + rExt b 2 * i 2)
  | 4 => i 0 + rWin b 1 * (i 1 + rWin b 0 * (i 2 + rExt b 2 * i 3))
  | 6 => (((List.range 16).filter (fun k => bit (rAux b) k)).takeWhile (· != i 0)).length
  | _ => i 0

/-- A channel read back from its field (R385): the taken copy, its address and cursor. -/
def loadChan (h : Chan) (bs : List Byte) : Chan :=
  let b := slice bs 0 128
  let i := fun (k : Nat) => field bs (140 + 4 * k) 4
  { h with cur := h.cur.map (fun (r : Rec) =>
      { r with bytes := b, addr := BitVec.ofNat 64 (field bs 128 8),
               done := if rMode b = 7 then i 0 else copyOf b i * rExt b 0 + field bs 136 4 }) }

/-- The queued chains' heads read back (R385). -/
def loadQueue (s : State) (h : Chan) (bs : List Byte) : State :=
  (h.queued.zip (List.range 8)).foldl (fun s e => s.updOp e.1 (fun x =>
    { x with addr := BitVec.ofNat 64 (field bs (168 + 136 * e.2) 8), params := slice bs (176 + 136 * e.2) 128 })) s

/-- A slip read back (R384, R388). -/
def loadSlip (head bs : List Byte) : Slip :=
  let c := field head 4 1
  { bytes := bs.take (field head 0 4), poisonFrom := field head 8 4, poisonTo := field head 12 4, claim := if c = 0 then none else some (c - 1) }

/-- A matrix record read back, with the staging area (R388); a K-block whose scales were still to be read at the stop reads them after it (R195). -/
def loadMatrix (x : EngOp) (b stg : List Byte) : EngOp :=
  let here := x.staged.isNone || (FMap.get? x.scales (squareKey x.kb)).isSome
  let p := slice b 0 64
  let kb := field b 64 8
  let staged := field b 72 1 != 0
  let word := fun (o : Nat) => BitVec.ofNat 32 (field b o 4)
  let strips := List.range (mM p)
  let scales : FMap Word :=
    if mFmtA p ≠ 0 then []
    else if mScmem p then
      if staged && here then (strips.map (fun i => (stripKey kb i, word (128 + 4 * i)))) ++ [(squareKey kb, word 16512)] else []
    else (List.range (mKb p)).flatMap (fun j =>
      (strips.map (fun i => (stripKey j i, word (128 + 4 * (i * mKb p + j))))) ++ [(squareKey j, word (16512 + 4 * j))])
  { x with params := p, kb := kb, scales := scales,
           staged := if staged then some (stg.take (mM p * rowBytes (mFmtA p) + mN p * rowBytes (mFmtB p))) else none }

/-- A tile read back (R384, R388), a mantissa of -2^47 as it stands (log entry 21). -/
def loadTile (t : Tile) (head bs : List Byte) : Tile :=
  { t with exp := sfield head 0 2, poison := field head 3 1 != 0, busy := if field head 2 1 = 0 then 0 else max 1 t.busy,
           elems := (List.range 16384).filterMap (fun i => let v := sfield bs (6 * i) 6; if v = 0 then none else some (i, v)) }

/-- Whether a core header is within its limits (R384, R391): its counts are those saved (log entry 21). -/
def coreHeadOk (r : CoreRec) (h : List Byte) : Bool :=
  decide (field h 2 1 ≤ 7) && field h 3 1 == r.blocks.length && field h 4 1 == r.groups.length && field h 5 1 == r.tiles.length &&
    field h 6 1 == r.mq.length && decide (field h 0xA80 1 ≤ 8) &&
    (List.range (field h 0xA80 1)).all (fun n => decide (field h (0xA88 + 136 * n) 1 < r.blocks.length)) &&
    [0x10, 0x20].all (fun o => decide (field h o 4 ≤ 65536) && decide (field h (o + 4) 1 ≤ 2)) &&
    field h (0x80 + 160) 1 == r.chan0.queued.length && field h (0x580 + 160) 1 == r.chan1.queued.length

/-- Whether a group's control record is within its limits (R387, R391): it names the group saved (log entry 21). -/
def ctlOk (s : State) (r : CoreRec) (gid : Nat) (b : List Byte) : Bool :=
  let g := FMap.getD s.groups gid {}
  field b 0 1 == g.grp && field b 1 1 == (r.blocks.takeWhile (· != g.block)).length && field b 2 1 == g.nregs / 8 && field b 3 1 == g.ndeep / 8 && field b 0xA 1 == bitOf g.free &&
    decide (field b 5 1 < 32) && decide (field b 8 1 < (if field b 7 1 = 2 then 8 else 16)) &&
    (field b 0x18 8 == 0 || g.frames.any (fun f => (FMap.getD s.frames f {}).addr.toNat == field b 0x18 8))

/-- A group's control state loaded, its innermost open frame that whose record it names (R387). -/
def loadCtlOf (s : State) (r : CoreRec) (gid : Nat) (b : List Byte) : Option Group :=
  if ctlOk s r gid b then
    (loadCtl (FMap.getD s.groups gid {}) b).map (fun g =>
      { g with frames := g.frames.dropWhile (fun f => (FMap.getD s.frames f {}).addr.toNat != field b 0x18 8) })
  else none

/-- The cluster-barrier sets of a core header loaded (R384); what the record carried and the header does not hold is zero. -/
def loadClusters (s : State) (r : CoreRec) (h : List Byte) : State :=
  let s := foldNames s r.clusters (fun s k => { s with clusters := updIn s.clusters k (fun c =>
    { c with bars := c.bars.filterMap (fun e => if e.2.waiters.isEmpty then none else some (e.1, { waiters := e.2.waiters })) }) })
  foldNames s (List.range (field h 0xA80 1)) (fun s n =>
    let k := (FMap.getD s.blocks (r.blocks.getD (field h (0xA88 + 136 * n) 1) 0) {}).cluster
    { s with clusters := updIn s.clusters k (fun c => { c with bars := barsOf c.bars 8 (slice h (0xA90 + 136 * n) 128) }) })

/-- The matrix records loaded (R388). -/
def loadQueueMatrix (s : State) (r : CoreRec) (b stg : List Byte) : State :=
  (r.mq.zip (List.range 4)).foldl (fun s e => s.updOp e.1 (fun x => loadMatrix x (slice b (16768 * e.2) 16768) stg)) s

/-- Whether the matrix records say of each command whether it runs as it did at the stop (R388; log entry 21). -/
def matrixOk (s : State) (r : CoreRec) (b : List Byte) : Bool :=
  (r.mq.zip (List.range 4)).all (fun e => (field b (16768 * e.2 + 73) 1 != 0) == ((FMap.getD s.ops e.1 {}).st != .queued))

/-- A part loaded into the core reserved for its record, from the pieces read; nothing where a field is outside its limits (R391). The core takes its
carve from the header (R392). -/
def loadPart (s : State) (die : Nat) (r : CoreRec) (k : Nat) (ps : List (Nat × List Byte)) : Option State :=
  let z := r.sections s
  let core := r.target.getD r.core
  let h := pick ps 0 4096
  let carved := fun (s : State) => s.updCore die core (fun c => c.take true (field h 2 1))
  match k with
  | 0 => some ((z.grp.zip r.groups).foldl (fun s e => s.updGroup e.2 (fun g =>
      let b := List.replicate 0x2000 0 ++ pick ps (e.1 + 0x2000) (glen g.nregs g.ndeep - 0x2000)
      loadRegsOf g b)) s)
  | 1 =>
    let gs := (z.grp.zip r.groups).map (fun e => (e.2, loadCtlOf s r e.2 (pick ps e.1 0x2000)))
    if gs.any (fun e => e.2.isNone) then none
    else some (gs.foldl (fun s e => match e.2 with | some g => s.putGroup e.1 g | none => s) s)
  | 2 =>
    let bs := (r.blocks.zip (List.range r.blocks.length)).map (fun e => (e.1, slice (pick ps 4096 (4096 * r.blocks.length)) (4096 * e.2) 4096))
    if !coreHeadOk r h || bs.any (fun e => !blockRecOk s (FMap.getD s.blocks e.1 {}) e.2) then none
    else some (loadClusters (bs.foldl (fun s e => s.updBlock e.1 (fun b => loadBlock b e.2)) (carved s)) r h)
  | 3 => some (((offsets z.scr (r.grants s)).zip r.blocks).foldl (fun s e => s.updBlock e.2 (fun b =>
      let n := grantOf b.kernel
      { b with spad := ((List.range n).zip (pick ps e.1 n)).filter (fun (x : Nat × Byte) => x.2 != 0) })) s)
  | 4 =>
    if !coreHeadOk r h then none
    else some ((carved s).updCore die core (fun c => (r.tiles.zip (List.range 4)).foldl (fun (c : Core) e =>
      { c with tiles := c.tiles.modify e.1.1 (fun t => loadTile t (slice h (0x30 + 16 * e.2) 16) (pick ps (z.tile + 98304 * e.2) 98304)) }) c))
  | _ =>
    let m := pick ps z.mat (16768 * r.mq.length)
    if !coreHeadOk r h || !matrixOk s r m then none
    else
      let c0 := slice h 0x80 1280
      let c1 := slice h 0x580 1280
      let s := (carved s).updCore die core (fun c =>
        { c with slipA := loadSlip (slice h 0x10 16) (pick ps z.slip 65536), slipB := loadSlip (slice h 0x20 16) (pick ps (z.slip + 65536) 65536),
                 chan0 := loadChan c.chan0 c0, chan1 := loadChan c.chan1 c1 })
      let s := loadQueue (loadQueue s r.chan0 c0) r.chan1 c1
      some (loadQueueMatrix s r m (pick ps z.stg 65536))

end Sys2Proof.Machine
end

