-- ==== Sys2Proof/Machine/Switch.lean ====
section
/-! DEFINITION. Pre-emption and context switch (R321, R376-R393): stopping a context, CTXSV and CTXLD, the save engine. -/

namespace Sys2Proof.Machine

/-! ## Stopping (R378, R379) -/

/-- The resident groups of a context on a die, handlers apart. -/
def groupsOf (s : State) (die ctx : Nat) : List Nat :=
  namesWhere s.groups (fun _ g => g.die == die && g.ctx == ctx && (match g.kind with | .handler _ _ _ => false | _ => true))

/-- The cores that hold something of a context (R383). -/
def coresOf (s : State) (die ctx : Nat) : List Nat :=
  let cs := s.blocks.filterMap (fun e => if e.2.die == die && e.2.ctx == ctx && !e.2.handler then some e.2.core else none)
  (List.range 192).filter (fun c => cs.contains c)

/-- The units that a stop waits for (R379). -/
def unitsOf (s : State) (die ctx : Nat) : List UnitId :=
  (coresOf s die ctx).flatMap (fun c => [.core c, .matrix c, .barge c 0, .barge c 1]) ++
  (((engsOf s die ctx).filterMap (fun o => (FMap.get? s.ops o).bind EngOp.unit)).dedup)

/-- A stop begins (R378): the context is STOPPED, its groups issue nothing more, its units are to stop. -/
def beginStop (s : State) (die ctx : Nat) (owner : Option Nat) (image : DWord) : State :=
  let us := unitsOf s die ctx
  let s := s.updCtx die ctx (fun x => { x with sw := .stopped, switch := some { owner := owner, engine := owner.isNone, image := image, units := us } })
  foldNames s (groupsOf s die ctx) (fun s g => s.updGroup g (fun g => { g with holds := { g.holds with switch := true } }))

/-- Groups that wait for a switch to come forward look again. -/
def wakeForms (s : State) (die : Nat) : State := wakeWhere s (fun _ g => g.die == die && g.wait == .ctxForm)

/-- Whether a group of a stopped context has come to rest (R229): every result written or reported, every access performed, no ASGEN or TLBI
under way. -/
def atRest (s : State) (gid : Nat) (g : Group) : Bool :=
  settled g && g.rejects.isEmpty && !inFlight s gid &&
    (match g.wait with | .asgen _ _ _ => false | .tlbi _ _ _ _ => false | _ => true)

/-- Whether an operation holds its engine's stop up: it has written every result and its add is still to come (R379). -/
def addOwed (s : State) (x : EngOp) : Bool := x.st == .adding && !addHeldUp s x

/-- Whether a unit has reached its stop boundary for a context (R379). -/
def unitAtRest (s : State) (die ctx : Nat) (u : UnitId) : Bool :=
  let op := fun (o : Nat) => FMap.getD s.ops o {}
  let mine := fun (o : Nat) => match FMap.get? s.ops o with | some x => x.ctx == ctx && x.die == die | none => false
  match u with
  | .core c => (groupsOf s die ctx).all (fun g => let x := FMap.getD s.groups g {}; x.core != c || x.loc != .resident || atRest s g x)
  | .matrix c => ((s.core die c).mq.filter mine).all (fun o => !addOwed s (op o))
  | .barge c ch =>
    let h := (s.core die c).chan ch
    match h.chains.head? with
    | none => true
    | some o =>
      !mine o || (match h.cur, (op o).st with
        | some r, _ => r.held.isSome || !(r.finished || r.cancelled || r.wrote)
        | none, .queued => true
        | none, .held _ => true
        | none, _ => false)
  | .umx => ((s.die die).umx.filter mine).all (fun o => match (op o).st with
      | .running => false
      | .adding => addHeldUp s (op o)
      | _ => true)
  | .mau k => ((engsOf s die ctx).filter (fun o => (op o).unit == some (.mau k))).all (fun o => !addOwed s (op o))

/-- A unit stops (R379): groups settle under R229, read-ahead copies go, a sweep's partial segment goes. -/
def restUnit (s : State) (die ctx : Nat) (u : UnitId) : State :=
  match u with
  | .core c => foldNames s (groupsOf s die ctx) (fun s g =>
      let x := FMap.getD s.groups g {}
      if x.core = c ∧ x.loc = .resident then restGroup s g else s)
  | .barge c ch => s.updChan die c ch (fun h => { h with ahead := [] })
  | .matrix c => foldNames s (s.core die c).mq (fun s o => s.updOp o (fun x => if x.die = die ∧ x.ctx = ctx then { x with kstep := 0 } else x))
  | .mau k => foldNames s (engsOf s die ctx) (fun s o => s.updOp o (fun x =>
      if x.unit = some (.mau k) then { x with extra := [], entering := [], stats := [], curTile := x.segTile } else x))
  | _ => s

/-- ENGINE_PREEMPT_STOP (R379): with the last unit the core records stand, and the owner goes on. -/
def preemptStop (s : State) (die ctx : Nat) (u : UnitId) : Option State :=
  match (s.ctx die ctx).switch with
  | none => none
  | some w =>
    if !w.units.contains u || !unitAtRest s die ctx u then none
    else
      let s := restUnit s die ctx u
      let us := w.units.filter (· != u)
      let s := s.updCtx die ctx (fun x => { x with switch := x.switch.map (fun w => { w with units := us }) })
      some (if us.isEmpty then wakeForms s die else s)

/-- The frame records of a context on a die spilled (R267, R378); false when a write is held (R441). -/
def spillAll (s : State) (die ctx : Nat) : List Nat → Bool × State
  | [] => (true, s)
  | f :: fs =>
    let x := FMap.getD s.frames f {}
    if x.die ≠ die ∨ x.ctx ≠ ctx then spillAll s die ctx fs
    else if unitHeld s die ctx (.frame x.gid) then (false, s)
    else match spillFrame s f with
      | (false, s) => (false, s)
      | (true, s) => spillAll s die ctx fs

/-- The switch with the records of what the context holds (R383). -/
def Switch.filled (w : Switch) (s : State) (die ctx : Nat) : Switch :=
  { w with recs := (coresOf s die ctx).map (coreRecOf s die ctx), engs := engsOf s die ctx }

/-! ## The image (R390) -/

/-- A way to write the image: by the issuing group, or by the save engine. -/
abbrev Writer := State → DWord → List Byte → Except (AErr × DWord) Unit × State
abbrev Reader := State → DWord → Nat → Except (AErr × DWord) (List Byte × Bool) × State

/-- Pieces written at offsets from an address; bytes of a lost range go nowhere (R365). -/
def putPieces (wr : Writer) (s : State) (base : DWord) : List (Nat × List Byte) → Except (AErr × DWord) Unit × State
  | [] => (.ok (), s)
  | (o, bs) :: ps =>
    match wr s (base + BitVec.ofNat 64 o) bs with
    | (.error (.lost, _), s) => putPieces wr s base ps
    | (.error e, s) => (.error e, s)
    | (.ok _, s) => putPieces wr s base ps

/-- Spans read at offsets from an address, with whether one is poisoned. -/
def getPieces (rd : Reader) (s : State) (base : DWord) :
    List (Nat × Nat) → List (Nat × List Byte) → Bool → Except (AErr × DWord) (List (Nat × List Byte) × Bool) × State
  | [], acc, bad => (.ok (acc, bad), s)
  | (o, n) :: ps, acc, bad =>
    match rd s (base + BitVec.ofNat 64 o) n with
    | (.error e, s) => (.error e, s)
    | (.ok (bs, b), s) => getPieces rd s base ps (acc ++ [(o, bs)]) (bad || b)

/-- Every part of a record saved or loaded, of every record. -/
def Switch.complete (w : Switch) : Bool :=
  (List.range w.recs.length).all (fun n => (List.range 6).all (fun k => w.parts.contains (n, k)))

/-- Where a record begins in the image. -/
def Switch.recAt (w : Switch) (s : State) (n : Nat) : DWord := w.image + BitVec.ofNat 64 ((w.layout s).1.getD n 0)

/-! ## Release, place and resume (R391, R392) -/

/-- The context leaves its cores and queues (R278, R391). -/
def releaseCtx (s : State) (die ctx : Nat) (w : Switch) : State :=
  let ops := w.engs ++ w.recs.flatMap (fun r => r.mq ++ r.chan0.chains ++ r.chan1.chains)
  let bs := w.recs.flatMap (·.blocks)
  let s := foldNames s (w.recs.flatMap (·.groups)) (fun s g => s.updGroup g (fun g => { g with loc := .saved, active := false }))
  let s := foldNames s bs (fun s b => s.updBlock b (fun b => { b with core := 65535 }))
  let s := foldNames s (w.recs.map (·.core)) (fun s c =>
    leaveCore (s.updCore die c (fun k =>
      { k.purge (fun o => ops.contains o) (fun b => bs.contains b) with lambda := [8, 8, 8, 8] })) die c ctx)
  let keep := fun (l : List Nat) => l.filter (fun o => !w.engs.contains o)
  let s := { s with dies := FMap.mapV s.dies (fun _ (d : Die) => { d with mau0 := keep d.mau0, mau1 := keep d.mau1, umx := keep d.umx }) }
  wakeForms (wakeWhere (s.updCtx die ctx (fun x => { x with sw := .saved })) (fun _ g => g.wait == .queue)) die

/-- The context takes the cores found for its records, and its engine records their places ahead of later arrivals (R391, R392). -/
def placeCtx (s : State) (die ctx : Nat) (w : Switch) (cores : List Nat) (head engs : List Byte) : State :=
  let recs := (w.recs.zip cores).map (fun e => { e.1 with target := some e.2 })
  let s := recs.foldl (fun s r =>
    let t := r.target.getD 0
    let s := s.updCore die t (fun c =>
      let c := c.take true r.carve
      { c with reserved := some ctx, lambda := [8, 8, 8, 8], mq := r.mq, chan0 := r.chan0, chan1 := r.chan1,
               tiles := r.tiles.foldl (fun ts e => ts.set e.1 e.2) c.tiles })
    let s := foldNames s r.blocks (fun s b => s.updBlock b (fun b => { b with core := t }))
    { s with groups := FMap.mapV s.groups (fun _ (g : Group) => if r.blocks.contains g.block then { g with core := t } else g),
             ops := FMap.mapV s.ops (fun _ (x : EngOp) => if x.die == die && x.ctx == ctx && r.blocks.contains x.block then { x with core := t } else x) }) s
  let g : Group := { die := die, ctx := ctx }
  let s := (imageCsrs.zip (List.range 12)).foldl (fun s e => csrWrite s g e.1 (BitVec.ofNat 64 (field head (0x10 + 8 * e.2) 8))) s
  let s := (w.engs.zip (List.range w.engs.length)).reverse.foldl (fun s e =>
    let b := slice engs (256 * e.2) 256
    let s := s.updOp e.1 (fun x => { x with params := slice b 128 x.params.length,
                                            st := if field b 2 1 = 0 then .queued else if x.st = .queued then .running else x.st,
                                            segTile := if x.kind = .attn then field b 8 8 else x.segTile,
                                            curTile := if x.kind = .attn then field b 8 8 else x.curTile })
    let x := FMap.getD s.ops e.1 {}
    if x.kind = .attn then
      s.updDie (aDie x.params) (fun d => if aStack x.params = 0 then { d with mau0 := e.1 :: d.mau0 } else { d with mau1 := e.1 :: d.mau1 })
    else s.updDie die (fun d => { d with umx := e.1 :: d.umx })) s
  s.updCtx die ctx (fun x => { x with sw := .placed, switch := some { w with recs := recs, parts := [] } })

/-- The wait of a restored group (R387): a barrier whose phase still is its token; everything else issues again. -/
def restoredWait (s : State) (g : Group) : GWait :=
  match g.wait with
  | .barrier clu id tok => match barOf s g clu id with
    | some x => if x.phase = tok then g.wait else .run
    | none => .run
  | _ => .run

/-- A group enters its quarter again, as a newly placed one (R235, R387, R392). -/
def restoreGroup (s : State) (gid : Nat) : State :=
  match FMap.get? s.groups gid with
  | none => s
  | some g =>
    let g := { g with quarter := g.grp % 4, wait := restoredWait s g }
    let g := { enterQuarter s g with loc := .resident }
    let s := s.putGroup gid g
    match g.wait with
    | .barrier clu id _ => match barOf s g clu id with
      | some x => if x.waiters.contains gid then s else putBar s g clu id { x with waiters := x.waiters ++ [gid] }
      | none => s
    | _ => s

/-- The waiters of barriers are groups that wait there. -/
def trimWaiters (s : State) (b : Nat) : State :=
  let ok := fun (g : Nat) => match FMap.get? s.groups g with
    | some x => match x.wait with | .barrier _ _ _ => true | _ => false
    | none => false
  s.updBlock b (fun b => { b with bars := FMap.mapV b.bars (fun _ x => { x with waiters := x.waiters.filter ok }) })

/-- The context runs again and its ownership ends (R391). -/
def runAgain (s : State) (die ctx : Nat) : State := wakeForms (abandonSwitch s die ctx) die

/-- CTXLD.resume from PLACED (R391, R392): the HOME of live frames follows, L1 of every restored core is self-invalidated, the groups enter. -/
def resumeCtx (s : State) (die ctx : Nat) (w : Switch) : State :=
  let s := w.recs.foldl (fun s r =>
    let t := r.target.getD 0
    let s := consumerHalf (s.updCore die t (fun c => { c with reserved := none })) die t (s.ctx die ctx).asid true
    let s := foldNames s r.groups restoreGroup
    foldNames s r.blocks trimWaiters) s
  let moved := fun (f : Frame) => (w.recs.find? (fun r => r.core == f.home)).bind CoreRec.target
  let s := foldNames s (s.frames.map (·.1)) (fun s k =>
    let f := FMap.getD s.frames k {}
    match moved f with
    | some t => if f.die = die ∧ f.ctx = ctx ∧ t ≠ f.home then (spillFrame (s.updFrame k (fun f => { f with home := t })) k).2 else s
    | none => s)
  runAgain s die ctx

/-! ## The forms (R389-R391) -/

/-- The rules common to the forms (R390): PROTECT below the driver ring, POISON for a tagged operand, the group's own accesses performed. -/
def ctxForm (s : State) (rs : List Nat) (k : State → Issue → Group → Out) : Out :=
  uniform s (fun c g =>
    if g.ring = 0 then .next (groupFault s c cProtect 0)
    else orPoison s c g rs (drainFirst s c (k s c g)))

/-- A form that is not legal, or whose operands are not (R390). -/
def formBad (s : State) (c : Issue) (va : DWord) : Out := .next (groupFault s c cAddr va)

/-- The context that a stop or a place names, if it may (R390). -/
def formCtx (s : State) (g : Group) (v : Word) : Option (Nat × Ctx) :=
  let n := bits v.toNat 5 0
  if bits v.toNat 31 6 ≠ 0 ∨ n = g.ctx then none
  else match s.ctx? g.die n with
    | some x => if x.vf = (s.ctx g.die g.ctx).vf then some (n, x) else none
    | none => none

/-- The context whose switch a group owns on its die; the lowest-numbered one of several (R376; log entry 22). -/
def ownedCtx (s : State) (c : Issue) (g : Group) : Option (Nat × Ctx × Switch) :=
  (List.range 64).findSome? (fun n => match s.ctx? g.die n with
    | some x => match x.switch with
      | some w => if w.owner = some c.gid then some (n, x, w) else none
      | none => none
    | none => none)

/-- How an access of a form to the image ends when it fails (R390): a lane fault, or a fault of the group. -/
def imageFault (s : State) (c : Issue) (g : Group) (e : AErr) (va : DWord) (wr : Bool) : Out :=
  let tr := failsXl s g.die g.core g.ctx g.ring (if wr then .write else .read) va (holdOf s g c.lanes)
  let r := { waitRecord s g e.cause va tr with flags := BitVec.ofNat 8 ((if wr then 2 else 1) + 8 * bitOf tr), width := 0 }
  if e = .lost then .next (groupFault s c cPoison va)
  else if fatalErr (some e) then .next (groupFaultBy s c r)
  else .next (issueFault s c r)

/-- The image as a group writes and reads it. -/
def groupWr (s₀ : State) (c : Issue) (g : Group) : Writer := fun s va bs =>
  (holdsOf s₀ g c.lanes).foldl (fun (r : Except (AErr × DWord) Unit × State) h => match r with
    | (.ok _, s) => vWrite s g.die g.core g.ctx g.ring h false va bs
    | e => e) (.ok (), s)
def groupRd (s₀ : State) (c : Issue) (g : Group) : Reader := fun s va n => vRead s g.die g.core g.ctx g.ring (holdOf s₀ g c.lanes) va n

/-- A form is complete: the consumer half on its core, and the group goes on (R390). -/
def formDone (s : State) (c : Issue) (g : Group) : Out :=
  let s := consumerHalf s g.die g.core (s.ctx g.die g.ctx).asid true
  .next (retire s c (regroup s c g))

/-- CTXSV.stop (R376, R378, R391): the stop begins; once every unit has stopped, the frames are spilled and the header is written. -/
def execCtxsvStop (a b : BitVec 6) (s : State) : Out :=
  ctxForm s (pairRegs a ++ [b.toNat]) (fun s c g =>
    let va := g.sPair a
    if baseBad va.toNat 4096 then formBad s c va
    else match formCtx s g (g.sv b) with
      | none => formBad s c 0
      | some (n, x) =>
        match x.sw, x.switch with
        | .run, none =>
          let s := beginStop s g.die n (some c.gid) va
          .next (stall s c (if (unitsOf s g.die n).isEmpty then .run else .ctxForm))
        | .saved, some w =>
          formDone (s.updCtx g.die n (fun x => { x with switch := some { w with owner := some c.gid, engine := false } })) c g
        | .stopped, some w =>
          if w.owner ≠ some c.gid ∨ !w.headerOwed then formBad s c 0
          else if !w.units.isEmpty then .next (stall s c .ctxForm)
          else match spillAll s g.die n (s.frames.map (·.1)) with
            | (false, s) => .next (stall s c .ctxForm)
            | (true, s) =>
              let w := { w.filled s g.die n with image := va }
              match putPieces (groupWr s c g) s va (w.front s g.die n) with
              | (.error (e, a), s) => imageFault s c g e a true
              | (.ok _, s) => formDone (s.updCtx g.die n (fun x => { x with switch := some { w with headerOwed := false } })) c g
        | _, _ => formBad s c 0)

/-- CTXSV.part (R391): one part of a record is written; with the last one STATE becomes 1. -/
def execCtxsvPart (b : BitVec 6) (k : BitVec 3) (s : State) : Out :=
  ctxForm s [b.toNat] (fun s c g =>
    match ownedCtx s c g with
    | none => formBad s c 0
    | some (n, x, w) =>
      let i := (g.sv b).toNat
      match w.recs[i]? with
      | none => formBad s c 0
      | some r =>
        if x.sw ≠ .stopped ∨ w.headerOwed then formBad s c 0
        else match putPieces (groupWr s c g) s (w.recAt s i) (r.part s k.toNat) with
          | (.error (e, a), s) => imageFault s c g e a true
          | (.ok _, s) =>
            let w := { w with parts := if w.parts.contains (i, k.toNat) then w.parts else w.parts ++ [(i, k.toNat)] }
            match (if w.complete then putPieces (groupWr s c g) s (w.image + 1) [(0, [1])] else (.ok (), s)) with
            | (.error (e, a), s) => imageFault s c g e a true
            | (.ok _, s) => formDone (s.updCtx g.die n (fun x => { x with switch := some w })) c g)

/-- CTXSV.release (R391). -/
def execCtxsvRelease (s : State) : Out :=
  ctxForm s [] (fun s c g =>
    match ownedCtx s c g with
    | none => formBad s c 0
    | some (n, x, w) =>
      if x.sw ≠ .stopped ∨ w.headerOwed ∨ !w.complete then formBad s c 0
      else formDone (releaseCtx s g.die n w) c g)

/-- Whether a header is that of the context's image, with every part saved (R382, R391). -/
def headerOk (die ctx : Nat) (b : List Byte) : Bool :=
  field b 0 1 == 1 && field b 1 1 == 1 && field b 6 1 == die && field b 7 1 == ctx

/-- CTXLD.place (R391, R392): the header is read and checked, cores are found, and the context takes them. -/
def execCtxldPlace (a b : BitVec 6) (s : State) : Out :=
  ctxForm s (pairRegs a ++ [b.toNat]) (fun s c g =>
    let va := g.sPair a
    if baseBad va.toNat 4096 then formBad s c va
    else match formCtx s g (g.sv b) with
      | none => formBad s c 0
      | some (n, x) =>
        match x.sw, x.switch with
        | .saved, some w =>
          if w.owner ≠ some c.gid then formBad s c 0
          else match getPieces (groupRd s c g) s va [(0, 4096)] [] false with
            | (.error (e, a), s) => imageFault s c g e a false
            | (.ok (ps, bad), s) =>
              let head := pick ps 0 4096
              if bad then .next (groupFault s c cPoison va)
              else if !headerOk g.die n head then formBad s c va
              else match getPieces (groupRd s c g) s va [(4096, 256 * w.engs.length)] [] false with
                | (.error (e, a), s) => imageFault s c g e a false
                | (.ok (es, bad), s) =>
                  if bad then .next (groupFault s c cPoison va)
                  else if !engsOk s w.engs (pick es 4096 (256 * w.engs.length)) then formBad s c va
                  else match findCores s g.die (w.recs.map (·.core)) with
                    | none => .next (stall s c .ctxForm)
                    | some cores =>
                      formDone (placeCtx s g.die n { w with image := va } cores head (pick es 4096 (256 * w.engs.length))) c g
        | _, _ => formBad s c 0)

/-- CTXLD.part (R391). -/
def execCtxldPart (b : BitVec 6) (k : BitVec 3) (s : State) : Out :=
  ctxForm s [b.toNat] (fun s c g =>
    match ownedCtx s c g with
    | none => formBad s c 0
    | some (n, x, w) =>
      let i := (g.sv b).toNat
      match w.recs[i]? with
      | none => formBad s c 0
      | some r =>
        if x.sw ≠ .placed then formBad s c 0
        else match getPieces (groupRd s c g) s (w.recAt s i) (r.spans s k.toNat) [] false with
          | (.error (e, a), s) => imageFault s c g e a false
          | (.ok (ps, bad), s) =>
            if bad then .next (groupFault s c cPoison 0)
            else match loadPart s g.die r k.toNat ps with
              | none => formBad s c 0
              | some s =>
                let parts := if w.parts.contains (i, k.toNat) then w.parts else w.parts ++ [(i, k.toNat)]
                formDone (s.updCtx g.die n (fun x => { x with switch := some { w with parts := parts } })) c g)

/-- CTXLD.resume (R377, R391): in place from STOPPED, from PLACED once every part is loaded. -/
def execCtxldResume (s : State) : Out :=
  ctxForm s [] (fun s c g =>
    match ownedCtx s c g with
    | none => formBad s c 0
    | some (n, x, w) =>
      match x.sw with
      | .stopped => if w.units.isEmpty then formDone (runAgain s g.die n) c g else formBad s c 0
      | .placed => if w.complete then formDone (resumeCtx s g.die n w) c g else formBad s c 0
      | _ => formBad s c 0)

/-! ## The save engine (R376, R380, R392) -/

/-- A request for a pre-emption (R376): dropped and logged when the context is already in a switch. -/
def requestPreempt (s : State) (die ctx : Nat) : State :=
  match s.ctx? die ctx with
  | none => s.logged (.dropped die ctx)
  | some x =>
    if x.sw ≠ .run ∨ x.switch.isSome then s.logged (.dropped die ctx)
    else beginStop s die ctx none ((x.savebase &&& ~~~0xFFFFF#64) + BitVec.ofNat 64 (bits x.savebase.toNat 7 0 * 2 ^ 20))

/-- Whether an image of a length fits the save area behind its continuation slots (R380). -/
def imageFits (x : Ctx) (len : Nat) : Bool :=
  decide (len ≤ (bits x.savebase.toNat 19 8 - bits x.savebase.toNat 7 0) * 2 ^ 20)

/-- An access of the save engine to the image fails: the unit fault of R441. -/
def imageHeld (s : State) (die ctx : Nat) (restore : Bool) (e : AErr × DWord) : State :=
  raiseUnit s die ctx 9 (.image restore) e.1.cause e.2

/-- SAVE_ENGINE_SAVE (R376, R378, R380, R393): header, every part, STATE 1, and the release; a stop whose image does not fit is given up, and the
distributor asks again no sooner than 8,192 cycles later. While the all-stop line is up the state stays as it stands (R393). -/
def engineSave (s : State) (die ctx : Nat) : Option State :=
  let x := s.ctx die ctx
  match x.switch with
  | none => none
  | some w =>
    if x.sw ≠ .stopped ∨ x.line.isSome ∨ !w.engine ∨ !w.units.isEmpty ∨ unitHeld s die ctx (.image false) then none
    else match spillAll s die ctx (s.frames.map (·.1)) with
      | (false, s') => if s'.traps.length = s.traps.length then none else some s'
      | (true, s) =>
        let w := { w.filled s die ctx with headerOwed := false }
        if !imageFits x (w.layout s).2 then
          some (((runAgain s die ctx).logged (.dropped die ctx)).updCtx die ctx (fun x => { x with backoff := (s.die die).cycle + 8192 }))
        else
          let wr : Writer := fun s va bs => unitWrite s die ctx va bs
          let recs := (w.recs.zip (w.layout s).1).flatMap (fun e =>
            (List.range 6).flatMap (fun k => (e.1.part s k).map (fun p => (e.2 + p.1, p.2))))
          match putPieces wr s w.image (w.front s die ctx ++ recs ++ [(1, [1])]) with
          | (.error e, s) => some (imageHeld s die ctx false e)
          | (.ok _, s) =>
            let w := { w with parts := (List.range w.recs.length).flatMap (fun n => (List.range 6).map (fun k => (n, k))) }
            some (releaseCtx (s.updCtx die ctx (fun x => { x with switch := some w })) die ctx w)

/-- Every part of every record loaded by the save engine; a part outside its limits loads nothing (log entry 21). -/
def loadAll (s : State) (die : Nat) (recs : List CoreRec) (pss : List (List (Nat × List Byte))) : State :=
  (recs.zip pss).foldl (fun s e => (List.range 6).foldl (fun s k => (loadPart s die e.1 k e.2).getD s) s) s

/-- The spans that a record's parts read. -/
def CoreRec.allSpans (r : CoreRec) (s : State) : List (Nat × Nat) := ((List.range 6).flatMap (r.spans s)).dedup

/-- The pieces of each record read in turn. -/
def getRecs (rd : Reader) (s : State) (w : Switch) : List (CoreRec × Nat) → List (List (Nat × List Byte)) →
    Except (AErr × DWord) (List (List (Nat × List Byte))) × State
  | [], acc => (.ok acc, s)
  | (r, n) :: rs, acc =>
    match getPieces rd s (w.recAt s n) (r.allSpans s) [] false with
    | (.error e, s) => (.error e, s)
    | (.ok (ps, _), s) => getRecs rd s w rs (acc ++ [ps])

/-- SAVE_ENGINE_RESTORE (R392): when the die has room for every record at once, and no retry is awaited. An image whose header software has
changed is left alone (log entry 21). -/
def engineRestore (s : State) (die ctx : Nat) (cores : List Nat) : Option State :=
  let x := s.ctx die ctx
  match x.switch with
  | none => none
  | some w =>
    let at_ := w.recs.map (·.core)
    let same := (at_.zip cores).all (fun e => e.1 % 8 == e.2 % 8 && (at_.zip cores).all (fun f => e.1 / 8 != f.1 / 8 || e.2 / 8 == f.2 / 8))
    if x.sw ≠ .saved ∨ x.line.isSome ∨ !w.engine ∨ (s.die die).cycle < x.retryAt ∨ unitHeld s die ctx (.image true) ∨ cores.length ≠ w.recs.length ∨ !same ∨
        decide cores.Nodup = false ∨ cores.any (fun c => !emptyCore s die c) then none
    else
      let rd : Reader := fun s va n => unitRead s die ctx va n
      match getPieces rd s w.image [(0, 4096), (4096, 256 * w.engs.length)] [] false with
      | (.error e, s) => some (imageHeld s die ctx true e)
      | (.ok (ps, _), s) =>
        if !headerOk die ctx (pick ps 0 4096) || !engsOk s w.engs (pick ps 4096 (256 * w.engs.length)) then none
        else match getRecs rd s w (w.recs.zip (List.range w.recs.length)) [] with
          | (.error e, s) => some (imageHeld s die ctx true e)
          | (.ok pss, s) =>
            let s := placeCtx s die ctx w cores (pick ps 0 4096) (pick ps 4096 (256 * w.engs.length))
            let w := ((s.ctx die ctx).switch).getD w
            some (resumeCtx (loadAll s die w.recs pss) die ctx w)

/-! ## The distributor's request (R321) -/

/-- The most clusters of a size, beside one of a smaller size, that a hardware cluster whose cores hold so many blocks each takes, every cluster's blocks
on cores of their own (R213). -/
def clustersIn (ns : List Nat) (clu small : Nat) : Option Nat :=
  let extra := bitOf (small != 0)
  (((List.range (ns.foldl (· + ·) 0 + 1)).filter (fun t =>
    decide (t * clu + small ≤ (ns.map (fun n => min n (t + extra))).foldl (· + ·) 0))).getLast?)

/-- Whether a die has room now for the whole share of a gang (R320). -/
def shareRoom (s : State) (die : Nat) (l : Launch) : Bool :=
  let k := l.kernel
  let blocks := l.gx * l.gy * l.gz
  let ns := fun (h : Nat) => (List.range 8).map (fun r => coreHolds s die (8 * h + r) l.ctx k)
  let full := fun (h : Nat) => (clustersIn (ns h) k.clu 0).getD 0
  let all := ((List.range 24).map full).foldl (· + ·) 0
  let small := if (ceilDiv blocks k.clu - 1) % l.dies.length = (l.dies.takeWhile (· != die)).length then blocks % k.clu else 0
  if small = 0 then decide (l.share die ≤ all)
  else (List.range 24).any (fun h => match clustersIn (ns h) k.clu small with
    | some t => decide (l.share die ≤ all - full h + t + 1)
    | none => false)

/-- Whether a die has room for the next cluster or block child of a launch (R319), or for a gang's whole share (R320). -/
def headRoom (s : State) (die lid : Nat) (l : Launch) : Bool :=
  if l.owes die then
    if l.kernel.gang then shareRoom s die l
    else
      let n := (clusterBlocks l (l.nextCluster die)).length
      (List.range 24).any (fun h => decide (n ≤ ((List.range 8).filter (fun r => coreRoom s die (8 * h + r) l.ctx l.kernel)).length))
  else match (heldBlocks s die lid).head?.bind (FMap.get? s.children) with
    | some c => (List.range 192).any (fun k => coreRoom s die k c.ctx c.kernel)
    | none => true

/-- The context that gives way to a launch on a die (R321): all its blocks there of lower priority; of these the one whose highest ranks lowest, ties
to the higher number. -/
def victimCtx (s : State) (die : Nat) (l : Launch) : Option Nat :=
  let cs := (List.range 64).filter (fun c => c != l.ctx && (match s.ctx? die c with
    | some x => x.sw == .run && x.backoff == 0 && x.switch.isNone
    | none => false) && anyIn s.blocks (fun _ b => b.die == die && b.ctx == c && !b.handler) && decide (ctxPrio s die c < l.prio))
  cs.foldl (fun acc c => match acc with
    | none => some c
    | some d => if ctxPrio s die c ≤ ctxPrio s die d then some c else acc) none

/-- DISTRIBUTOR_PREEMPT_REQUEST (R321): the head launch has waited 8,192 cycles for room; it waits anew from the request on (log entry 22). -/
def distributorRequest (s : State) (die : Nat) : Option State :=
  match headLaunch s die with
  | none => none
  | some (lid, l) =>
    if (s.die die).cycle < (s.die die).headSince + 8192 ∨ headRoom s die lid l then none
    else (victimCtx s die l).map (fun c => placedOn (requestPreempt s die c) die)

/-! ## The events -/

/-- ENGINE_PREEMPT_STOP (R379). -/
def execEnginePreemptStop (s : State) : Out :=
  match s.model.ev with
  | some (.enginePreemptStop die ctx u) => happens s (preemptStop s die ctx u)
  | _ => .next s.pass

/-- SAVE_ENGINE_SAVE (R376). -/
def execSaveEngineSave (s : State) : Out :=
  match s.model.ev with
  | some (.saveEngineSave die ctx) => happens s (engineSave s die ctx)
  | _ => .next s.pass

/-- SAVE_ENGINE_RESTORE (R392). -/
def execSaveEngineRestore (s : State) : Out :=
  match s.model.ev with
  | some (.saveEngineRestore die ctx cores) => happens s (engineRestore s die ctx cores)
  | _ => .next s.pass

/-- DISTRIBUTOR_PREEMPT_REQUEST (R321). -/
def execDistributorPreemptRequest (s : State) : Out :=
  match s.model.ev with
  | some (.distributorPreemptRequest die) => happens s (distributorRequest s die)
  | _ => .next s.pass

/-- PREEMPT_BACKOFF_EXPIRY (R380). -/
def execPreemptBackoffExpiry (s : State) : Out :=
  match s.model.ev with
  | some (.preemptBackoffExpiry die ctx) =>
    let x := s.ctx die ctx
    if x.backoff = 0 ∨ (s.die die).cycle < x.backoff then .next s.pass
    else .next (s.updCtx die ctx (fun x => { x with backoff := 0 }))
  | _ => .next s.pass

end Sys2Proof.Machine
end

