-- ==== Sys2Proof/Machine/MemEvents.lean ====
section
/-! DEFINITION. Events of the memory system: accesses at their places (R246, R247, R349), ownership (R260, R261), ASGEN and TLBI in force
(R150, R329), bridges and links (R335-R344). -/

namespace Sys2Proof.Machine

/-! ## Accesses at their places -/

/-- Whether an access goes to the berth window. -/
def toBerth (s : State) (a : Access) : Bool := match regionOf s.fit a.pa with | .berth _ _ => true | _ => false

/-- Whether an access is an atomic. -/
def Access.isAtomic (a : Access) : Bool := match a.kind with | .atomic _ _ _ _ _ _ _ => true | _ => false

/-- The access at a place of the flight when its turn has come: its group's earlier accesses have been performed (R157). -/
def accessAt (s : State) (k : Nat) : Option Access :=
  (s.flight[k]?).bind (fun a => if firstOfGroup s k a then some a else none)

/-- A group that waits in place at its AWAIT with nothing outstanding any more is saved (R140, R229, R380). -/
def awaitAgain (s : State) (gid : Nat) : State :=
  match FMap.get? s.groups gid with
  | some g =>
    if g.wait == .awaitPlace && g.loc == .resident && g.pend.isEmpty && g.rejects.isEmpty && !inFlight s gid && !unitHeld s g.die g.ctx (.slot gid) then parkAwait s gid
    else s
  | none => s

/-- An access is performed; its group may have waited for it alone. -/
def perform (s : State) (a : Access) : State := awaitAgain (finishAccess s a) a.gid

/-- HOME_SLICE_ACCESS (R246): a plain access that goes to no berth. -/
def homeSlice (s : State) (k : Nat) : Option State :=
  (accessAt s k).bind (fun a => if a.isAtomic || toBerth s a then none else some (perform s a))

/-- BERTH_ACCESS (R349): a plain access to a berth. -/
def berthServe (s : State) (k : Nat) : Option State :=
  (accessAt s k).bind (fun a => if a.isAtomic || !toBerth s a then none else some (perform s a))

/-- From now on the far side of the fabric window answers a die's requests for a line with an error, or serves them again (R362, R366): what the access
rights there allow is known to the far side alone. -/
def farGate (s : State) (die pa : Nat) (shut : Bool) : Option State :=
  match regionOf s.fit pa with
  | .fabric _ =>
    let key := (die, poisonKey s die pa)
    some { s with mem := { s.mem with refused := s.mem.refused.filter (· != key) ++ (if shut then [key] else []) } }
  | _ => none

/-- A refused write-back reaches the context whose dirty bytes it carried (R362, R366, R424): PROTECT or WORLD at the context rung. -/
def backError (s : State) (k : Nat) : Option State :=
  match s.pkg.backErrs[k]? with
  | none => none
  | some e =>
    let x := s.ctx e.die e.ctx
    let s := { s with pkg := { s.pkg with backErrs := s.pkg.backErrs.take k ++ s.pkg.backErrs.drop (k + 1) } }
    let r : FaultRec := {
      cause := if e.world then cWorld else cProtect, kind := 3, addr := e.va, asid := BitVec.ofNat 16 x.asid, gen := s.gen x.asid }
    some (raiseTrap s { die := e.die, ctx := e.ctx, rung := 2, party := .notice, fault := r } none).2

/-- Whether an access is a publish that must reconcile first (R258); a deterministic child's is held (R274). -/
def Access.publishes (a : Access) : Bool :=
  match a.kind with
  | .atomic _ _ _ _ _ pub _ => pub && a.child.isEmpty
  | _ => false

/-- HOME_SLICE_ATOMIC (R247, R258, R260): where one of the lanes that meet at the location publishes, the producer half is made first, and they are
performed when its notices are acknowledged. -/
def sliceAtomic (s : State) (k : Nat) : Option State :=
  (accessAt s k).bind (fun a =>
    let as := batchOf s a
    if !a.isAtomic then none
    else if as.any (fun b => b.publishes && !b.published) then
      let s := producerHalf s a.die a.ctx (a.mp == .sys)
      let s := { s with flight := s.flight.map (fun b => if as.contains b then { b with published := true } else b) }
      some (if noticesOut s a.die a.ctx then s else perform s { a with published := true })
    else if as.any Access.publishes && noticesOut s a.die a.ctx then none
    else some (perform s a))

/-! ## Ownership -/

/-- Whether an earlier notice of another owner of the same object still travels: the object's home takes owners one after another (R261; log
entry 79). -/
def noticeWaits (s : State) (k : Nat) (n : Notice) : Bool :=
  (s.pkg.notices.take k).any (fun m => m.ctx == n.ctx && m.obj == n.obj && m.owner != n.owner)

/-- OWNERSHIP_NOTICE (R260, R261): a die records the new owner, the dirty lines of every other owner recalled first. -/
def takeNotice (s : State) (k : Nat) : Option State :=
  match s.pkg.notices[k]? with
  | none => none
  | some n =>
    let key := objKey n.ctx n.obj
    if noticeWaits s k n then none
    else
    let s := { s with pkg := { s.pkg with notices := s.pkg.notices.take k ++ s.pkg.notices.drop (k + 1) } }
    match FMap.get? (s.die n.dst).dm.objs key with
    | none => some s
    | some e =>
      let s := if e.pull || (e.owner.isSome && e.owner != some n.owner) then recallObj s n.dst key e (some n.owner) else s
      some (s.updDm n.dst (fun m => { m with objs := updIn m.objs key (fun o => { o with owner := some n.owner, pull := false }) }))

/-- OWNERSHIP_CLAIM (R261): an L2 of a die needs a line of an object that another die owns. -/
def claimNow (s : State) (die ctx obj : Nat) : Option State :=
  let key := objKey (objCtx s die ctx) obj
  match FMap.get? (s.die die).dm.objs key with
  | none => none
  | some e => if (e.owner.isSome && e.owner != some die) || e.pull then some (claimObj s die key e) else none

/-! ## Address spaces (R150, R329) -/

/-- Every core of some dies. -/
def coresWhere (s : State) (dies : List Nat) (f : Core → Core) : State :=
  { s with cores := FMap.mapV s.cores (fun k (c : Core) => if dies.contains (k / 256) then f c else c) }

/-- A group that has passed an instruction goes on, or waits for its results under the instruction's switch marker (R225). -/
def goPast (s : State) (gid : Nat) (smark : Bool) : State :=
  let s := s.updGroup gid (fun g => { g with wait := if smark then .smark else .run, readySince := (s.die g.die).cycle })
  settle s gid

/-- A child's held writes follow their virtual addresses to new frames, so that its own reads go on finding them (R272, R330); their generation stays
that of the write, and the merge asks the page tables again. -/
def Child.remap (c : Child) (s : State) : Child :=
  { c with held := c.held.map (fun (o : HeldOp) => match walk s c.die o.va.toNat 4 (s.ctx c.die c.ctx).root with
    | .ok (b, f, _) => { o with pa := f + o.va.toNat % 2 ^ b }
    | .error _ => o) }

/-- What the caches of instructions and translations hold under older generations of an address space never answers again (R218, R328, R331). -/
def purgeOld (s : State) (dies : List Nat) (asid : Nat) : State :=
  let s := coresWhere s dies (fun c => { l1Self c asid with
    icache := c.icache.filter (fun e => e.2.1 != asid), tlb := c.tlb.filter (fun e => e.asid != asid) })
  let s := foldNames s dies (fun s d => s.updDm d (fun m => { m with tlb := m.tlb.filter (fun e => e.asid != asid) }))
  { s with groups := FMap.mapV s.groups (fun _ (g : Group) =>
      if dies.contains g.die && (s.ctx g.die g.ctx).asid == asid then g.updLanes 0xFFFFFFFF#32 (fun _ x => { x with buf := [] }) else g) }

/-- The new generation of an address space comes into force (R329): dirty lines home, L1 self-invalidated, the generation, objects marked
for recall (R259). -/
def newGen (s : State) (die asid : Nat) : State :=
  let dies := vfDies s die
  let s := foldNames s dies (fun s d => writeBackWhere s d (fun x => x.users.any (fun u => u.asid == asid)))
  let s := purgeOld s dies asid
  let s := { s with pkg := { s.pkg with gens := FMap.put s.pkg.gens asid (s.gen asid + 1) } }
  let s := foldNames s dies (fun s d =>
    let mine := fun (c : Nat) => match s.ctx? (c / 64) (c % 64) with | some x => x.asid == asid | none => false
    s.updDm d (fun m => { m with objs := FMap.mapV m.objs (fun _ (o : ObjEnt) => if mine o.ctx then { o with gen := s.gen asid, pull := true } else o) }))
  { s with children := FMap.mapV s.children (fun _ (c : Child) =>
      if dies.contains c.die && (s.ctx c.die c.ctx).asid == asid then c.remap s else c) }

/-- ASGEN_IN_FORCE (R149, R329, R331): a bump from 0xFFFF waits until no access of the address space is in flight. The generation comes back as an
outstanding result (R149, R224). -/
def asgenDone (s : State) (gid : Nat) : Option State :=
  match FMap.get? s.groups gid with
  | none => none
  | some g => match g.wait with
    | .asgen asid res sm =>
      if s.gen asid = 0xFFFF#16 ∧ s.flight.any (fun a => a.asid == asid) = true then none
      else
        let s := newGen s g.die asid
        let now := reg ((s.gen asid).setWidth 32)
        some (goPast (s.updGroup gid (fun g => { g with pend := g.pend.map (fun (p : Pend) => if p.id = res then { p with st := .ready [now] } else p) })) gid sm)
    | _ => none

/-- TLBI_COMPLETE (R150): entries of the address space, of the page, or all, dropped from every TLB of the virtual function's dies. -/
def tlbiDone (s : State) (gid : Nat) : Option State :=
  match FMap.get? s.groups gid with
  | none => none
  | some g => match g.wait with
    | .tlbi fn asid va sm =>
      let keep := fun (e : TlbEntry) =>
        !(fn == 3 || (e.asid == asid && (fn == 1 || va.toNat / 2 ^ e.bits == e.vpage)))
      let dies := vfDies s g.die
      let s := coresWhere s dies (fun c => { c with tlb := c.tlb.filter keep })
      let s := foldNames s dies (fun s d => s.updDm d (fun m => { m with tlb := m.tlb.filter keep }))
      some (goPast s gid sm)
    | _ => none

/-! ## Bridges and links -/

/-- Whether the FRESH bit of a line is set (R341). -/
def freshLine (s : State) (pa : Nat) : Bool := (pageMeta s pa).fresh.getLsbD (pa / 128 % 32)

/-- BRIDGE_ACCESS (R335, R341, R342): the home slice reads a line, or gives up a dirty one before it must; an error comes over a line or a page's
counters in DRAM, to be found when it is next fetched, or one is repaired; a row begins to fail, which error correction serves until it is repaired
(R435). A fresh line has nothing in DRAM to fail. -/
def bridgeServe (s : State) (pa : Nat) (op : BridgeOp) : Option State :=
  match regionOf s.fit pa with
  | .package die bridge _ =>
    match op with
    | .fill => some (homeTouch s pa (0, 128) false)
    | .writeBack => (ownFind (s.die die) (lineOf pa)).bind (fun x =>
        if x.dirty.isEmpty then none else some (updOwn (homeOut s die x) die (lineOf pa) (fun x => { x with dirty := [], bytes := [] })))
    | .sectorFail =>
      if freshLine s pa then none
      else some { s with mem := { s.mem with damaged := s.mem.damaged.filter (· != lineOf pa) ++ [lineOf pa] } }
    | .counterFail =>
      let page := pa / 4096
      let s := { s with mem := { s.mem with badPages := s.mem.badPages.filter (· != page) ++ [page] } }
      some (s.updDm die (fun m => if bridge = 0 then { m with ctr0 := m.ctr0.filter (· != page) } else { m with ctr1 := m.ctr1.filter (· != page) }))
    | .repair => some (s.putBr die ((s.br die).repair die))
    | .rowFail row => some (s.updMg die (fun m => { m with failingRows := m.failingRows.filter (· != (bridge, row)) ++ [(bridge, row)] }))
  | _ => none

/-- An error comes over a berth's line in its lender's frame (R342, R350), to be found when the station next reads it. A fresh line has nothing there to
fail. -/
def berthTag (s : State) (die pa : Nat) : Option State :=
  match regionOf s.fit pa with
  | .berth i _ =>
    let key := poisonKey s die pa
    if (FMap.getD (FMap.getD (s.die die).mg.moor i {}).pages (pa / 4096) {}).fresh.getLsbD (pa / 128 % 32) then none
    else some { s with mem := { s.mem with damaged := s.mem.damaged.filter (· != key) ++ [key] } }
  | _ => none

/-- Flits sent again on a bridge's link, as many as have failed (R344). -/
def resent (s : State) (die bridge : Nat) : Nat → State
  | 0 => s
  | n + 1 => resent (s.putBr die ((s.br die).flits bridge)) die bridge n

/-- LINK_FLIT_FAILURE (R344): up to three failures are resent; the fourth is met by the next request of its kind for the line, which completes with
poisoned data, or is dropped with the line marked (log entry 23). -/
def flitFailure (s : State) (pa : Nat) (wr : Bool) (count : Nat) : Option State :=
  match regionOf s.fit pa with
  | .package die bridge _ =>
    if count = 0 ∨ count > 4 then none
    else if count < 4 then some (resent s die bridge count)
    else
      let s := resent s die bridge 3
      some { s with mem := { s.mem with linkFails := s.mem.linkFails ++ [(lineOf pa, wr)] } }
  | _ => none

/-- A flit of a station lost (R344, R366): in the same manner. -/
def stationFlit (s : State) (die pa : Nat) (wr : Bool) (count : Nat) : Option State :=
  let station := match regionOf s.fit pa with
    | .berth _ _ => true
    | .fabric off => match fwinMatch (s.die die) off with | some (_, e) => bits e.lo.toNat 63 62 == 2 | none => false
    | _ => false
  if !station ∨ count = 0 ∨ count > 4 then none
  else if count < 4 then some s
  else some { s with mem := { s.mem with linkFails := s.mem.linkFails ++ [(poisonKey s die pa, wr)] } }

/-! ## The events -/

/-- HOME_SLICE_ACCESS (R246). -/
def execHomeSliceAccess (s : State) : Out :=
  match s.model.ev with
  | some (.homeSliceAccess k) => happens s (homeSlice s k)
  | some (.farRefusal die pa shut) => happens s (farGate s die pa shut)
  | some (.writeBackRefused k) => happens s (backError s k)
  | _ => .next s.pass

/-- HOME_SLICE_ATOMIC (R247). -/
def execHomeSliceAtomic (s : State) : Out :=
  match s.model.ev with
  | some (.homeSliceAtomic k) => happens s (sliceAtomic s k)
  | _ => .next s.pass

/-- BERTH_ACCESS (R349). -/
def execBerthAccess (s : State) : Out :=
  match s.model.ev with
  | some (.berthAccess k) => happens s (berthServe s k)
  | _ => .next s.pass

/-- OWNERSHIP_NOTICE (R260). -/
def execOwnershipNotice (s : State) : Out :=
  match s.model.ev with
  | some (.ownershipNotice k) => happens s (takeNotice s k)
  | _ => .next s.pass

/-- OWNERSHIP_CLAIM (R261). -/
def execOwnershipClaim (s : State) : Out :=
  match s.model.ev with
  | some (.ownershipClaim die ctx obj) => happens s (claimNow s die ctx obj)
  | _ => .next s.pass

/-- ASGEN_IN_FORCE (R329). -/
def execAsgenInForce (s : State) : Out :=
  match s.model.ev with
  | some (.asgenInForce gid) => happens s (asgenDone s gid)
  | _ => .next s.pass

/-- TLBI_COMPLETE (R150). -/
def execTlbiComplete (s : State) : Out :=
  match s.model.ev with
  | some (.tlbiComplete gid) => happens s (tlbiDone s gid)
  | _ => .next s.pass

/-- BRIDGE_ACCESS (R335). -/
def execBridgeAccess (s : State) : Out :=
  match s.model.ev with
  | some (.bridgeAccess pa op) => happens s (bridgeServe s pa op)
  | some (.berthTagFailure die pa) => happens s (berthTag s die pa)
  | _ => .next s.pass

/-- LINK_FLIT_FAILURE (R344). -/
def execLinkFlitFailure (s : State) : Out :=
  match s.model.ev with
  | some (.linkFlitFailure pa wr count) => happens s (flitFailure s pa wr count)
  | some (.stationFlitFailure die pa wr count) => happens s (stationFlit s die pa wr count)
  | _ => .next s.pass

end Sys2Proof.Machine
end

