-- ==== Sys2Proof/Machine/GroupEvents.lean ====
section
/-! DEFINITION. Events of groups: write-backs (R224-R227), rejected stores (R154), unassigned words and fetch faults (R49, R222), ends (R134, R135),
the active set (R233), LDY back-off (R163) and the load limits (R234). -/

namespace Sys2Proof.Machine

/-! ## Results -/

/-- An outstanding result is written (R224, R226): results issued earlier lose the registers it writes. The lanes of a repeated access, which waited for
it, are ready (R154). -/
def writeResult (s : State) (gid : Nat) (g : Group) (k : Nat) (p : Pend) (vals : List Reg) : State :=
  let ws := (p.dsts.zip vals).filterMap (fun e => e.1.map (fun d => (d, e.2)))
  let g := (g.setAll ws).dropRedo (ws.map (·.1))
  let s := s.putGroup gid { g with pend := (g.pend.take k).map (fun q => q.drop (ws.map (·.1))) ++ g.pend.drop (k + 1) }
  awaitAgain (lineRest (settle (if p.wake then wakeParked s gid p.parks else s) gid) gid) gid

/-- An outstanding result is found to have faulted: its lane parks at the wait that covers it (R227); for a repeated access it is parked still, and one
more trap concerns it (R154). -/
def failResult (s : State) (gid : Nat) (g : Group) (k : Nat) (p : Pend) (r : FaultRec) : State :=
  if p.wake then
    let s := s.putGroup gid { g with pend := g.pend.take k ++ g.pend.drop (k + 1) }
    awaitAgain (lineRest (settle (parkLanes s gid p.parks r (p.acc.map (fun a => { a with dsts := p.dsts }))) gid) gid) gid
  else lineRest (settle (s.putGroup gid { g with pend := g.pend.set k { p with st := .failed r } }) gid) gid

/-- VAR_RESULT_WRITEBACK (R224): the k-th outstanding result of a group is written, or has faulted. -/
def resultBack (s : State) (gid k : Nat) : Option State :=
  (FMap.get? s.groups gid).bind (fun g => (g.pend[k]?).bind (fun p =>
    match p.st with
    | .ready vals => some (writeResult s gid g k p vals)
    | .bad r => some (failResult s gid g k p r)
    | _ => none))

/-- STORE_REJECTION (R154): the k-th rejected store's lanes park where they are. A group that waits in place at its AWAIT is saved after it (R229). -/
def storeBack (s : State) (gid k : Nat) : Option State :=
  (FMap.get? s.groups gid).bind (fun g => (g.rejects[k]?).map (fun (r : FaultRec × Word) =>
    awaitAgain (parkLanes (s.putGroup gid { g with rejects := g.rejects.take k ++ g.rejects.drop (k + 1) }) gid r.2 r.1 none) gid))

/-! ## Words that cannot issue -/

/-- UNASSIGNED_WORD (R49): UNDEF at the group rung. -/
def execUnassignedWord (s : State) : Out :=
  match s.model.cur with
  | some _ => withIssue s (fun c _ => .next (groupFault s c cUndef 0))
  | none => .next s.pass

/-- The cause of a fetch fault (R222). -/
def fetchCause : FetchCause → Byte
  | .page => cPage
  | .genStale => cGen
  | .berthRevoked => cBerth

/-- FETCH_FAULT (R222): every lane that fetched the word parks at its address with one record; helper lanes go idle (R214). Of a handler group that
has issued nothing it means that the group is not placed (R405). -/
def fetchFault (s : State) (c : Issue) (g : Group) (x : FetchCause) (va : DWord) : State :=
  let helpers := c.lanes &&& ~~~g.nonHelpers
  let s := s.putGroup c.gid (g.updLanes helpers (fun _ x => { x with st := .idle }))
  match g.kind with
  | .handler tid _ none => handlerUnplaced (endIssue s c.gid) c.gid tid va
  | _ => endIssue (parkLanes s c.gid (c.lanes &&& g.nonHelpers)
      (stamp s g { cause := fetchCause x, kind := 0, flags := BitVec.ofNat 8 (4 + 8 * bitOf (x == .page)), pc := c.pc, addr := va }) none) c.gid

/-- A fetch that the page tables or another world forbid, or past the canonical range, faults the group (R222, R424); a handler group's first one as
any fault of that fetch (R405). -/
def fetchStop (s : State) (f : FetchRes) : State :=
  match s.model.cur with
  | none => s
  | some c =>
    match (FMap.get? s.groups c.gid).map Group.kind with
    | some (.handler tid _ none) => handlerUnplaced (endIssue s c.gid) c.gid tid c.pc
    | _ => match f with
      | .denied va tr => groupFaultBy s c { cause := cProtect, flags := BitVec.ofNat 8 (4 + 8 * bitOf tr), addr := va }
      | .world va tr => groupFaultBy s c { cause := cWorld, flags := BitVec.ofNat 8 (4 + 8 * bitOf tr), addr := va }
      | .range va => groupFaultBy s c { cause := cAddr, flags := 4, addr := va }
      | _ => groupFault s c cAddr c.pc

/-! ## Ends -/

/-- Whether nothing keeps a group from ending (R378, R407). -/
def mayEnd (g : Group) : Bool :=
  g.loc == .resident && g.wait == .run && !g.holds.line && !g.holds.switch && g.holds.trap.isNone

/-- END_EVENT (R134): the end event of a lane that stopped while a frame or an operation was open, or before its group's accesses were performed (R258);
what else its group waits for is nothing to it. -/
def laneEnd (s : State) (gid l : Nat) : Option State :=
  (FMap.get? s.groups gid).bind (fun g =>
    if l < 32 ∧ (g.lane l).st = .stopped ∧ g.frames.isEmpty = true ∧ opsOpen s g = false ∧ inFlight s gid = false ∧ g.loc = .resident ∧ g.holds.switch = false then
      some (tryEnd (endLanesNow s gid (1#32 <<< l)) gid)
    else none)

/-- GROUP_END (R135, R440): open frames are awaited, innermost first; then, with no operation outstanding, the group ends. So does a handler group that is
done (R402). -/
def groupEnd (s : State) (gid : Nat) : Option State :=
  (FMap.get? s.groups gid).bind (fun g =>
    if g.handling.map (·.1) = some 0 ∧ opsOpen s g = false ∧ inFlight s gid = false then some (endHandler s gid)
    else if !g.over || !mayEnd g || inFlight s gid then none
    else match g.frames with
      | [] => if opsOpen s g then none else some (tryEnd s gid)
      | fid :: _ =>
        if (FMap.getD s.frames fid {}).count = 0 then
          match closeFrame s gid g fid with
          | .done s => some s
          | .refused cause va s => some (stopGroup s gid 0 0 { cause := cause, kind := 1, addr := va })
          | .held s => some s
        else
          let s := s.updFrame fid (fun f => { f with cont := 0, awaiting := true })
          some (parkAwait (s.putGroup gid { g with mask := 0 }) gid))

/-! ## The quarters -/

/-- PENDING_AGING_EXCHANGE (R233). -/
def agingSwap (s : State) (gid : Nat) : Option State :=
  (FMap.get? s.groups gid).bind (fun g =>
    let now := (s.die g.die).cycle
    let act := (quarterGroups s g.die g.core g.quarter).filter (fun e => e.2.active)
    match act.find? (fun e => act.all (fun f => decide (e.2.entered ≤ f.2.entered))) with
    | none => none
    | some (k, _) =>
      if g.active || !g.couldIssue || decide (now < g.readySince + 1024) || decide (now < (s.core g.die g.core).swap.getD g.quarter 0 + 64) then none
      else
        let s := (s.updGroup k (fun x => { x with active := false, readySince := now })).updGroup gid (fun x => { x with active := true, entered := now })
        some (s.updCore g.die g.core (fun c => { c with swap := c.swap.set g.quarter now })))

/-- LDY_BACKOFF_EXPIRY (R163). -/
def ldyExpiry (s : State) (gid : Nat) : Option State :=
  (FMap.get? s.groups gid).bind (fun g => match g.wait with
    | .ldy t sm => if (s.die g.die).cycle < t then none else some (goPast s gid sm)
    | _ => none)

/-- A load limit after a window (R234). -/
def nextLimit (c : Core) (l : Nat) : Nat :=
  if 8 * c.lostHits > c.misses then max 1 (l - 1)
  else if c.misses = 0 ∨ 32 * c.lostHits < c.misses then min 8 (l + 1)
  else l

/-- LOAD_LIMIT_WINDOW (R234). -/
def limitWindow (s : State) (die core : Nat) : Option State :=
  let c := s.core die core
  let now := (s.die die).cycle
  if core ≥ 192 ∨ die ≥ s.fit.dies ∨ now < c.window + 1024 then none
  else some (s.putCore die core { c with lambda := c.lambda.map (nextLimit c), lostHits := 0, misses := 0, window := now })

/-! ## The events -/

/-- VAR_RESULT_WRITEBACK (R224). -/
def execVarResultWriteback (s : State) : Out :=
  match s.model.ev with
  | some (.varResultWriteback gid k) => happens s (resultBack s gid k)
  | _ => .next s.pass

/-- STORE_REJECTION (R154). -/
def execStoreRejection (s : State) : Out :=
  match s.model.ev with
  | some (.storeRejection gid k) => happens s (storeBack s gid k)
  | _ => .next s.pass

/-- FETCH_FAULT (R222). -/
def execFetchFault (s : State) : Out :=
  match s.model.ev with
  | some (.fetchFault x va) =>
    match s.model.cur with
    | some _ => withIssue s (fun c g => .next (fetchFault s c g x va))
    | none => .next s.pass
  | _ => .next s.pass

/-- END_EVENT (R134). -/
def execEndEvent (s : State) : Out :=
  match s.model.ev with
  | some (.endEvent gid l) => happens s (laneEnd s gid l)
  | _ => .next s.pass

/-- GROUP_END (R135). -/
def execGroupEnd (s : State) : Out :=
  match s.model.ev with
  | some (.groupEnd gid) => happens s (groupEnd s gid)
  | _ => .next s.pass

/-- PENDING_AGING_EXCHANGE (R233). -/
def execPendingAgingExchange (s : State) : Out :=
  match s.model.ev with
  | some (.pendingAgingExchange gid) => happens s (agingSwap s gid)
  | _ => .next s.pass

/-- LDY_BACKOFF_EXPIRY (R163). -/
def execLdyBackoffExpiry (s : State) : Out :=
  match s.model.ev with
  | some (.ldyBackoffExpiry gid) => happens s (ldyExpiry s gid)
  | _ => .next s.pass

/-- LOAD_LIMIT_WINDOW (R234). -/
def execLoadLimitWindow (s : State) : Out :=
  match s.model.ev with
  | some (.loadLimitWindow die core) => happens s (limitWindow s die core)
  | _ => .next s.pass

end Sys2Proof.Machine
end

