-- ==== Sys2Proof/Machine/Mgmt.lean ====
section
/-! DEFINITION. The management block: who may write it (R418), its registers (R419-R421), binding and destroying contexts (R310, R410), the
pre-emption register (R376), the world latch (R423), the debug windows (R414-R416), and the toll records (R430). -/

namespace Sys2Proof.Machine

/-! ## The space of the blocks (R14) -/

/-- The die and the offset in its block of an offset of the package's management space: a block takes 0x0100_0000 bytes. -/
def mgmtAt (off : Nat) : Nat × Nat := (off / 0x1000000, off % 0x1000000)

/-! ## Who may write (R418, R421) -/

/-- Whether a host requester is the one that HYPID names (R418). -/
def isHyp (m : DieMgmt) (r : Req) : Bool :=
  match r with
  | .host pbr port => m.hypPbr != 0xFFF && pbr == m.hypPbr && (pbr != 0 || port == m.hypPort)
  | _ => false

/-- Whether a requester may write management registers at all (R418): the host requester of HYPID, Helm, Deck. -/
def mayWrite (m : DieMgmt) (r : Req) : Bool :=
  isHyp m r || (match r with | .host _ _ => false | _ => true)

/-- A write refused (R421): an error response, logged, nothing changed. -/
def refuseWrite (s : State) (die off : Nat) : State :=
  let s := s.logged (.refusedWrite die off)
  { s with pkg := { s.pkg with replyOk := false } }

/-- A write of a management register: refused, or done. A die that the fitting lacks and a retired one drop it (R355). -/
def mgmtGuard (s : State) (die off : Nat) (ok : Bool) (done : State) : State :=
  if s.fit.dies ≤ die ∨ (s.die die).mg.retired then s
  else if ok then { done with pkg := { done.pkg with replyOk := true } }
  else refuseWrite s die off

/-- The configuration states by number (R420): those in which the tables of a die may be written (R421), and those in which its block
answers writes (R422). -/
def tablesOpen (s : State) : Bool := s.pkg.hstate == 2 || s.pkg.hstate == 3 || s.pkg.hstate == 4
def blockAnswers (s : State) (off : Nat) : Bool := s.pkg.hstate != 7 || off == 0

/-! ## The registers (R419, R420) -/

/-- COUNT (R426): blown steps from step 0 up to the first that is not. -/
def fuseCount : List (Bool × Bool) → Nat
  | [] => 0
  | (a, b) :: fs => if a || b then fuseCount fs + 1 else 0

/-- DSTATUS (R420). -/
def dstatus (m : DieMgmt) : Nat :=
  m.temp.toNat * 256 + m.spares * 16 + bitOf (decide (m.throttle ≠ 0)) * 8 + bitOf m.fenced * 4 + bitOf m.retired * 2 + bitOf m.replace

/-- The debug window of a context at an offset of it, as a host reads it (R414). -/
def dbgRead (w : DbgWin) (reg : Nat) : DWord :=
  match reg with
  | 0x00 => BitVec.ofNat 64 (2 * bitOf w.prc + bitOf w.en)
  | 0x08 => w.sel
  | 0x10 => w.data
  | 0x18 => BitVec.ofNat 64 (256 * w.status.toNat)
  | _ => 0

/-- A register's value (R348, R359, R414, R419, R420, R439); an offset that is not listed reads zero. -/
def mgmtValue (s : State) (die off : Nat) : DWord :=
  let m := (s.die die).mg
  if 0x80000 ≤ off ∧ off < 0x81000 then
    let e := FMap.getD m.moor ((off - 0x80000) / 16) {}
    if off % 16 = 0 then (e.lo &&& ~~~0xC000000000000000#64) ||| (BitVec.ofNat 64 (berthState s die ((off - 0x80000) / 16)) <<< 62)
    else if off % 16 = 8 then e.hi else 0
  else if 0x90000 ≤ off ∧ off < 0x90400 then
    let e := FMap.getD m.fwin ((off - 0x90000) / 16) {}
    if off % 16 = 0 then e.lo else if off % 16 = 8 then e.hi else 0
  else if 0xA0000 ≤ off ∧ off < 0xA1000 then
    if m.hosten then dbgRead (dbgWin s die ((off - 0xA0000) / 64)) (off % 64) else 0
  else if 0xB0000 ≤ off ∧ off < 0xB8000 ∧ off % 8 = 0 then
    let e := FMap.getD s.pkg.asidmap ((off - 0xB0000) / 8) {}
    BitVec.ofNat 64 (256 * bitOf e.assigned + e.vf)
  else match off with
    | 0x0 => BitVec.ofNat 64 (dstatus m)
    | 0x8 => BitVec.ofNat 64 m.pcap
    | 0x18 => BitVec.ofNat 64 (64 * m.resResult + m.resCtx)
    | 0xF00000 => BitVec.ofNat 64 s.pkg.hstate
    | 0xF00008 => BitVec.ofNat 64 (4096 * m.hypPort + m.hypPbr)
    | 0xF00018 => BitVec.ofNat 64 (256 * m.vf + m.world)
    | 0xF00020 => BitVec.ofNat 64 (bitOf m.hosten)
    | 0xF00028 => BitVec.ofNat 64 (4 * m.stnen.toNat + m.cxlw.toNat)
    | 0xF00030 => BitVec.ofNat 64 m.plimit
    | 0xF00038 => BitVec.ofNat 64 (fuseCount s.pkg.fuses)
    | _ => 0

/-- An offset in a debug window (R414), and one in a table of Helm's that Deck does not see (R417, R419). -/
def inDebug (off : Nat) : Bool := decide (0xA0000 ≤ off) && decide (off < 0xA1000)
def deckBlind (off : Nat) : Bool := decide (0x80000 ≤ off) && decide (off < 0x90400)

/-- A read of the management block (R355, R414, R417, R422): all ones from a die that is lacking or retired; in BOOTFAIL only HSTATE and
DSTATUS answer; the debug windows answer hosts alone, and Deck sees of Helm's registers those that R419 marks. -/
def mgmtRead (s : State) (die off : Nat) (r : Req) : Option DWord :=
  if s.fit.dies ≤ die ∨ (s.die die).mg.retired then some (BitVec.allOnes 64)
  else if s.pkg.hstate = 7 ∧ off ≠ 0 ∧ off ≠ 0xF00000 then none
  else match r with
    | .host _ _ => some (mgmtValue s die off)
    | .helm => some (if inDebug off then 0 else mgmtValue s die off)
    | .deck => some (if inDebug off || deckBlind off then 0 else mgmtValue s die off)

/-! ## Debug windows (R414-R416) -/

/-- STATUS of a debug window. -/
def dbgStatus (s : State) (die ctx : Nat) (st : Byte) : State :=
  updDbg s die ctx (fun w => { w with status := st })

/-- HALT (R414, R415): every group of the context on the die is debug-stopped. -/
def haltAll (s : State) (die ctx : Nat) : State :=
  { s with groups := FMap.mapV s.groups (fun _ (g : Group) =>
      if g.die = die ∧ g.ctx = ctx then { g with dbg := DbgSt.stopped } else g) }

/-- A write of DBGCTL, DBGSEL or DBGDATA (R414); the window's other offsets drop it. -/
def dbgSet (s : State) (die ctx reg : Nat) (v : DWord) : State :=
  let set := updDbg s die ctx
  match reg with
  | 0x00 =>
    let s := set (fun w => { w with prc := v.getLsbD 1, en := v.getLsbD 0 })
    if v.getLsbD 2 then haltAll s die ctx else s
  | 0x08 => set (fun w => { w with sel := v &&& 0x1FFFFFFF#64 })
  | 0x10 => set (fun w => { w with data := v })
  | _ => s

/-- A write to a register of a debug window: from a host while Helm has enabled host access, else DENIED (R414); refused and logged where the host is
not the one that HYPID names (R418). -/
def dbgGuard (s : State) (die ctx reg : Nat) (r : Req) (done : State) : State :=
  let off := 0xA0000 + 64 * ctx + reg
  match r with
  | .host _ _ =>
    let m := (s.die die).mg
    if !m.hosten then dbgStatus s die ctx 4 else mgmtGuard s die off (isHyp m r && blockAnswers s off) done
  | _ => dbgStatus s die ctx 4

/-- A write of DBGCTL, DBGSEL or DBGDATA (R414). -/
def dbgWrite (s : State) (die off : Nat) (v : DWord) (r : Req) : State :=
  let ctx := (off - 0xA0000) / 64
  dbgGuard s die ctx (off % 64) r (dbgSet s die ctx (off % 64) v)

/-- A read of a management register, or a write to one of fewer than eight bytes (R414, R419). A debug window that does not serve the access reads zero
and sets STATUS; what such a write does elsewhere the spec does not say, and its turn passes. -/
def mgmtAccess (s : State) (die off n : Nat) (wr : Bool) (r : Req) : Option State :=
  let give := fun (s : State) (v : Option DWord) => { s with pkg := { s.pkg with
    reply := if wr then [] else slice (leBytes 8 (v.getD 0).toNat) (off % 8) n, replyOk := v.isSome } }
  if n = 0 ∨ off % 8 + n > 8 ∨ (wr ∧ n = 8) then none
  else if inDebug off && decide (die < s.fit.dies) && !(s.die die).mg.retired && s.pkg.hstate != 7 then
    let ctx := (off - 0xA0000) / 64
    match r, (s.die die).mg.hosten with
    | .host _ _, true => if n = 8 then some (give s (mgmtRead s die off r)) else some (give (dbgStatus s die ctx 3) (some 0))
    | _, _ => some (give (dbgStatus s die ctx 4) (some 0))
  else if wr then none
  else some (give s (mgmtRead s die (off / 8 * 8) r))

/-- The group that DBGSEL selects: resident, of the context, at its core and place; a handler group when no other stands there. -/
def dbgTarget (s : State) (die ctx : Nat) : Option (Nat × Group) :=
  let n := (dbgWin s die ctx).sel.toNat
  let here := s.groups.filter (fun e => e.2.die == die && e.2.ctx == ctx && e.2.loc == .resident && e.2.core == bits n 7 0 &&
    e.2.gslot == bits n 13 8)
  match here.find? (fun e => e.2.handling.isNone) with
  | some e => some e
  | none => here.head?

/-- A debug command (R414, R416): BADSEL where no group stands, NOTSTOPPED where it runs; else what it does to the group, with its STATUS. -/
def dbgCommand (s : State) (die ctx : Nat) (k : State → Nat → Group → Byte × State) : State :=
  match dbgTarget s die ctx with
  | none => dbgStatus s die ctx 3
  | some (gid, g) =>
    if g.dbg != .stopped then dbgStatus s die ctx 1
    else let (st, s) := k s gid g; dbgStatus s die ctx st

/-- What DBGSEL's SPACE, LANE and REG name. -/
inductive DbgSel
  | reg (d : Dst)
  | pc (l : Nat)
  | bad
deriving DecidableEq, Repr

/-- The selection (R414): a register that the group's declaration does not have is none. -/
def dbgSel (n : Nat) (g : Group) : DbgSel :=
  let l := bits n 25 21
  let r := bits n 20 14
  match bits n 27 26 with
  | 0 => if r < g.nregs ∨ r = 127 then .reg (.v r l) else .bad
  | 1 => if r < g.ndeep then .reg (.deep r l) else .bad
  | 2 => if r < 64 then .reg (.s r) else .bad
  | _ => .pc l

/-- The current value of a register. -/
def Group.readDst (g : Group) (d : Dst) : Reg :=
  match d with
  | .v r l => g.readV r l
  | .deep r l => g.readDeep r l
  | .s r => g.readS r
  | .p n l => preg (g.pred n l)
  | .q n => preg (g.qpred n)

/-- READ (R416). -/
def dbgReadCmd (s : State) (die ctx : Nat) (g : Group) : Byte × State :=
  let data := fun (v : DWord) => updDbg s die ctx (fun w => { w with data := v })
  match dbgSel (dbgWin s die ctx).sel.toNat g with
  | .reg d => (if g.outstanding d then 2 else 0, data ((g.readDst d).val.setWidth 64))
  | .pc l => (0, data (g.lane l).pc)
  | .bad => (3, s)

/-- The registers that discard writes (R17, R21). -/
def Dst.sink : Dst → Bool
  | .v 127 _ => true
  | .s 63 => true
  | _ => false

/-- WRITE (R416): the tag is cleared, and what is outstanding for the register is discarded. -/
def dbgWriteCmd (s : State) (die ctx gid : Nat) (g : Group) : Byte × State :=
  let w := dbgWin s die ctx
  match dbgSel w.sel.toNat g with
  | .reg d =>
    if d.sink then (3, s)
    else if g.outstanding d && !w.sel.getLsbD 28 then (2, s)
    else (0, s.putGroup gid (g.write [(d, reg (loHalf w.data))]))
  | .pc l => if w.data.toNat % 4 ≠ 0 then (3, s) else (0, s.putGroup gid (g.updLane l (fun x => { x with pc := w.data })))
  | .bad => (3, s)

/-! ## Plain register writes -/

/-- Whether a write at an offset is one that another event of the opcode table gives. -/
def ownEvent (off v : Nat) : Bool :=
  off == 0x8 || off == 0x20 || off == 0xF00008 ||
  (off == 0x10 && (bits v 63 62 == 1 || bits v 63 62 == 2)) || (off == 0xF00000 && bit v 8) || (off == 0xF00010 && bit v 63) ||
  (decide (0x80000 ≤ off) && decide (off < 0x81000)) || (decide (0x90000 ≤ off) && decide (off < 0x90400)) ||
  (decide (0xB0000 ≤ off) && decide (off < 0xB8000)) || (decide (0xA0000 ≤ off) && decide (off < 0xA1000) && off % 64 == 0x18)

/-- The value that a register stores (R12, R13, R420): reserved and read-only fields keep what they hold, PLIMIT takes the nearer end of its
range (log entry 25). -/
def setMgmt (s : State) (die off : Nat) (v : DWord) : State :=
  let n := v.toNat
  match off with
  | 0x0 => s.updMg die (fun m => { m with replace := m.replace || bit n 0 })
  | 0xF00020 => s.updMg die (fun m => { m with hosten := bit n 0 })
  | 0xF00028 => s.updMg die (fun m => { m with stnen := BitVec.ofNat 4 (bits n 5 2), cxlw := BitVec.ofNat 2 n })
  | 0xF00030 => s.updMg die (fun m => { m with plimit := max 1000 (min 4500 (bits n 15 0)) })
  | _ => s

/-- Whether a write at an offset is accepted in the package's configuration state (R421, R422). -/
def stateOk (s : State) (off : Nat) : Bool :=
  if off = 0xF00028 ∨ off = 0xF00030 then s.pkg.hstate == 2
  else if off = 0x10 ∨ off = 0xF00010 then s.pkg.hstate == 4
  else blockAnswers s off

/-- MGMT_REG_WRITE (R418-R421). -/
def mgmtWrite (s : State) (die off : Nat) (v : DWord) (r : Req) : Option State :=
  if ownEvent off v.toNat then none
  else if s.fit.dies ≤ die then some s
  else if 0xA0000 ≤ off ∧ off < 0xA1000 then some (dbgWrite s die off v r)
  else some (mgmtGuard s die off (mayWrite (s.die die).mg r && stateOk s off) (setMgmt s die off v))

/-! ## Binding (R310, R420) -/

/-- The launch lines of a descriptor lie in a page whose entry sets C (R310; log entry 26). -/
def linesInC (s : State) (die ctx : Nat) (b : List Byte) : Bool × State :=
  match walkBy s die ctx {} (field b 8 8) 4 (bits (field b 0 8) 63 24 * 4096) with
  | (.ok (_, _, p), s) => (canonical (BitVec.ofNat 64 (field b 8 8)) && p.getLsbD 4, s)
  | (.error _, s) => (false, s)

/-- The dies that a descriptor names. -/
def descDies (b : List Byte) : List Nat := (List.range 16).filter (fun d => bit (field b 26 2) d)

/-- Whether a descriptor named through a die may be bound under a number (R310, R423, R434, R439). -/
def bindOk (s : State) (die ctx : Nat) (b : List Byte) : Bool :=
  let m := (s.die die).mg
  let e := FMap.getD s.pkg.asidmap (bits (field b 0 8) 23 12) {}
  field b 8 8 % 1024 == 0 && field b 16 8 % 64 == 0 && decide (field b 24 2 ≤ 1024) && decide (field b 29 1 ≤ 2) &&
  zeroAt b 30 34 && (descDies b).contains die && m.world != 0 && e.assigned && e.vf == m.vf &&
  (descDies b).all (fun d =>
    let x := (s.die d).mg
    decide (d < s.fit.dies) && x.world == m.world && x.vf == m.vf && !x.latchNeeded && !x.retired && !x.fenced && (s.ctx? d ctx).isNone)

/-- A context as binding creates it on a die (R310). -/
def boundCtx (vf : Nat) (b : List Byte) : Ctx :=
  { vf := vf, dies := descDies b, llines := BitVec.ofNat 64 (field b 8 8), ktab := BitVec.ofNat 64 (field b 16 8), nkern := field b 24 2,
    llen := BitVec.ofNat 8 (field b 28 1), ring := BitVec.ofNat 2 (field b 29 1), asctl := BitVec.ofNat 64 (field b 0 8) &&& ~~~0xFFE#64 }

/-- The masks of a die's fabric window forget a context number (R365). -/
def clearFwinBit (s : State) (die ctx : Nat) : State :=
  s.updMg die (fun m => { m with fwin := FMap.mapV m.fwin (fun _ (e : Fwin) => { e with mask := e.mask &&& ~~~(1#64 <<< ctx) }) })

/-- CTXRES (R420). -/
def setRes (s : State) (die res ctx : Nat) : State := s.updMg die (fun m => { m with resResult := res, resCtx := ctx })

/-- A bind done or refused (R310): the descriptor is read at its home, as every party reads there (R335, R336); one that cannot be read is refused (log
entry 26). -/
def bindCtx (s : State) (die : Nat) (v : DWord) : State :=
  let ctx := bits v.toNat 5 0
  let pa := bits v.toNat 51 6 * 64
  if (placeErr s die pa).isSome then setRes s die 3 ctx
  else
  let (lost, s) := homeRead s die pa 64
  let s := s.carry die pa 64 false
  let b := homeBytes s die pa 64
  let (inC, s) := linesInC s die ctx b
  if lost || poisonedLine s die pa || !inC || !bindOk s die ctx b then setRes s die 3 ctx
  else
    let s := foldNames s (descDies b) (fun s d => (clearFwinBit s d ctx).putCtx d ctx (boundCtx (s.die die).mg.vf b))
    setRes s die 2 ctx

/-- A destroy (R410, R420); with no such context it is refused (log entry 26). -/
def unbindCtx (s : State) (die : Nat) (v : DWord) : State :=
  let ctx := bits v.toNat 5 0
  if (s.ctx? die ctx).isSome then setRes (destroyCtx s die ctx) die 2 ctx else setRes s die 3 ctx

/-! ## Steps, HYPID, worlds, PCAP -/

/-- A step of the configuration state (R421). -/
def stepHstate (s : State) (die : Nat) (r : Req) : State :=
  mgmtGuard s die 0xF00000 (die == 0 && isHyp (s.die 0).mg r && (s.pkg.hstate == 2 || s.pkg.hstate == 3))
    { s with pkg := { s.pkg with hstate := s.pkg.hstate + 1 } }

/-- HYPID set on every die (R418). Helm's writes arrive at no port and leave PORT alone. -/
def setHypid (s : State) (v : DWord) (r : Req) : State :=
  foldNames s (List.range s.fit.dies) (fun s d => s.updMg d (fun m =>
    { m with hypPbr := bits v.toNat 11 0, hypPort := match r with | .host _ port => port | _ => m.hypPort }))

/-- A write to HYPID (R418, R421): the first one from any host, later ones by the rule; never Deck's. -/
def writeHypid (s : State) (die : Nat) (v : DWord) (r : Req) : State :=
  let m := (s.die die).mg
  let first := die == 0 && m.hypPbr == 0xFFF && (match r with | .host _ _ => true | _ => false)
  mgmtGuard s die 0xF00008 (s.pkg.hstate == 2 && (first || isHyp m r || r == .helm)) (setHypid s v r)

/-- A write of GO to WLATCH (R421, R423). -/
def writeWlatch (s : State) (die : Nat) (v : DWord) (r : Req) : Option State :=
  let vf := bits v.toNat 15 8
  let world := bits v.toNat 7 0
  if !v.getLsbD 63 then none
  else some (mgmtGuard s die 0xF00010
    (mayWrite (s.die die).mg r && s.pkg.hstate == 4 && decide (vf ≤ 11) && decide (world ≤ 254)) (latchDie s die vf world))

/-- A write to PCAP: the nearer end of 100-330 W (R420). -/
def writePcap (s : State) (die : Nat) (v : DWord) (r : Req) : State :=
  mgmtGuard s die 0x8 (mayWrite (s.die die).mg r && blockAnswers s 0x8)
    (s.updMg die (fun m => { m with pcap := max 100 (min 330 (bits v.toNat 11 0)) }))

/-- A write to CTXBIND with an OP that acts (R420, R421). -/
def writeCtxbind (s : State) (die : Nat) (v : DWord) (r : Req) (op : Nat) (f : State → Nat → DWord → State) : Option State :=
  if bits v.toNat 63 62 ≠ op then none
  else some (mgmtGuard s die 0x10 (mayWrite (s.die die).mg r && s.pkg.hstate == 4) (f s die v))

/-- A write to PREEMPT (R376, R421). -/
def writePreempt (s : State) (die ctx : Nat) (r : Req) : Option State :=
  if ctx ≥ 64 then none
  else some (mgmtGuard s die 0x20 (mayWrite (s.die die).mg r && s.pkg.hstate == 4) (requestPreempt s die ctx))

/-! ## Toll records (R430) -/

/-- The bytes of a record that are signed. -/
def Measure.bytes (m : Measure) : List Byte :=
  leBytes 8 m.bootid.toNat ++ leBytes 8 m.lseq.toNat ++ [b8 m.world] ++ leBytes 8 m.n ++ m.counters.flatMap (leBytes 8) ++ leBytes 48 m.h.toNat

/-- A record answered with the signature of the die's identity key over it and the nonce (R425). -/
def giveMeasure (s : State) (die : Nat) (m : Measure) (nonce : DWord) : State :=
  { s with pkg := { s.pkg with measured := some { m with sig := Config.spdmSign (Config.identityKey die) nonce m.bytes } } }

/-- Helm answers for a die that stands in the package, after boot. -/
def helmUp (s : State) (die : Nat) : Bool := decide (die < s.fit.dies) && !(s.die die).mg.retired && tablesOpen s

/-- GET_MEASUREMENTS of index 0xF0 (R430): a snapshot made for the request. -/
def measureNow (s : State) (die : Nat) (nonce : DWord) : Option State :=
  if !helmUp s die then none
  else
    let s := snapshot s die
    some (giveMeasure s die (measureOf s die (s.die die).mg.world) nonce)

/-- GET_MEASUREMENTS of index 0xF1 (R430): the record of the last latch; a snapshot is made all the same. -/
def measureFinal (s : State) (die : Nat) (nonce : DWord) : Option State :=
  if !helmUp s die then none
  else (s.die die).mg.final.map (fun m => giveMeasure (snapshot s die) die m nonce)

/-- The snapshot of every 2^30 cycles (R430). -/
def regularSnapshot (s : State) (die : Nat) : Option State :=
  let x := s.die die
  if !helmUp s die ∨ x.cycle < x.mg.lastSnap + 2 ^ 30 then none
  else some ((snapshot s die).updMg die (fun m => { m with lastSnap := m.lastSnap + 2 ^ 30 }))

/-! ## The events -/

/-- PREEMPT (R376). -/
def execPreempt (s : State) : Out :=
  match s.model.ev with
  | some (.preempt die ctx r) => happens s (writePreempt s die ctx r)
  | _ => .next s.pass

/-- DBGCTL_HALT (R414, R415). -/
def execDbgctlHalt (s : State) : Out :=
  match s.model.ev with
  | some (.dbgctlHalt die ctx r) => .next (dbgGuard s die ctx 0 r (haltAll s die ctx))
  | _ => .next s.pass

/-- DBGCMD_READ (R416). -/
def execDbgcmdRead (s : State) : Out :=
  match s.model.ev with
  | some (.dbgcmdRead die ctx r) => .next (dbgGuard s die ctx 0x18 r (dbgCommand s die ctx (fun s _ g => dbgReadCmd s die ctx g)))
  | _ => .next s.pass

/-- DBGCMD_WRITE (R416). -/
def execDbgcmdWrite (s : State) : Out :=
  match s.model.ev with
  | some (.dbgcmdWrite die ctx r) => .next (dbgGuard s die ctx 0x18 r (dbgCommand s die ctx (fun s gid g => dbgWriteCmd s die ctx gid g)))
  | _ => .next s.pass

/-- DBGCMD_RESUME (R415). -/
def execDbgcmdResume (s : State) : Out :=
  match s.model.ev with
  | some (.dbgcmdResume die ctx r) =>
    .next (dbgGuard s die ctx 0x18 r (dbgCommand s die ctx (fun s gid _ => (0, s.updGroup gid (fun g => { g with dbg := .run })))))
  | _ => .next s.pass

/-- DBGCMD_STEP (R415). -/
def execDbgcmdStep (s : State) : Out :=
  match s.model.ev with
  | some (.dbgcmdStep die ctx r) =>
    .next (dbgGuard s die ctx 0x18 r (dbgCommand s die ctx (fun s gid _ => (0, s.updGroup gid (fun g => { g with dbg := .step })))))
  | _ => .next s.pass

/-- DBGCMD_INVALID (R414). -/
def execDbgcmdInvalid (s : State) : Out :=
  match s.model.ev with
  | some (.dbgcmdInvalid die ctx cmd r) =>
    if 1 ≤ cmd % 8 ∧ cmd % 8 ≤ 4 then .next s.pass
    else .next (dbgGuard s die ctx 0x18 r (dbgStatus s die ctx 3))
  | _ => .next s.pass

/-- MGMT_REG_WRITE (R418), and a read (R355, R414, R417). -/
def execMgmtRegWrite (s : State) : Out :=
  match s.model.ev with
  | some (.mgmtRegWrite die off v r) =>
    let at_ := mgmtAt (die * 0x1000000 + off)
    happens s (mgmtWrite s at_.1 at_.2 v r)
  | some (.mgmtRegAccess die off n wr r) =>
    let at_ := mgmtAt (die * 0x1000000 + off)
    happens s (mgmtAccess s at_.1 at_.2 n wr r)
  | _ => .next s.pass

/-- CTXBIND_BIND (R310). -/
def execCtxbindBind (s : State) : Out :=
  match s.model.ev with
  | some (.ctxbindBind die v r) => happens s (writeCtxbind s die v r 1 bindCtx)
  | _ => .next s.pass

/-- CTXBIND_DESTROY (R410). -/
def execCtxbindDestroy (s : State) : Out :=
  match s.model.ev with
  | some (.ctxbindDestroy die v r) => happens s (writeCtxbind s die v r 2 unbindCtx)
  | _ => .next s.pass

/-- HSTATE_STEP (R421). -/
def execHstateStep (s : State) : Out :=
  match s.model.ev with
  | some (.hstateStep die r) => .next (stepHstate s die r)
  | _ => .next s.pass

/-- HYPID_WRITE (R418). -/
def execHypidWrite (s : State) : Out :=
  match s.model.ev with
  | some (.hypidWrite die v r) => .next (writeHypid s die v r)
  | _ => .next s.pass

/-- WORLD_LATCH (R423). -/
def execWorldLatch (s : State) : Out :=
  match s.model.ev with
  | some (.worldLatch die v r) => happens s (writeWlatch s die v r)
  | _ => .next s.pass

/-- PCAP_WRITE (R420). -/
def execPcapWrite (s : State) : Out :=
  match s.model.ev with
  | some (.pcapWrite die v r) => .next (writePcap s die v r)
  | _ => .next s.pass

/-- GET_MEASUREMENTS_CURRENT (R430). -/
def execGetMeasurementsCurrent (s : State) : Out :=
  match s.model.ev with
  | some (.getMeasurementsCurrent die nonce) => happens s (measureNow s die nonce)
  | _ => .next s.pass

/-- GET_MEASUREMENTS_FINAL (R430). -/
def execGetMeasurementsFinal (s : State) : Out :=
  match s.model.ev with
  | some (.getMeasurementsFinal die nonce) => happens s (measureFinal s die nonce)
  | _ => .next s.pass

/-- TOLL_SNAPSHOT (R430). -/
def execTollSnapshot (s : State) : Out :=
  match s.model.ev with
  | some (.tollSnapshot die) => happens s (regularSnapshot s die)
  | _ => .next s.pass

end Sys2Proof.Machine
end

