-- ==== Sys2Proof/Machine/Windows.lean ====
section
/-! DEFINITION. The tables that open a die to other memory: the mooring table and its leases (R348-R351, R367), the fabric window table
(R359, R365), the ASID map (R439), the admission table (R366), the extents (R362), and the sessions between Helms (R370). -/

namespace Sys2Proof.Machine

/-! ## The ASID map (R439) -/

/-- Whether a context bound on any die uses an address space. -/
def asidUsed (s : State) (asid : Nat) : Bool := s.ctxs.any (fun e => e.2.asid == asid)

/-- A write to the ASID map: the same entry on every die. -/
def writeAsidmap (s : State) (die asid : Nat) (v : DWord) (r : Req) : Option State :=
  if asid ≥ 4096 then none
  else
    let n := v.toNat
    let new : AsidEnt := ⟨bit n 8, bits n 3 0⟩
    let ok := isHyp (s.die die).mg r && tablesOpen s && bits n 63 9 == 0 && bits n 7 4 == 0 && decide (bits n 3 0 ≤ 11) &&
      (new == FMap.getD s.pkg.asidmap asid {} || !asidUsed s asid)
    some (mgmtGuard s die (0xB0000 + 8 * asid) ok { s with pkg := { s.pkg with asidmap := FMap.put s.pkg.asidmap asid new } })

/-! ## The fabric window table (R359) -/

/-- The fields of FWINLO and FWINHI that are not reserved. -/
def fwinLoMask : DWord := 0xFF07FFFFC0000000#64
def fwinHiMask : DWord := 0x000FFFFFFFFFC000#64

/-- Whether a valid entry breaks a limit (R359). -/
def fwinBad (s : State) (lo hi : Nat) : Bool :=
  let size := bits lo 61 56
  let via := bits hi 19 16
  decide (bits lo 63 62 = 3) || decide (size < 30) || decide (size > 50) || decide (bits lo 50 30 % 2 ^ (size - 30) ≠ 0) ||
  (if bits lo 63 62 = 1 then bits hi 29 20 != 0 || bits hi 15 14 != 0 || !s.fit.ports.contains via
   else !s.fit.stations.contains via)

/-- A valid CXL entry is written: the link of its port stands again, and with it the sessions through that port (R365; log entry 80). -/
def portBack (s : State) (e : Fwin) : State :=
  if bits e.lo.toNat 63 62 = 1 then
    let port := bits e.hi.toNat 19 16
    let s := s.updMg port (fun m => { m with portDown := false })
    { s with pkg := { s.pkg with sessions := FMap.mapV s.pkg.sessions (fun _ (x : Session) =>
        if x.spec.sender && x.spec.peer.isNone && x.spec.via == port then { x with lost := false } else x) } }
  else s

/-- A write to a fabric window register: checked when the entry is valid after it; the entry is no longer lost (R365). -/
def writeFwin (s : State) (die off : Nat) (v : DWord) (r : Req) : Option State :=
  if off < 0x90000 ∨ 0x90400 ≤ off ∨ off % 8 ≠ 0 then none
  else
    let k := (off - 0x90000) / 16
    let m := (s.die die).mg
    let old := FMap.getD m.fwin k {}
    let low := off % 16 == 0
    let mask := if low then fwinLoMask else fwinHiMask
    let new : Fwin := if low then { old with lo := v &&& mask, lost := false } else { old with hi := v &&& mask, lost := false }
    let ok := isHyp m r && tablesOpen s &&
      (bits new.lo.toNat 63 62 == 0 || (v &&& ~~~mask == 0 && !fwinBad s new.lo.toNat new.hi.toNat))
    some (mgmtGuard s die off ok (portBack (s.updMg die (fun m => { m with fwin := FMap.put m.fwin k new })) new))

/-! ## The mooring table (R348-R351) -/

def moorLoMask : DWord := 0xC00FFFFFFFFF0000#64
def moorHiMask : DWord := 0x000FFFFFFFEFC000#64

/-- What every cache of the package holds of addresses that meet a test is gone, and goes nowhere. -/
def forget (s : State) (f : Nat → Bool) : State :=
  let s := { s with cores := FMap.mapV s.cores (fun _ (c : Core) => { c with l1 := c.l1.filter (fun x => !f (x.line * 128)) }) }
  { s with dies := FMap.mapV s.dies (fun _ (d : Die) => { d with dm := { d.dm with
      l2 := d.dm.l2.filter (fun x => !f (x.line * 128)), msc0 := d.dm.msc0.filter (fun x => !f (x.line * 128)),
      msc1 := d.dm.msc1.filter (fun x => !f (x.line * 128)) } }) }

/-- A range of package memory zero wherever it stands, its pages fresh and none of its lines in error (R343, R350, R362). -/
def zeroRange (s : State) (base n : Nat) : State :=
  let inR := fun (a : Nat) => decide (base ≤ a) && decide (a < base + n)
  forget { s with mem := { s.mem with
    bytes := s.mem.bytes.filter (fun e => !inR e.1),
    poison := s.mem.poison.filter (fun l => !inR (l * 128)),
    damaged := s.mem.damaged.filter (fun l => !inR (l * 128)),
    pages := FMap.mapV s.mem.pages (fun k (p : PageMeta) => if inR (k * 4096) then { p with fresh := 0xFFFFFFFF } else p) } } inR

/-- Whether a metadata area lies in a die's own package memory (R348). -/
def metaOk (s : State) (die base : Nat) : Bool :=
  match regionOf s.fit base, regionOf s.fit (base + 48 * 2 ^ 20 - 1) with
  | .package d b _, .package d' b' _ => d == die && d' == die && b == b'
  | _, _ => false

/-- Whether an entry may become ACTIVE, by its MOORHI (R348). -/
def moorOk (s : State) (die hi : Nat) : Bool :=
  let via := bits hi 19 16
  metaOk s die (bits hi 51 21 * 2 ^ 21) && s.fit.stations.contains via && (vfDies s die).contains via &&
  (s.die via).mg.stnen.getLsbD (bits hi 15 14)

/-- Whether an L2 line of a die is a berth's. -/
def ofBerth (f : Fitting) (berth : Nat) (x : L2Line) : Bool :=
  match regionOf f (x.line * 128) with | .berth i _ => i == berth | _ => false

/-- The copies of a berth on a die gone, and its keys (R351, R425). -/
def closeBerth (s : State) (die berth : Nat) (state : Nat) : State :=
  let s := dropCopies s die (ofBerth s.fit berth)
  s.updMg die (fun m => { m with moor := FMap.upd m.moor berth {} (fun e => { e with
    lo := (e.lo &&& ~~~0xC000000000000000#64) ||| (BitVec.ofNat 64 state <<< 62), dataKey := 0, tagKey := 0, drainEnd := none }) })

/-- A berth fresh after an ACTIVE write (R350): new keys, its metadata area cleared and its counters begun again, every byte zero, no line of it in
error. -/
def openBerth (s : State) (die berth : Nat) (lo : DWord) : State :=
  let base := die * 2 ^ 52 + 2 ^ 48 + berth * 2 ^ 30
  let line := (die + 1) * 2 ^ 46 + (2 ^ 48 + berth * 2 ^ 30) / 128
  let s := dropCopies s die (ofBerth s.fit berth)
  let s := zeroRange s (FMap.getD (s.die die).mg.moor berth {}).metaBase (48 * 2 ^ 20)
  let s := { s with mem := { s.mem with
    berth := s.mem.berth.filter (fun e => !(decide (base ≤ e.1) && decide (e.1 < base + 2 ^ 30))),
    poison := s.mem.poison.filter (fun l => !(decide (line ≤ l) && decide (l < line + 2 ^ 23))),
    damaged := s.mem.damaged.filter (fun l => !(decide (line ≤ l) && decide (l < line + 2 ^ 23))) } }
  let (dk, s) := drawKey s
  let (tk, s) := drawKey s
  s.updMg die (fun m => { m with moor := FMap.upd m.moor berth {} (fun e =>
    { e with lo := lo, dataKey := dk, tagKey := tk, drainEnd := none, pages := [] }) })

/-- A drain window whose cycle has come closes the berth before anything else is done to its entry (R351). -/
def lateClose (s : State) (die berth : Nat) : State :=
  if (FMap.getD (s.die die).mg.moor berth {}).drainEnd.isSome && berthState s die berth == 3 then closeBerth s die berth 3 else s

/-- A write to MOORLO accepted (R348, R351): STATE 1 opens the berth, STATE 0 in the drain window ends the window. -/
def setMoorLo (s : State) (die berth : Nat) (v : DWord) : State :=
  let s := lateClose s die berth
  let lo := v &&& moorLoMask
  if bits v.toNat 63 62 = 1 then openBerth s die berth lo
  else
    let s' := s.updMg die (fun m => { m with moor := FMap.upd m.moor berth {} (fun e => { e with lo := lo }) })
    if berthState s die berth = 2 then closeBerth s' die berth 3 else s'

/-- A write to a mooring register (R348, R421). Software's STATE 2 and 3 are refused (log entry 28); the ZH-940M has no table (R352). -/
def writeMoor (s : State) (die off : Nat) (v : DWord) (r : Req) : Option State :=
  if off < 0x80000 ∨ 0x81000 ≤ off ∨ off % 8 ≠ 0 then none
  else if s.fit = .m then some s
  else
    let k := (off - 0x80000) / 16
    let m := (s.die die).mg
    let hyp := isHyp m r && tablesOpen s
    if off % 16 = 0 then
      let st := bits v.toNat 63 62
      let ok := hyp && (st == 0 || (st == 1 && v &&& ~~~moorLoMask == 0 && moorOk s die (FMap.getD m.moor k {}).hi.toNat))
      some (mgmtGuard s die off ok (setMoorLo s die k v))
    else some (mgmtGuard s die off hyp (s.updMg die (fun m => { m with moor := FMap.upd m.moor k {} (fun e => { e with hi := v &&& moorHiMask }) })))

/-- A notice raised on a die for a context (R412, R413). -/
def notify (s : State) (die ctx rung : Nat) (cause : Byte) (code : Nat) : State :=
  let x := s.ctx die ctx
  (raiseTrap s {
    die := die, ctx := ctx, rung := rung, party := .notice,
    fault := { cause := cause, kind := 3, code := BitVec.ofNat 32 code, asid := BitVec.ofNat 16 x.asid, gen := s.gen x.asid } } none).2

/-- REVOCATION_NOTICE (R351): DRAINING, the window, the log, the notice, and the dirty lines to the lender. An entry that is not ACTIVE has no
lease to drain. -/
def revocation (s : State) (die berth : Nat) : Option State :=
  if s.fit.dies ≤ die ∨ berth ≥ 256 then none
  else if berthState s die berth ≠ 1 then some s
  else
    let x := s.die die
    let s := s.updMg die (fun m => { m with moor := FMap.upd m.moor berth {} (fun e => { e with
      lo := (e.lo &&& ~~~0xC000000000000000#64) ||| 0x8000000000000000#64, drainEnd := some (x.cycle + 134217728) }) })
    let s := notify (s.logged (.revoked die berth)) die (hctxOf s die) 3 cBerth berth
    some (writeBackWhere s die (ofBerth s.fit berth))

/-- DRAIN_WINDOW_CLOSE (R351). -/
def windowClose (s : State) (die berth : Nat) : Option State :=
  match (FMap.getD (s.die die).mg.moor berth {}).drainEnd with
  | some t => if (s.die die).cycle < t then none else some (closeBerth s die berth 3)
  | none => none

/-! ## Admission and leases (R366, R367) -/

/-- Whether a live session with the Helm of another package's die has attested its world to a die's Helm (R366). -/
def attested (s : State) (die pkg sdie : Nat) : Bool :=
  s.pkg.sessions.any (fun e => e.2.live && e.2.spec.die == die && e.2.spec.peer == some (pkg, sdie))

/-- ADMISSION_TABLE_WRITE (R366): Helm enters a range of the die's package memory, for a source whose world a session has attested. -/
def admitEntry (s : State) (die : Nat) (e : AdmissionSpec) : Option State :=
  if !helmUp s die ∨ !attested s die e.pkg e.sdie then none
  else match regionOf s.fit (e.gib * 2 ^ 30) with
    | .package _ _ _ =>
      let (k, s) := s.fresh
      some (s.updMg die (fun m => { m with adm := FMap.put m.adm k { spec := e } }))
    | _ => none

/-- LEASE_REVOKE (R367): the entry is REVOKING from now on, and the station sends its notice. -/
def revokeLease (s : State) (die entry : Nat) : Option State :=
  let x := s.die die
  match FMap.get? x.mg.adm entry with
  | some e =>
    if !e.spec.lease || e.revoking then none
    else some (s.updMg die (fun m => { m with adm := FMap.put m.adm entry { e with revoking := true, since := x.cycle } }))
  | none => none

/-- LENDER_SERVICE_END (R367): at the report of the window's close, or 150,000,000 cycles after the notice, the entry goes. -/
def endService (s : State) (die entry : Nat) (reported : Bool) : Option State :=
  let x := s.die die
  match FMap.get? x.mg.adm entry with
  | some e =>
    if e.revoking && (reported || decide (e.since + 150000000 ≤ x.cycle)) then
      some (s.updMg die (fun m => { m with adm := FMap.erase m.adm entry }))
    else none
  | none => none

/-! ## Extents (R362) -/

/-- The physical address of an extent of a die. -/
def extBase (die ext : Nat) : Nat := die * 2 ^ 41 + ext / 576 * 2 ^ 40 + ext % 576 * 2 ^ 30

/-- EXTENT_GRANT (R362): to the tenant whose world the die holds, every byte zero wherever it stands. Any other is refused. -/
def grantExtent (s : State) (die ext tenant : Nat) (reqs : List (Nat × Bool)) (c : Bool) : Option State :=
  if s.fit = .c ∨ !helmUp s die ∨ ext ≥ 1152 ∨ (FMap.get? (s.die die).dm.extents ext).isSome then none
  else if tenant = 0 ∨ tenant ≠ (s.die die).mg.world ∨ reqs.length > 32 then some { s with pkg := { s.pkg with replyOk := false } }
  else
    let s := zeroRange { s with pkg := { s.pkg with replyOk := true } } (extBase die ext) (2 ^ 30)
    some (s.updDm die (fun m => { m with extents := FMap.put m.extents ext ⟨tenant, reqs, c⟩ }))

/-- EXTENT_RELEASE (R362): after every snoop-filter entry of the extent has been recalled. -/
def releaseExtent (s : State) (die ext : Nat) : Option State :=
  match FMap.get? (s.die die).dm.extents ext with
  | none => none
  | some _ =>
    let base := extBase die ext / 64
    let lines := ((s.die die).dm.expSnoop.map (·.line)).filter (fun l => decide (base ≤ l) && decide (l < base + 2 ^ 24))
    let s := foldNames s lines (fun s l => recallSnoop s die l 0)
    some (s.updDm die (fun m => { m with extents := FMap.erase m.extents ext }))

/-! ## Sessions (R370, R425) -/

/-- SPDM_SESSION_SETUP (R370): keys and numbers from the start. -/
def openSession (s : State) (x : SessionSpec) : Option State :=
  if !helmUp s x.die ∨ x.prio > 7 ∨ x.ctx ≥ 64 then none
  else
    let (k, s) := s.fresh
    let (mk, s) := s.drawN 6
    let (sk, s) := drawLink s
    some { s with pkg := { s.pkg with
      sessions := FMap.put s.pkg.sessions k { spec := x, manifestKey := BitVec.ofNat 384 mk, stationKey := sk } } }

/-- SPDM_SESSION_END (R425): its keys are destroyed. -/
def closeSession (s : State) (k : Nat) : Option State :=
  match FMap.get? s.pkg.sessions k with
  | some x =>
    if x.live then some { s with pkg := { s.pkg with
      sessions := FMap.put s.pkg.sessions k { x with live := false, manifestKey := 0, stationKey := 0 } } }
    else none
  | none => none

/-! ## The events -/

/-- ASIDMAP_WRITE (R439). -/
def execAsidmapWrite (s : State) : Out :=
  match s.model.ev with
  | some (.asidmapWrite die asid v r) => happens s (writeAsidmap s die asid v r)
  | _ => .next s.pass

/-- FWIN_WRITE (R359). -/
def execFwinWrite (s : State) : Out :=
  match s.model.ev with
  | some (.fwinWrite die off v r) => happens s (writeFwin s die off v r)
  | _ => .next s.pass

/-- MOORING_WRITE (R348). -/
def execMooringWrite (s : State) : Out :=
  match s.model.ev with
  | some (.mooringWrite die off v r) => happens s (writeMoor s die off v r)
  | _ => .next s.pass

/-- REVOCATION_NOTICE (R351). -/
def execRevocationNotice (s : State) : Out :=
  match s.model.ev with
  | some (.revocationNotice die berth) => happens s (revocation s die berth)
  | _ => .next s.pass

/-- DRAIN_WINDOW_CLOSE (R351). -/
def execDrainWindowClose (s : State) : Out :=
  match s.model.ev with
  | some (.drainWindowClose die berth) => happens s (windowClose s die berth)
  | _ => .next s.pass

/-- ADMISSION_TABLE_WRITE (R366). -/
def execAdmissionTableWrite (s : State) : Out :=
  match s.model.ev with
  | some (.admissionTableWrite die e) => happens s (admitEntry s die e)
  | _ => .next s.pass

/-- LEASE_REVOKE (R367). -/
def execLeaseRevoke (s : State) : Out :=
  match s.model.ev with
  | some (.leaseRevoke die entry) => happens s (revokeLease s die entry)
  | _ => .next s.pass

/-- LENDER_SERVICE_END (R367). -/
def execLenderServiceEnd (s : State) : Out :=
  match s.model.ev with
  | some (.lenderServiceEnd die entry reported) => happens s (endService s die entry reported)
  | _ => .next s.pass

/-- EXTENT_GRANT (R362). -/
def execExtentGrant (s : State) : Out :=
  match s.model.ev with
  | some (.extentGrant die ext tenant reqs c) => happens s (grantExtent s die ext tenant reqs c)
  | _ => .next s.pass

/-- EXTENT_RELEASE (R362). -/
def execExtentRelease (s : State) : Out :=
  match s.model.ev with
  | some (.extentRelease die ext) => happens s (releaseExtent s die ext)
  | _ => .next s.pass

/-- SPDM_SESSION_SETUP (R370). -/
def execSpdmSessionSetup (s : State) : Out :=
  match s.model.ev with
  | some (.spdmSessionSetup x) => happens s (openSession s x)
  | _ => .next s.pass

/-- SPDM_SESSION_END (R425). -/
def execSpdmSessionEnd (s : State) : Out :=
  match s.model.ev with
  | some (.spdmSessionEnd k) => happens s (closeSession s k)
  | _ => .next s.pass

end Sys2Proof.Machine
end

