-- ==== Sys2Proof/Machine/Ports.lean ====
section
/-! DEFINITION. What arrives at the ports and stations: host accesses (R356), back-invalidations and snoops (R357, R358, R361), failures of a port
(R365), requests at an expander (R363) and at a station (R366). -/

namespace Sys2Proof.Machine

/-! ## Answers -/

/-- A request answered with an error: all ones for a read, nothing for a write; logged where the rule says so. -/
def refuseAnswer (s : State) (n : Nat) (wr : Bool) (e : Option LogEnt) : State :=
  let s := match e with | some l => s.logged l | none => s
  { s with pkg := { s.pkg with reply := if wr then [] else List.replicate n 0xFF, replyOk := false, replyPoison := false } }

/-- A request answered. -/
def answer (s : State) (bs : List Byte) : State := { s with pkg := { s.pkg with reply := bs, replyOk := true, replyPoison := false } }

/-- A read answered with a line's bytes, or as poisoned where the line is or its station has lost the answer (R342, R344, R366). -/
def answerRead (s : State) (die pa n : Nat) (lost : Bool) : State :=
  if lost || poisonedLine s die pa then
    { s with pkg := { s.pkg with reply := [], replyOk := true, replyPoison := true } }
  else answer s (homeBytes s die pa n)

/-- A write whose bytes are not as many as it says. -/
def badWrite (wr : Option (List Byte)) (n : Nat) : Bool := match wr with | some bs => bs.length != n | none => false

/-- The package die of an access that stays within one line. -/
def lineDie (s : State) (pa n : Nat) : Option Nat :=
  if n = 0 ∨ lineOf pa ≠ lineOf (pa + n - 1) then none
  else match regionOf s.fit pa with | .package d _ _ => some d | _ => none

/-- Bytes that a port carries between the host and a die (R429): the port where the access arrives is a free value; a port die of another world counts
none of them, as they are no work of its world. -/
def portBytes (s : State) (die n : Nat) (wr : Bool) : State :=
  let (x, s) := s.draw
  let p := s.fit.ports.getD (x.toNat % s.fit.ports.length) 0
  if gangwayOk s p die then (s.carry p (die * 2 ^ 41) n wr).toll p 10 n else s.toll die (if wr then 7 else 8) n

/-! ## The host (R356, R357) -/

/-- Whether the host reaches a die's memory. -/
def hostMay (s : State) (die : Nat) : Bool := (s.die die).mg.hosten && !(s.die die).mg.retired

/-- HOST_ACCESS (R261, R356, R357): performed at the home slice, once another die's dirty bytes of an object have been claimed; the slice notes a line
read in its snoop filter of 1,048,576 entries. -/
def hostServe (s : State) (pa n : Nat) (wr : Option (List Byte)) : Option State :=
  if n = 0 ∨ badWrite wr n then none
  else match lineDie s pa n with
    | none => some (refuseAnswer s n wr.isSome (some (.hostRefused pa)))
    | some d =>
      if !hostMay s d then some (refuseAnswer s n wr.isSome (some (.hostRefused pa)))
      else match wr with
        | some bs => some (answer (homeWrite (claimPhys (portBytes s d n true) d pa) d pa bs) [])
        | none =>
          let (lost, s) := homeRead (portBytes s d n false) d pa n
          let s := s.updDm d (fun m => { m with hostSnoop := (lineOf pa :: m.hostSnoop.filter (· != lineOf pa)).take 1048576 })
          some (answerRead s d pa n lost)

/-- The operation of a PCIe AtomicOp. -/
def hostOp : HostAtomic → AtomOp
  | .fetchAdd => .add
  | .swap => .exch
  | .cas => .cas

/-- An atomic or a counter add that arrives from outside the package, performed by the home slice in its location's order (R247, R361, R363): owners and
holders give the line up first, and every WAITGE on the word tests it again (R145). One on a poisoned line changes nothing (R438). -/
def farAtomic (s : State) (die pa : Nat) (op : AtomOp) (wide : Bool) (x y : DWord) : DWord × State :=
  let s := (homeRead s die pa (atomSize wide)).2
  if poisonedLine s die pa then (0, s)
  else
    let (old, s) := homeAtomic s die pa op wide x y
    (old, if op = .read then s else wakeWord s die pa)

/-- HOST_ATOMICOP (R145, R168, R356): performed at the home slice; every WAITGE on the word tests it again. -/
def hostAtomicServe (s : State) (op : HostAtomic) (pa : Nat) (wide : Bool) (val cmp : DWord) : Option State :=
  let n := atomSize wide
  if pa % n ≠ 0 then none
  else match lineDie s pa n with
    | none => some (refuseAnswer s n false (some (.hostRefused pa)))
    | some d =>
      if !hostMay s d then some (refuseAnswer s n false (some (.hostRefused pa)))
      else
        let (old, s) := farAtomic (portBytes s d n true) d pa (hostOp op) wide (if op = .cas then cmp else val) val
        some (answer s (leBytes n old.toNat))

/-- CXL_UNSUPPORTED_REQUEST (R354). -/
def unsupportedReq (s : State) (port code : Nat) : Option State :=
  if s.fit.ports.length ≤ port then none else some (refuseAnswer s 0 true (some (.unsupported port code)))

/-! ## Lines taken back (R357, R358, R361) -/

/-- The far side may have written the half of a line that it took back (R358): what it wrote there is a free value (log entry 27). -/
def farChanged (s : State) (die pa : Nat) : State :=
  let half := pa / 64 * 64
  match regionOf s.fit half with
  | .fabric off =>
    match fwinMatch (s.die die) off with
    | some (_, e) =>
      let (w, s) := s.draw
      let (n, s) := s.drawN 8
      if w.getLsbD 0 then { s with mem := { s.mem with far := memWriteN s.mem.far (farKey e off) (leBytes 64 n) } } else s
    | none => s
  | _ => s

/-- The copies of a line of the far side on a die: those whose home is a port's place. -/
def farCopy (s : State) (die : Nat) (at_ : Nat × Nat) (x : L2Line) : Bool := !x.own && homeKey s die (x.line * 128) == some at_

/-- The package gives up a line of the far side for a snoop of one of its halves (R357, R358): a dirty one is written back first, the whole line goes,
and a WAITGE.sys on it tests its word again, the far side having made its write (R361). -/
def giveLine (s : State) (die pa : Nat) : Option State :=
  match regionOf s.fit pa, homeKey s die pa with
  | .fabric _, some at_ =>
    let s := foldNames s (List.range s.fit.dies) (fun s d => writeBackWhere s d (farCopy s d at_))
    let s := foldNames s (List.range s.fit.dies) (fun s d => dropCopies s d (farCopy s d at_))
    let s := match ownFind (s.die at_.1) at_.2 with
      | some x => (homeOut s at_.1 x).updDm at_.1 (fun m => { m with l2 := m.l2.filter (fun y => !(y.own && y.line == at_.2)) })
      | none => s
    let s := farChanged s die pa
    some (retestWaits s (fun g sys a => sys && homeKey s g.die a == some at_))
  | _, _ => none

/-! ## Failures of a port (R365, R412) -/

/-- The groups of a context parked in a WAITGE.sys on a word of a lost range. -/
def lostWaiters (s : State) (die ctx : Nat) : List Nat :=
  namesWhere s.groups (fun _ g => g.die == die && g.ctx == ctx && (match g.wait with | .waitge true a _ => lostAt s die a | _ => false))

/-- A group stopped in a WAITGE.sys on a lost word: a group fault in the notice's slot, the WAITGE to issue again on RESUME (R412). -/
def stopWaiter (s : State) (gid : Nat) (cause : Byte) (code : Nat) : State :=
  match FMap.get? s.groups gid with
  | none => s
  | some g =>
    let pc := (g.lane ((lanesOf g.mask).headD 0)).pc
    stopGroup (s.updGroup gid (fun g => { g with wait := .run })) gid g.mask 2
      { cause := cause, kind := 1, pc := pc, resume := pc, code := BitVec.ofNat 32 code }

/-- A context told of a lost entry (R365, R412): in one slot with the group that waits on it, if any does; further such groups take slots of
their own. -/
def tellLost (s : State) (die ctx code : Nat) (cause : Byte) : State :=
  match lostWaiters s die ctx with
  | [] => notify s die ctx 2 cause code
  | gs => foldNames s gs (fun s g => stopWaiter s g cause code)

/-- Whether an address lies in the range of a fabric window entry (R359). -/
def Fwin.covers (e : Fwin) (f : Fitting) (pa : Nat) : Bool :=
  let lo := e.lo.toNat
  match regionOf f pa with
  | .fabric off => decide (bits lo 50 30 * 2 ^ 30 ≤ off) && decide (off < bits lo 50 30 * 2 ^ 30 + 2 ^ bits lo 61 56)
  | _ => false

/-- Lines of a lost range leave a die's L1s and L2; what was dirty is dropped (R365). -/
def loseLines (s : State) (die : Nat) (e : Fwin) : State :=
  let s := { s with cores := FMap.mapV s.cores (fun k (c : Core) =>
    if k / 256 = die then { c with l1 := c.l1.filter (fun x => !e.covers s.fit (x.line * 128)) } else c) }
  dropCopies s die (fun x => e.covers s.fit (x.line * 128))

/-- An entry of a die lost, and the contexts of its mask told. -/
def loseEntry (s : State) (die k : Nat) (cause : Byte) : State :=
  let e := FMap.getD (s.die die).mg.fwin k {}
  let s := loseLines (s.updMg die (fun m => { m with fwin := FMap.put m.fwin k { e with lost := true, viral := cause == cViral } })) die e
  foldNames s ((List.range 64).filter (fun c => e.mask.getLsbD c && (s.ctx? die c).isSome)) (fun s c => tellLost s die c k cause)

/-- The entries of a die that a CXL port carries and that are not lost yet. -/
def portEntries (s : State) (die port : Nat) : List Nat :=
  namesWhere (s.die die).mg.fwin (fun _ (e : Fwin) =>
    !e.lost && bits e.lo.toNat 63 62 == 1 && bits e.hi.toNat 19 16 == port)

/-- A failure at a port (R365): every die's entries that it carries become lost, the port's slice forgets the far side's lines, and SHIPs through it
end. -/
def portLost (s : State) (port : Nat) (cause : Byte) : Option State :=
  if !s.fit.ports.contains port then none
  else
    let s := foldNames s (List.range s.fit.dies) (fun s d => foldNames s (portEntries s d port) (fun s k => loseEntry s d k cause))
    some (loseSessions (s.updDm port (fun m => { m with l2 := m.l2.filter (fun x => !(x.own && decide (2 ^ 60 ≤ x.line))) })) port)

/-! ## An expander die (R362, R363) -/

/-- The place of a requester in an extent's list. -/
def reqIndex (e : Extent) (pbr : Nat) : Option Nat := e.reqs.findIdx? (fun r => r.1 == pbr)

/-- The snoop filter with an entry for a line: its set of sixteen gives up the least recently used one first (R363). -/
def noteSnoop (s : State) (die line i : Nat) (excl : Bool) : State :=
  let bit : Word := 1#32 <<< i
  let old := (s.die die).dm.expSnoop.find? (fun x => x.line == line)
  let set := fun (x : Snoop) => x.line % 524288 == line % 524288
  let full := ((s.die die).dm.expSnoop.filter (fun x => set x && x.line != line)).drop 15
  let s := foldNames s (full.map (·.line)) (fun s l => recallSnoop s die l 0)
  let x : Snoop := ⟨line, (match old with | some y => y.holders ||| bit | none => bit), excl⟩
  s.updDm die (fun m => { m with expSnoop := x :: m.expSnoop.filter (fun y => y.line != line) })

/-- The 64-byte lines of a range. -/
def halfLines (pa n : Nat) : List Nat := (List.range ((pa + n - 1) / 64 + 1 - pa / 64)).map (fun i => pa / 64 + i)

/-- The Exclusive entries over a range that another requester holds. -/
def exclOthers (s : State) (die pa n i : Nat) : List Nat :=
  ((s.die die).dm.expSnoop.filter (fun x => (halfLines pa n).contains x.line && x.excl && x.holders != 1#32 <<< i)).map (·.line)

/-- EXPANDER_REQUEST (R362, R363): a read, a write, or with no bytes to write a request for ownership of the lines. -/
def expServe (s : State) (die pbr pa n : Nat) (wr : Option (List Byte)) : Option State :=
  if s.fit = .c ∨ n = 0 ∨ (badWrite wr n ∧ wr ≠ some []) then none
  else if lineDie s pa n ≠ some die then none
  else
    let refused := fun (s : State) => some (refuseAnswer s n wr.isSome (some (.refusedRequest pbr pa)))
    match extOf s die pa with
    | none => refused s
    | some e => match reqIndex e pbr with
      | none => refused s
      | some i =>
        let write := match e.reqs[i]? with | some r => r.2 | none => false
        if wr.isSome && !write then refused s
        else
          let s := s.toll die 10 n
          let each := fun (s : State) (excl : Bool) => if e.c then foldNames s (halfLines pa n) (fun s l => noteSnoop s die l i excl) else s
          match wr with
          | none =>
            let s := foldNames s (exclOthers s die pa n i) (fun s l => recallSnoop s die l 0)
            let (lost, s) := homeRead (each s false) die pa n
            some (answerRead s die pa n lost)
          | some [] => some (answer (each (recallRange s die pa n (1#32 <<< i)) true) [])
          | some bs =>
            let s := recallRange s die pa n (1#32 <<< i)
            let mine : List Snoop := (s.die die).dm.expSnoop.filter (fun x => (halfLines pa n).contains x.line)
            let s := s.updDm die (fun m => { m with expSnoop := m.expSnoop.filter (fun x => !mine.contains x) })
            let s := homeWrite (claimPhys s die pa) die pa bs
            some (answer (s.updDm die (fun m => { m with expSnoop := mine ++ m.expSnoop })) [])

/-- EXPANDER_REQUEST for a .sys atomic or a counter add (R247, R361, R362): the holders of the line, the requester among them, give it up first. -/
def expAtomic (s : State) (die pbr pa : Nat) (op : AtomOp) (wide : Bool) (x y : DWord) : Option State :=
  let n := atomSize wide
  if s.fit = .c ∨ pa % n ≠ 0 ∨ lineDie s pa n ≠ some die then none
  else
    let refused := some (refuseAnswer s n false (some (.refusedRequest pbr pa)))
    match extOf s die pa with
    | none => refused
    | some e => match (reqIndex e pbr).bind (fun i => e.reqs[i]?) with
      | none => refused
      | some r =>
        if !r.2 && op != .read then refused
        else
          let (old, s) := farAtomic (s.toll die 10 n) die pa op wide x y
          some (answer s (leBytes n old.toNat))

/-! ## A UALink station (R366) -/

/-- The admission entry that serves a request. -/
def admitted (s : State) (die pkg sdie pa n : Nat) : Option Adm :=
  ((s.die die).mg.adm.find? (fun e => e.2.spec.gib == pa / 2 ^ 30 && e.2.spec.gib == (pa + n - 1) / 2 ^ 30 && e.2.spec.pkg == pkg &&
    e.2.spec.sdie == sdie)).map (·.2)

/-- A line of a lent frame stands nowhere but in DRAM (R336, R350, R366). -/
def frameOut (s : State) (die bridge line : Nat) : State :=
  let s := match ownFind (s.die die) line with
    | some x => (homeOut s die x).updDm die (fun m => { m with l2 := m.l2.filter (fun y => !(y.own && y.line == line)) })
    | none => s
  match (mscOf (s.die die).dm bridge).find? (fun y => y.line == line) with
  | some y => s.putBr die ((s.br die).mscEvict bridge y)
  | none => s

/-- Bytes of a lent frame stored as received (R350, R366). -/
def frameWrite (s : State) (pa : Nat) (bs : List Byte) : State :=
  let m := memWriteN s.mem.bytes pa bs
  { s with mem := { s.mem with bytes := m, dram := FMap.put s.mem.dram (lineOf pa) ⟨memReadN m (lineOf pa * 128) 128, []⟩,
                               damaged := s.mem.damaged.filter (· != lineOf pa) } }

/-- A lease's request goes over the link to the bridge (R344) and to the array (R429), past the cache and the cipher (R350). With it, whether the link
has lost it. -/
def frameRequest (s : State) (die bridge pa n : Nat) (wr : Bool) : Bool × State :=
  let r := (s.br die).request die bridge (lineOf pa) wr
  if r.bad then (true, let s := s.putBr die r; if wr then s.setPoison die pa else s)
  else (false, s.putBr die (r.toll (if wr then 6 else 5) (32 * (sectorsOf (pa % 128) n).length)))

/-- A request at an enabled station, before it is served (R366, R420, R424): the die and the bridge of the memory it names, and the entry that admits it. -/
def stationAt (s : State) (die stn pkg sdie pa n : Nat) : Option (Nat × Nat × Adm) :=
  match lineDie s pa n, regionOf s.fit pa with
  | some d, .package _ b _ =>
    if (s.die die).mg.world = 0 || !(s.die die).mg.stnen.getLsbD stn || !gangwayOk s die d then none else (admitted s die pkg sdie pa n).map (fun e => (d, b, e))
  | _, _ => none

/-- STATION_REQUEST (R366, R367, R424): served by an admission entry, else refused. A lease's bytes are stored and returned as received, past the
memory-side cache and the cipher (R350). -/
def stationServe (s : State) (die stn pkg sdie pa n : Nat) (wr : Option (List Byte)) : Option State :=
  if !s.fit.stations.contains die ∨ badWrite wr n then none
  else match stationAt s die stn pkg sdie pa n with
    | none => some (refuseAnswer s n wr.isSome none)
    | some (d, b, e) =>
      let s := (s.toll die 9 n).carry die pa n wr.isSome
      let s := if e.spec.lease then frameOut s d b (lineOf pa) else s
      match wr with
      | some bs =>
        if e.spec.lease then
          let (lost, s) := frameRequest s d b pa n true
          some (answer (if lost then s else frameWrite s pa bs) [])
        else some (answer (homeWrite (claimPhys s d pa) d pa bs) [])
      | none =>
        let (lost, s) := if e.spec.lease then frameRequest s d b pa n false else homeRead s d pa n
        some (answerRead s d pa n lost)

/-- STATION_REQUEST for a .sys atomic or a counter add (R247, R361): of shared memory; a lease is only stored to and read (R366). -/
def stationAtomicServe (s : State) (die stn pkg sdie pa : Nat) (op : AtomOp) (wide : Bool) (x y : DWord) : Option State :=
  let n := atomSize wide
  if !s.fit.stations.contains die ∨ pa % n ≠ 0 then none
  else match stationAt s die stn pkg sdie pa n with
    | none => some (refuseAnswer s n false none)
    | some (d, _, e) =>
      if e.spec.lease then some (refuseAnswer s n false none)
      else
        let (old, s) := farAtomic ((s.toll die 9 n).carry die pa n true) d pa op wide x y
        some (answer s (leBytes n old.toNat))

/-! ## The events -/

/-- HOST_ACCESS (R356). -/
def execHostAccess (s : State) : Out :=
  match s.model.ev with
  | some (.hostAccess pa n wr) => happens s (hostServe s pa n wr)
  | _ => .next s.pass

/-- HOST_ATOMICOP (R356). -/
def execHostAtomicop (s : State) : Out :=
  match s.model.ev with
  | some (.hostAtomicop op pa wide val cmp) => happens s (hostAtomicServe s op pa wide val cmp)
  | _ => .next s.pass

/-- CXL_UNSUPPORTED_REQUEST (R354). -/
def execCxlUnsupportedRequest (s : State) : Out :=
  match s.model.ev with
  | some (.cxlUnsupportedRequest port code) => happens s (unsupportedReq s port code)
  | _ => .next s.pass

/-- BISNP_RECEIVED (R358, R361). -/
def execBisnpReceived (s : State) : Out :=
  match s.model.ev with
  | some (.bisnpReceived die pa) => happens s (giveLine s die pa)
  | _ => .next s.pass

/-- HOST_SNOOP (R357, R358). -/
def execHostSnoop (s : State) : Out :=
  match s.model.ev with
  | some (.hostSnoop die pa) => happens s (giveLine s die pa)
  | _ => .next s.pass

/-- LINK_LOSS (R365); the port works no more (R434). -/
def execLinkLoss (s : State) : Out :=
  match s.model.ev with
  | some (.linkLoss die) => happens s ((portLost s die cLost).map (fun s => s.updMg die (fun m => { m with portDown := true })))
  | _ => .next s.pass

/-- SURPRISE_REMOVAL (R365); the port works no more (R434). -/
def execSurpriseRemoval (s : State) : Out :=
  match s.model.ev with
  | some (.surpriseRemoval die) => happens s ((portLost s die cLost).map (fun s => s.updMg die (fun m => { m with portDown := true })))
  | _ => .next s.pass

/-- VIRAL_INDICATION (R365). -/
def execViralIndication (s : State) : Out :=
  match s.model.ev with
  | some (.viralIndication die) => happens s (portLost s die cViral)
  | _ => .next s.pass

/-- EXPANDER_REQUEST (R363). -/
def execExpanderRequest (s : State) : Out :=
  match s.model.ev with
  | some (.expanderRequest die pbr pa n wr) => happens s (expServe s die pbr pa n wr)
  | some (.expanderAtomic die pbr pa op wide x y) => happens s (expAtomic s die pbr pa op wide x y)
  | _ => .next s.pass

/-- STATION_REQUEST (R366). -/
def execStationRequest (s : State) : Out :=
  match s.model.ev with
  | some (.stationRequest die stn pkg sdie pa n wr) => happens s (stationServe s die stn pkg sdie pa n wr)
  | some (.stationAtomic die stn pkg sdie pa op wide x y) => happens s (stationAtomicServe s die stn pkg sdie pa op wide x y)
  | _ => .next s.pass

end Sys2Proof.Machine
end

