-- ==== Sys2Proof/Machine/Service.lean ====
section
/-! DEFINITION. Power, boot and reset (R421, R422, R426, R427), throttling and the thermal trip (R432), and failing cores and dies (R434). -/

namespace Sys2Proof.Machine

/-! ## Fuses (R426, R427) -/

/-- Every half-blown step completed. -/
def completeFuses (fs : List (Bool × Bool)) : List (Bool × Bool) := fs.map (fun f => (f.1 || f.2, f.1 || f.2))

/-- Steps blown until the count reaches a version. -/
def blowTo (v : Nat) (fs : List (Bool × Bool)) : List (Bool × Bool) := fs.mapIdx (fun i f => if i < v then (true, true) else f)

/-! ## Boot (R421, R422) -/

/-- Fresh link keys of a die (R344). -/
def linkKeys (s : State) (die : Nat) : State :=
  let (a, s) := drawLink s
  let (b, s) := drawLink s
  s.updMg die (fun m => { m with keys := some { m.keys.getD {} with link0 := a, link1 := b } })

def setHstate (s : State) (n : Nat) : State := { s with pkg := { s.pkg with hstate := n } }

/-- The dies of the package that are not retired. -/
def liveDies (s : State) : List Nat := (List.range s.fit.dies).filter (fun d => !(s.die d).mg.retired)

/-- What a die keeps of its management state when the package starts again: what is worn out or replaced for good (R28, R434, R435), and unless power
was lost its toll counters and their chain (R430). -/
def keptMgmt (m : DieMgmt) (power : Bool) : DieMgmt :=
  let k : DieMgmt := { spares := m.spares, failedCores := m.failedCores, retired := m.retired, fenced := m.fenced, failingRows := m.failingRows, rowsUsed := m.rowsUsed }
  if power then k
  else { k with tolls := m.tolls, tollN := m.tollN, tollH := m.tollH, tollWorld := m.tollWorld, lseq := m.lseq, final := m.final, lastSnap := m.lastSnap }

/-- The package before a boot: every register and unit at its reset value, fuses, logs and worn parts as they are; CYCLE stays unless power was
lost (R38), and so does what memory holds. -/
def coldStart (s : State) (power : Bool) : State :=
  { State.reset with
    fit := s.fit,
    pkg := { fuses := s.pkg.fuses, log := s.pkg.log },
    mem := if power then { far := s.mem.far } else { s.mem with berth := [] },
    dies := (List.range s.fit.dies).map (fun d => (d, { cycle := if power then 0 else (s.die d).cycle, mg := keptMgmt (s.die d).mg power })),
    cores := (s.cores.filter (fun e => e.2.fenced)).map (fun e => (e.1, { fenced := true })),
    model := s.model }

/-- Loss of power while a patch is accepted (R427): the steps below `k` are blown, and of step `k` fuse A where `half` says so. -/
def cutFuses (k : Nat) (half : Bool) (fs : List (Bool × Bool)) : List (Bool × Bool) :=
  (blowTo k fs).modify k (fun f => (f.1 || half, f.2))

/-- Deck's image is measured, and a bad one replaced by the ROM's, which is measured (R422). -/
def startDeck (s : State) (b : BootRun) : State :=
  { s with pkg := { s.pkg with deckMeasure := if b.deckOk then b.deckHash else Config.recoveryHash } }

/-- A failure at a step of the boot enters BOOTFAIL, the steps before it done (R422); where power goes while the fuses are blown, the package is off
(R427). -/
def boot (s : State) (b : BootRun) : State :=
  let fails := fun (k : Nat) => b.failing == some k
  if fails 1 then setHstate s 7
  else
    let s := { s with pkg := { s.pkg with fuses := completeFuses s.pkg.fuses } }
    if fails 2 || decide (b.version < fuseCount s.pkg.fuses) then setHstate s 7
    else match b.cut.filter (fun e => decide (fuseCount s.pkg.fuses ≤ e.1) && decide (e.1 < min b.version 64)) with
    | some (k, half) => coldStart { s with pkg := { s.pkg with fuses := cutFuses k half s.pkg.fuses } } true
    | none =>
      let s := { s with pkg := { s.pkg with fuses := blowTo b.version s.pkg.fuses } }
      if fails 3 then setHstate s 7
      else
        let (id_, s) := s.draw
        let s := foldNames { s with pkg := { s.pkg with bootid := id_ } } (liveDies s) linkKeys
        if fails 4 then setHstate s 7
        else
          let s := startDeck s b
          if fails 5 then setHstate s 7
          else
            let s := foldNames s (liveDies s) repairRows
            if fails 6 || fails 7 then setHstate s 7
            else setHstate (foldNames s (liveDies s) (fun s d => latchDie s d 0 0)) 2

/-- POWER_GOOD (R38, R421): CYCLE begins at 0. -/
def powerOn (s : State) (b : BootRun) : Option State :=
  if s.pkg.hstate ≠ 0 then none
  else some (boot (setHstate { s with dies := FMap.mapV s.dies (fun _ (x : Die) => { x with cycle := 0 }) } 1) b)

/-- PACKAGE_RESET (R421): from any state to HELM_INIT, and a boot. -/
def resetPackage (s : State) (b : BootRun) : State := boot (setHstate (coldStart s false) 1) b

/-- POWER_LOSS (R425, R427): every context and key goes; the fuses are as they are. -/
def losePower (s : State) : State := coldStart s true

/-! ## Deck (R432) -/

/-- DECK_THROTTLE: issue cycles withheld in sixteenths; the temperature is a free value, below 105 °C where nothing is withheld, and below that of the
trip. -/
def throttle (s : State) (die step : Nat) : Option State :=
  if s.fit.dies ≤ die ∨ step > 16 ∨ s.pkg.hstate = 0 then none
  else
    let (t, s) := s.draw
    some (s.updMg die (fun m => { m with throttle := step, temp := BitVec.ofNat 8 (t.toNat % (if step = 0 then 105 else 115)) }))

/-- THERMAL_TRIP: from 115 °C on Deck removes the power and logs it. -/
def thermal (s : State) (temp : Byte) : Option State :=
  if temp.toNat < 115 then none else some ((coldStart s true).logged (.trip temp))

/-! ## Failures (R434) -/

/-- The contexts with a group or an operation on a core. -/
def coreContexts (s : State) (die core : Nat) : List Nat :=
  (List.range 64).filter (fun c =>
    anyIn s.groups (fun _ g => g.die == die && g.core == core && g.ctx == c && g.loc == .resident) ||
    anyIn s.ops (fun _ o => o.die == die && o.core == core && o.ctx == c))

/-- A context takes the all-stop line with cause POISON for a core, and one slot that names the core (log entry 29). -/
def poisonCtx (s : State) (die core ctx : Nat) : State :=
  let x := s.ctx die ctx
  (raiseTrap s {
    die := die, ctx := ctx, rung := 2, party := .notice, core := core,
    fault := { cause := cPoison, kind := 1, asid := BitVec.ofNat 16 x.asid, gen := s.gen x.asid } } none).2

/-- CORE_CHECK_FAILURE: the core is fenced; with no spare left for it the die is retired. -/
def coreFails (s : State) (die core : Nat) : Option State :=
  let m := (s.die die).mg
  if s.fit.dies ≤ die ∨ core ≥ 192 ∨ m.failedCores.contains core ∨ m.retired then none
  else
    let s' := (s.updCore die core (fun c => { c with fenced := true })).updMg die (fun m => { m with failedCores := m.failedCores ++ [core] })
    let s' := foldNames s' (coreContexts s die core) (fun s c => poisonCtx s die core c)
    some (if m.spares ≤ m.failedCores.length then retireDie s' die else s')

/-- DIE_LEVEL_UNIT_FAILURE: the die is retired, or fenced. -/
def dieFails (s : State) (die : Nat) : Option State :=
  if s.fit.dies ≤ die ∨ (s.die die).mg.retired then none else some (retireDie s die)

/-! ## The events -/

/-- POWER_GOOD (R422). -/
def execPowerGood (s : State) : Out :=
  match s.model.ev with
  | some (.powerGood b) => happens s (powerOn s b)
  | _ => .next s.pass

/-- PACKAGE_RESET (R421). -/
def execPackageReset (s : State) : Out :=
  match s.model.ev with
  | some (.packageReset b) => .next (resetPackage s b)
  | _ => .next s.pass

/-- POWER_LOSS (R427). -/
def execPowerLoss (s : State) : Out :=
  match s.model.ev with
  | some .powerLoss => .next (losePower s)
  | _ => .next s.pass

/-- DECK_THROTTLE (R432). -/
def execDeckThrottle (s : State) : Out :=
  match s.model.ev with
  | some (.deckThrottle die step) => happens s (throttle s die step)
  | _ => .next s.pass

/-- THERMAL_TRIP (R432). -/
def execThermalTrip (s : State) : Out :=
  match s.model.ev with
  | some (.thermalTrip temp) => happens s (thermal s temp)
  | _ => .next s.pass

/-- CORE_CHECK_FAILURE (R434). -/
def execCoreCheckFailure (s : State) : Out :=
  match s.model.ev with
  | some (.coreCheckFailure die core) => happens s (coreFails s die core)
  | _ => .next s.pass

/-- DIE_LEVEL_UNIT_FAILURE (R434). -/
def execDieLevelUnitFailure (s : State) : Out :=
  match s.model.ev with
  | some (.dieLevelUnitFailure die) => happens s (dieFails s die)
  | _ => .next s.pass

end Sys2Proof.Machine
end

