-- ==== Sys2Proof/Machine/TrapEvents.lean ====
section
/-! DEFINITION. Events of traps and of the all-stop line: delivery (R401), handler timeouts (R404), the line's arrival, stop records and the
delivery of ALLSTOP slots (R393, R397, R407, R408). -/

namespace Sys2Proof.Machine

/-! ## Traps -/

/-- TRAP_DELIVERY (R398, R401): a waiting trap takes a slot, or a slot that waits for a handler place gets one. -/
def trapDelivery (s : State) (k : Nat) : Option State :=
  (FMap.get? s.traps k).bind (fun t =>
    if !mayDeliver s t then none
    else match t.st with
      | .waiting => deliver s k t
      | .slotted => placeHandler s k t
      | _ => none)

/-- Whether a handler group is stopped for its lateness already. -/
def timedOut (s : State) (g : Group) : Bool :=
  match g.holds.trap.bind (FMap.get? s.traps) with
  | some t => (match t.party with | .handler _ _ => true | _ => false)
  | none => false

/-- HANDLER_TIMEOUT (R404): LIMIT cycles have passed since the handler's first instruction. -/
def handlerTimeout (s : State) (gid : Nat) : Option State :=
  (FMap.get? s.groups gid).bind (fun g => match g.kind with
    | .handler tid rung (some t0) =>
      let t := FMap.getD s.traps tid {}
      let limit := bits (trapTmo s g.die t.ctx rung).toNat 31 0
      if limit = 0 ∨ (s.die g.die).cycle ≤ t0 + limit ∨ timedOut s g then none
      else some (lateHandler s gid g tid rung)
    | _ => none)

/-! ## The line -/

/-- A matrix engine met by the line (R407): how many K-steps of a drained K-block it has consumed is a free value, within the K-block's (log entry 24). -/
def stopMatrix (s : State) (o : Nat) : State :=
  match FMap.get? s.ops o with
  | none => s
  | some x =>
    if x.kind = .mcmd ∧ x.st = .running ∧ x.staged.isSome = true ∧ scalesHere x = true then
      let (v, s) := s.draw
      s.updOp o (fun x => { x with kstep := v.toNat % (kSteps x.params x.kb + 1) })
    else s

/-- ALLSTOP_ARRIVAL (R393, R407): the line reaches a die. Groups but handlers stop; a group loses the switch that it owns, and the save
engine keeps its own. -/
def lineArrives (s : State) (die ctx : Nat) : Option State :=
  (s.ctx? die ctx).bind (fun x => x.line.bind (fun l =>
    if l.since.isSome then none
    else
      let now := (s.die die).cycle
      let s := s.updCtx die ctx (fun x =>
        { x with line := some { l with since := some now },
                 switch := x.switch.map (fun w => { w with owner := none }) })
      let s := { s with cores := FMap.mapV s.cores (fun k (c : Core) =>
        let start := fun (h : Chan) => match h.chains.head?.bind (FMap.get? s.ops) with
          | some x => if x.die == die && x.ctx == ctx then { h with landed := 0, landedAt := 0 } else h
          | none => h
        if k / 256 = die then { c with chan0 := start c.chan0, chan1 := start c.chan1 } else c) }
      let s := foldNames s (namesWhere s.ops (fun _ x => x.die == die && x.ctx == ctx)) stopMatrix
      some (wakeForms (foldNames s (groupsOf s die ctx) (fun s g =>
        lineRest (s.updGroup g (fun g => { g with holds := { g.holds with line := true } })) g)) die)))

/-- The units of a die that write stop records (R408). -/
def stopUnits : List UnitId :=
  (List.range 192).flatMap (fun c => [.core c, .matrix c, .barge c 0, .barge c 1]) ++ [.umx, .mau 0, .mau 1]

/-- A unit's record slot and kind (R408). -/
def unitSlot : UnitId → Nat
  | .core c => 4 * c
  | .matrix c => 4 * c + 1
  | .barge c ch => 4 * c + 2 + ch
  | .umx => 768
  | .mau k => 769 + k
def unitKind : UnitId → Nat
  | .core _ => 1
  | .matrix _ => 2
  | .barge _ _ => 3
  | .umx => 4
  | .mau _ => 5

/-- A unit that exists. -/
def unitOk : UnitId → Bool
  | .core c => decide (c < 192)
  | .matrix c => decide (c < 192)
  | .barge c ch => decide (c < 192) && decide (ch < 2)
  | .umx => true
  | .mau k => decide (k < 2)

/-- The operations of a context at a unit, in order. -/
def unitOps (s : State) (die ctx : Nat) (u : UnitId) : List EngOp :=
  (s.ops.filter (fun e => e.2.die == die && e.2.ctx == ctx && e.2.unit == some u)).map (·.2)

/-- A context's view of a channel, on its core or as a switch has saved it. -/
def stoppedChan (s : State) (die ctx c ch : Nat) : Chan :=
  let x := s.ctx die ctx
  match x.sw, x.switch with
  | .saved, some w => match w.recs.find? (fun r => r.core == c) with
    | some r => if ch = 0 then r.chan0 else r.chan1
    | none => {}
  | _, _ => (s.core die c).chan ch

/-- STATE, OPADDR and PROGRESS of a unit's stop record (R408). -/
def stopAt (s : State) (die ctx : Nat) (u : UnitId) : Nat × DWord × Nat :=
  let ops := unitOps s die ctx u
  let busy := ops.find? (fun x => x.st != .queued)
  match u with
  | .core c =>
    let n := ((groupsOf s die ctx).filter (fun g => let x := FMap.getD s.groups g {}; x.core == c && (x.loc == .resident || x.loc == .saved))).length
    (if n = 0 then 0 else 1, 0, n)
  | .barge c ch =>
    match ops.head?, (stoppedChan s die ctx c ch).cur, busy with
    | none, _, _ => (0, 0, 0)
    | some _, some r, some _ => (2, r.addr, r.moved)
    | some x, _, _ => (1, x.addr, 0)
  | _ =>
    match ops.head?, busy with
    | none, _ => (0, 0, 0)
    | some _, some x => (2, x.addr, match u with | .mau _ => x.segTile | _ => x.kb)
    | some x, none => (1, x.addr, 0)

/-- AUX of a unit's stop record (R408): the K-steps of the current K-block that a matrix engine has consumed, the requests that a channel has completed
since the line's arrival. -/
def stopAux (s : State) (die ctx : Nat) (u : UnitId) : Nat :=
  match u, (unitOps s die ctx u).find? (fun x => x.st != .queued) with
  | .matrix _, some x => x.kstep
  | .barge c ch, some _ => (stoppedChan s die ctx c ch).landed
  | _, _ => 0

/-- The earliest cycle at which a unit can have stopped, after the last request that a channel completed in its skid (R407). -/
def stoppedFrom (s : State) (die ctx : Nat) (u : UnitId) : Nat :=
  match u with | .barge c ch => (stoppedChan s die ctx c ch).landedAt | _ => 0

/-- A stop record (R408). -/
def stopBytes (s : State) (die ctx : Nat) (u : UnitId) (cause : Byte) (cycle skid : Nat) : List Byte :=
  let (st, a, p) := stopAt s die ctx u
  padTo 64 ([1, b8 (unitKind u)] ++ leBytes 2 (unitSlot u) ++ [cause, b8 st, 0, 0] ++ leBytes 8 cycle ++ leBytes 8 a.toNat ++ leBytes 8 p ++ leBytes 8 (stopAux s die ctx u) ++
    leBytes 4 skid)

/-- The context whose area takes a context's stop records on a die, if one is valid (R397). -/
def stopArea (s : State) (die ctx : Nat) : Option Nat :=
  if stopValid (s.ctx die ctx) then some ctx
  else if stopValid (s.ctx die (hctxOf s die)) then some (hctxOf s die) else none

/-- Whether another context's records stand in HCTX's area until its line is lowered (R397). -/
def areaTaken (s : State) (die ctx : Nat) : Bool :=
  !stopValid (s.ctx die ctx) && anyIn s.ctxs (fun k x => k % 64 != ctx && !stopValid x && (vfDies s die).contains (k / 64) && hctxOf s (k / 64) == hctxOf s die &&
    (match x.line with | some l => !l.done.isEmpty | none => false))

/-- STOP_RECORD_WRITE (R408): a unit that has stopped within its skid bound writes its record; one that cannot be written in HCTX's area is a fault of
HCTX's context (R441). -/
def stopRecord (s : State) (die ctx : Nat) (u : UnitId) (skid : Word) : Option State :=
  let x := s.ctx die ctx
  match x.line, stopArea s die ctx with
  | some l, some area =>
    match l.since with
    | none => none
    | some t =>
      if !unitOk u || l.done.contains u || decide (skid.toNat > unitSkid u) || decide ((s.die die).cycle < t + skid.toNat) || decide (t + skid.toNat < stoppedFrom s die ctx u) || areaTaken s die ctx ||
          unitHeld s die area (.stopRec u) then none
      else
        let base := (s.ctx die area).stopbase &&& ~~~0x7FFFFF#64
        let va := base + BitVec.ofNat 64 (65536 * die + 64 * unitSlot u)
        match unitWrite s die area va (stopBytes s die ctx u l.cause (t + skid.toNat) skid.toNat) with
        | (.error (e, a), s) => some (raiseUnit s die area 8 (.stopRec u) e.cause a)
        | (.ok _, s) => some (s.updCtx die ctx (fun x => { x with line := x.line.map (fun l => { l with done := u :: l.done }) }))
  | _, _ => none

/-- Whether a die has done all it does before the delivery (R397, R408). -/
def dieStopped (s : State) (die ctx : Nat) : Bool :=
  match (s.ctx die ctx).line with
  | some l => l.since.isSome && ((stopArea s die ctx).isNone || stopUnits.all (fun u => l.done.contains u))
  | none => false

/-- ALLSTOP_DELIVERY (R397, R408): every die has written its records; the ALLSTOP slots may go out, with NOREC where records are missing. -/
def allstopDelivery (s : State) (die ctx : Nat) : Option State :=
  (s.ctx? die ctx).bind (fun x => x.line.bind (fun l =>
    if l.delivered || !x.dies.all (fun d => dieStopped s d ctx) then none
    else
      let norec := x.dies.any (fun d => (stopArea s d ctx).isNone || (match (s.ctx d ctx).line with | some l => l.norec | none => false))
      let s := foldNames s x.dies (fun s d => s.updCtx d ctx (fun x => { x with line := x.line.map (fun l => { l with delivered := true, norec := norec }) }))
      some { s with traps := FMap.mapV s.traps (fun _ (t : Trap) =>
        if t.ctx == ctx && x.dies.contains t.die && t.allstop then { t with norec := norec } else t) }))

/-! ## The events -/

/-- TRAP_DELIVERY (R401). -/
def execTrapDelivery (s : State) : Out :=
  match s.model.ev with
  | some (.trapDelivery k) => happens s (trapDelivery s k)
  | _ => .next s.pass

/-- HANDLER_TIMEOUT (R404). -/
def execHandlerTimeout (s : State) : Out :=
  match s.model.ev with
  | some (.handlerTimeout gid) => happens s (handlerTimeout s gid)
  | _ => .next s.pass

/-- ALLSTOP_ARRIVAL (R407). -/
def execAllstopArrival (s : State) : Out :=
  match s.model.ev with
  | some (.allstopArrival die ctx) => happens s (lineArrives s die ctx)
  | _ => .next s.pass

/-- STOP_RECORD_WRITE (R408). -/
def execStopRecordWrite (s : State) : Out :=
  match s.model.ev with
  | some (.stopRecordWrite die ctx u skid) => happens s (stopRecord s die ctx u skid)
  | _ => .next s.pass

/-- ALLSTOP_DELIVERY (R408). -/
def execAllstopDelivery (s : State) : Out :=
  match s.model.ev with
  | some (.allstopDelivery die ctx) => happens s (allstopDelivery s die ctx)
  | _ => .next s.pass

end Sys2Proof.Machine
end

