-- ==== Sys2Proof/Machine/Dispatch.lean ====
section
/-! DEFINITION. The dispatch of instructions to their meanings, one arm a constructor. -/

namespace Sys2Proof.Machine

def exec (i : Instr) (s : State) : Host.Outcome State Fault Refusal :=
  match i with
  | .addB32 d a b => Sys2Proof.Machine.execAddB32 d a b s
  | .subB32 d a b => Sys2Proof.Machine.execSubB32 d a b s
  | .addB64 d a b => Sys2Proof.Machine.execAddB64 d a b s
  | .mulB32 d a b => Sys2Proof.Machine.execMulB32 d a b s
  | .mulhS32 d a b => Sys2Proof.Machine.execMulhS32 d a b s
  | .mulhN32 d a b => Sys2Proof.Machine.execMulhN32 d a b s
  | .macB32 d a b => Sys2Proof.Machine.execMacB32 d a b s
  | .minS32 d a b => Sys2Proof.Machine.execMinS32 d a b s
  | .maxS32 d a b => Sys2Proof.Machine.execMaxS32 d a b s
  | .and d a b => Sys2Proof.Machine.execAnd d a b s
  | .or d a b => Sys2Proof.Machine.execOr d a b s
  | .xor d a b => Sys2Proof.Machine.execXor d a b s
  | .shl d a b => Sys2Proof.Machine.execShl d a b s
  | .shrN32 d a b => Sys2Proof.Machine.execShrN32 d a b s
  | .shrS32 d a b => Sys2Proof.Machine.execShrS32 d a b s
  | .fsh d a b => Sys2Proof.Machine.execFsh d a b s
  | .bfe d a b => Sys2Proof.Machine.execBfe d a b s
  | .bfi d a b => Sys2Proof.Machine.execBfi d a b s
  | .mov d a => Sys2Proof.Machine.execMov d a s
  | .shlImm d a n => Sys2Proof.Machine.execShlImm d a n s
  | .not d a => Sys2Proof.Machine.execNot d a s
  | .shrN32Imm d a n => Sys2Proof.Machine.execShrN32Imm d a n s
  | .neg d a => Sys2Proof.Machine.execNeg d a s
  | .shrS32Imm d a n => Sys2Proof.Machine.execShrS32Imm d a n s
  | .absS32 d a => Sys2Proof.Machine.execAbsS32 d a s
  | .popc d a => Sys2Proof.Machine.execPopc d a s
  | .clz d a => Sys2Proof.Machine.execClz d a s
  | .brev d a => Sys2Proof.Machine.execBrev d a s
  | .movSpecial d j => Sys2Proof.Machine.execMovSpecial d j s
  | .rotImm d a k => Sys2Proof.Machine.execRotImm d a k s
  | .lea d a k => Sys2Proof.Machine.execLea d a k s
  | .leaX4 d a k => Sys2Proof.Machine.execLeaX4 d a k s
  | .movi d j => Sys2Proof.Machine.execMovi d j s
  | .addi d j => Sys2Proof.Machine.execAddi d j s
  | .cmpi e a b k => Sys2Proof.Machine.execCmpi e a b k s
  | .plop e f h t => Sys2Proof.Machine.execPlop e f h t s
  | .voteAny e f => Sys2Proof.Machine.execVoteAny e f s
  | .voteAll e f => Sys2Proof.Machine.execVoteAll e f s
  | .voteBallot f k => Sys2Proof.Machine.execVoteBallot f k s
  | .voteEq e f => Sys2Proof.Machine.execVoteEq e f s
  | .faddF32 d a b => Sys2Proof.Machine.execFaddF32 d a b s
  | .fsubF32 d a b => Sys2Proof.Machine.execFsubF32 d a b s
  | .fmulF32 d a b => Sys2Proof.Machine.execFmulF32 d a b s
  | .fmacF32 d a b => Sys2Proof.Machine.execFmacF32 d a b s
  | .fmaF32 d a k => Sys2Proof.Machine.execFmaF32 d a k s
  | .fmaF32Neg d a k => Sys2Proof.Machine.execFmaF32Neg d a k s
  | .fminF32 d a b => Sys2Proof.Machine.execFminF32 d a b s
  | .fmaxF32 d a b => Sys2Proof.Machine.execFmaxF32 d a b s
  | .cmpf e a b k => Sys2Proof.Machine.execCmpf e a b k s
  | .fabsF32 d a => Sys2Proof.Machine.execFabsF32 d a s
  | .fnegF32 d a => Sys2Proof.Machine.execFnegF32 d a s
  | .fclassF32 d a => Sys2Proof.Machine.execFclassF32 d a s
  | .frndF32 d a r => Sys2Proof.Machine.execFrndF32 d a r s
  | .hadd2Bf16 d a b => Sys2Proof.Machine.execHadd2Bf16 d a b s
  | .hmul2Bf16 d a b => Sys2Proof.Machine.execHmul2Bf16 d a b s
  | .hfma2Bf16 d a b => Sys2Proof.Machine.execHfma2Bf16 d a b s
  | .hadd2F16 d a b => Sys2Proof.Machine.execHadd2F16 d a b s
  | .hmul2F16 d a b => Sys2Proof.Machine.execHmul2F16 d a b s
  | .hfma2F16 d a b => Sys2Proof.Machine.execHfma2F16 d a b s
  | .dot4E4m3 d a b => Sys2Proof.Machine.execDot4E4m3 d a b s
  | .faddF322a d a r z => Sys2Proof.Machine.execFaddF322a d a r z s
  | .fsubF322a d a r z => Sys2Proof.Machine.execFsubF322a d a r z s
  | .fmulF322a d a r z => Sys2Proof.Machine.execFmulF322a d a r z s
  | .hadd2Bf162a d a r z => Sys2Proof.Machine.execHadd2Bf162a d a r z s
  | .hmul2Bf162a d a r z => Sys2Proof.Machine.execHmul2Bf162a d a r z s
  | .hadd2F162a d a r z => Sys2Proof.Machine.execHadd2F162a d a r z s
  | .hmul2F162a d a r z => Sys2Proof.Machine.execHmul2F162a d a r z s
  | .cvtEncF16 d a r => Sys2Proof.Machine.execCvtEncF16 d a r s
  | .cvtEncBf16 d a r => Sys2Proof.Machine.execCvtEncBf16 d a r s
  | .cvtEncE4m3 d a r => Sys2Proof.Machine.execCvtEncE4m3 d a r s
  | .cvtEncE5m2 d a r => Sys2Proof.Machine.execCvtEncE5m2 d a r s
  | .cvtEncS32 d a r => Sys2Proof.Machine.execCvtEncS32 d a r s
  | .cvtEncN32 d a r => Sys2Proof.Machine.execCvtEncN32 d a r s
  | .cvtDecF16 d a => Sys2Proof.Machine.execCvtDecF16 d a s
  | .cvtDecBf16 d a => Sys2Proof.Machine.execCvtDecBf16 d a s
  | .cvtDecE4m3 d a => Sys2Proof.Machine.execCvtDecE4m3 d a s
  | .cvtDecE5m2 d a => Sys2Proof.Machine.execCvtDecE5m2 d a s
  | .cvtDecS32 d a r => Sys2Proof.Machine.execCvtDecS32 d a r s
  | .cvtDecN32 d a r => Sys2Proof.Machine.execCvtDecN32 d a r s
  | .cvtPkBf16 d a r => Sys2Proof.Machine.execCvtPkBf16 d a r s
  | .cvtPkF16 d a r => Sys2Proof.Machine.execCvtPkF16 d a r s
  | .cvtPk2E4m3 d a r => Sys2Proof.Machine.execCvtPk2E4m3 d a r s
  | .cvtPk2E5m2 d a r => Sys2Proof.Machine.execCvtPk2E5m2 d a r s
  | .cvtBlkPk d a r => Sys2Proof.Machine.execCvtBlkPk d a r s
  | .cvtBlkEnc d a r => Sys2Proof.Machine.execCvtBlkEnc d a r s
  | .cvtBlkDec d a k => Sys2Proof.Machine.execCvtBlkDec d a k s
  | .bscale d a => Sys2Proof.Machine.execBscale d a s
  | .bscaleKeepx d a => Sys2Proof.Machine.execBscaleKeepx d a s
  | .rcp d a => Sys2Proof.Machine.execRcp d a s
  | .rsq d a => Sys2Proof.Machine.execRsq d a s
  | .sqrt d a => Sys2Proof.Machine.execSqrt d a s
  | .exp2 d a => Sys2Proof.Machine.execExp2 d a s
  | .log2 d a => Sys2Proof.Machine.execLog2 d a s
  | .sin d a => Sys2Proof.Machine.execSin d a s
  | .cos d a => Sys2Proof.Machine.execCos d a s
  | .sincos d a => Sys2Proof.Machine.execSincos d a s
  | .tanh d a => Sys2Proof.Machine.execTanh d a s
  | .qxchPair d a => Sys2Proof.Machine.execQxchPair d a s
  | .qxchHalf d a => Sys2Proof.Machine.execQxchHalf d a s
  | .qxchDiag d a => Sys2Proof.Machine.execQxchDiag d a s
  | .qxchBc d a k => Sys2Proof.Machine.execQxchBc d a k s
  | .qred d a o => Sys2Proof.Machine.execQred d a o s
  | .shflUp d a n => Sys2Proof.Machine.execShflUp d a n s
  | .shflDown d a n => Sys2Proof.Machine.execShflDown d a n s
  | .shflXor d a n => Sys2Proof.Machine.execShflXor d a n s
  | .perm d a b => Sys2Proof.Machine.execPerm d a b s
  | .topkMax d a k => Sys2Proof.Machine.execTopkMax d a k s
  | .topkMin d a k => Sys2Proof.Machine.execTopkMin d a k s
  | .vx d j k => Sys2Proof.Machine.execVx d j k s
  | .vxw d j k => Sys2Proof.Machine.execVxw d j k s
  | .ldB32 d a k => Sys2Proof.Machine.execLdB32 d a k s
  | .ldB64 d a k => Sys2Proof.Machine.execLdB64 d a k s
  | .stB32 d a k => Sys2Proof.Machine.execStB32 d a k s
  | .stB64 d a k => Sys2Proof.Machine.execStB64 d a k s
  | .ldsB32 d a k => Sys2Proof.Machine.execLdsB32 d a k s
  | .ldsB64 d a k => Sys2Proof.Machine.execLdsB64 d a k s
  | .stsB32 d a k => Sys2Proof.Machine.execStsB32 d a k s
  | .stsB64 d a k => Sys2Proof.Machine.execStsB64 d a k s
  | .ldB128 d a k => Sys2Proof.Machine.execLdB128 d a k s
  | .ldsB128 d a k => Sys2Proof.Machine.execLdsB128 d a k s
  | .stB128 d a k => Sys2Proof.Machine.execStB128 d a k s
  | .stsB128 d a k => Sys2Proof.Machine.execStsB128 d a k s
  | .ldN8 d a k => Sys2Proof.Machine.execLdN8 d a k s
  | .ldS8 d a k => Sys2Proof.Machine.execLdS8 d a k s
  | .ldN16 d a k => Sys2Proof.Machine.execLdN16 d a k s
  | .ldS16 d a k => Sys2Proof.Machine.execLdS16 d a k s
  | .stB8 d a k => Sys2Proof.Machine.execStB8 d a k s
  | .stB16 d a k => Sys2Proof.Machine.execStB16 d a k s
  | .ldsN8 d a k => Sys2Proof.Machine.execLdsN8 d a k s
  | .ldsN16 d a k => Sys2Proof.Machine.execLdsN16 d a k s
  | .stsB8 d a k => Sys2Proof.Machine.execStsB8 d a k s
  | .stsB16 d a k => Sys2Proof.Machine.execStsB16 d a k s
  | .ldyB32 d a k => Sys2Proof.Machine.execLdyB32 d a k s
  | .pref l a k => Sys2Proof.Machine.execPref l a k s
  | .ldkv d a k => Sys2Proof.Machine.execLdkv d a k s
  | .ldkvTrap d a k => Sys2Proof.Machine.execLdkvTrap d a k s
  | .dldB32 n a k => Sys2Proof.Machine.execDldB32 n a k s
  | .dstB32 n a k => Sys2Proof.Machine.execDstB32 n a k s
  | .accrd d a t f r => Sys2Proof.Machine.execAccrd d a t f r s
  | .accwr d a t => Sys2Proof.Machine.execAccwr d a t s
  | .atom d a o p w => Sys2Proof.Machine.execAtom d a o p w s
  | .cas d a p w => Sys2Proof.Machine.execCas d a p w s
  | .atomPub d a o p w => Sys2Proof.Machine.execAtomPub d a o p w s
  | .casPub d a p w => Sys2Proof.Machine.execCasPub d a p w s
  | .red d a o p w => Sys2Proof.Machine.execRed d a o p w s
  | .ldSub d a p w => Sys2Proof.Machine.execLdSub d a p w s
  | .minN32 d a => Sys2Proof.Machine.execMinN32 d a s
  | .maxN32 d a => Sys2Proof.Machine.execMaxN32 d a s
  | .rot d a => Sys2Proof.Machine.execRot d a s
  | .rotr d a => Sys2Proof.Machine.execRotr d a s
  | .addS32Sat d a => Sys2Proof.Machine.execAddS32Sat d a s
  | .subS32Sat d a => Sys2Proof.Machine.execSubS32Sat d a s
  | .sel d a n => Sys2Proof.Machine.execSel d a n s
  | .selNot d a n => Sys2Proof.Machine.execSelNot d a n s
  | .sadd d a b => Sys2Proof.Machine.execSadd d a b s
  | .ssub d a b => Sys2Proof.Machine.execSsub d a b s
  | .sand d a b => Sys2Proof.Machine.execSand d a b s
  | .sor d a b => Sys2Proof.Machine.execSor d a b s
  | .sxor d a b => Sys2Proof.Machine.execSxor d a b s
  | .sshl d a b => Sys2Proof.Machine.execSshl d a b s
  | .sshrN32 d a b => Sys2Proof.Machine.execSshrN32 d a b s
  | .sshrS32 d a b => Sys2Proof.Machine.execSshrS32 d a b s
  | .smul d a b => Sys2Proof.Machine.execSmul d a b s
  | .smulhS32 d a b => Sys2Proof.Machine.execSmulhS32 d a b s
  | .smulhN32 d a b => Sys2Proof.Machine.execSmulhN32 d a b s
  | .sminS32 d a b => Sys2Proof.Machine.execSminS32 d a b s
  | .smaxS32 d a b => Sys2Proof.Machine.execSmaxS32 d a b s
  | .sminN32 d a b => Sys2Proof.Machine.execSminN32 d a b s
  | .smaxN32 d a b => Sys2Proof.Machine.execSmaxN32 d a b s
  | .srot d a b => Sys2Proof.Machine.execSrot d a b s
  | .saddB64 d a b => Sys2Proof.Machine.execSaddB64 d a b s
  | .ssubB64 d a b => Sys2Proof.Machine.execSsubB64 d a b s
  | .sandB64 d a b => Sys2Proof.Machine.execSandB64 d a b s
  | .sorB64 d a b => Sys2Proof.Machine.execSorB64 d a b s
  | .sxorB64 d a b => Sys2Proof.Machine.execSxorB64 d a b s
  | .sshlB64 d a b => Sys2Proof.Machine.execSshlB64 d a b s
  | .sshrN64 d a b => Sys2Proof.Machine.execSshrN64 d a b s
  | .sshrS64 d a b => Sys2Proof.Machine.execSshrS64 d a b s
  | .smov d a => Sys2Proof.Machine.execSmov d a s
  | .snot d a => Sys2Proof.Machine.execSnot d a s
  | .spopc d a => Sys2Proof.Machine.execSpopc d a s
  | .sclz d a => Sys2Proof.Machine.execSclz d a s
  | .sbrev d a => Sys2Proof.Machine.execSbrev d a s
  | .sbfeN32 d a b => Sys2Proof.Machine.execSbfeN32 d a b s
  | .sbfeS32 d a b => Sys2Proof.Machine.execSbfeS32 d a b s
  | .sbfi d a b => Sys2Proof.Machine.execSbfi d a b s
  | .sset e a b k => Sys2Proof.Machine.execSset e a b k s
  | .ssel d a b n => Sys2Proof.Machine.execSsel d a b n s
  | .saddi d j => Sys2Proof.Machine.execSaddi d j s
  | .smovi d j => Sys2Proof.Machine.execSmovi d j s
  | .slit d lit => Sys2Proof.Machine.execSlit d lit s
  | .slitAdd d lit => Sys2Proof.Machine.execSlitAdd d lit s
  | .slitAnd d lit => Sys2Proof.Machine.execSlitAnd d lit s
  | .slitOr d lit => Sys2Proof.Machine.execSlitOr d lit s
  | .slitXor d lit => Sys2Proof.Machine.execSlitXor d lit s
  | .sreg d j => Sys2Proof.Machine.execSreg d j s
  | .sandi d j => Sys2Proof.Machine.execSandi d j s
  | .sori d j => Sys2Proof.Machine.execSori d j s
  | .sxori d j => Sys2Proof.Machine.execSxori d j s
  | .qlop e f h t => Sys2Proof.Machine.execQlop e f h t s
  | .bra o => Sys2Proof.Machine.execBra o s
  | .call o => Sys2Proof.Machine.execCall o s
  | .jmp a => Sys2Proof.Machine.execJmp a s
  | .jmpCall a => Sys2Proof.Machine.execJmpCall a s
  | .jmpT n o => Sys2Proof.Machine.execJmpT n o s
  | .jmpF n o => Sys2Proof.Machine.execJmpF n o s
  | .conv a => Sys2Proof.Machine.execConv a s
  | .loop d j => Sys2Proof.Machine.execLoop d j s
  | .spawnL a b n => Sys2Proof.Machine.execSpawnL a b n s
  | .spawnG a b => Sys2Proof.Machine.execSpawnG a b s
  | .spawnB a b => Sys2Proof.Machine.execSpawnB a b s
  | .barArrive j a b => Sys2Proof.Machine.execBarArrive j a b s
  | .barWait j b => Sys2Proof.Machine.execBarWait j b s
  | .barSync j a => Sys2Proof.Machine.execBarSync j a s
  | .barArriveClu j a b => Sys2Proof.Machine.execBarArriveClu j a b s
  | .barWaitClu j b => Sys2Proof.Machine.execBarWaitClu j b s
  | .barSyncClu j a => Sys2Proof.Machine.execBarSyncClu j a s
  | .waitge a b => Sys2Proof.Machine.execWaitge a b s
  | .waitgeSys a b => Sys2Proof.Machine.execWaitgeSys a b s
  | .sld d a b k => Sys2Proof.Machine.execSld d a b k s
  | .sst d a b k => Sys2Proof.Machine.execSst d a b k s
  | .satom o a b p w => Sys2Proof.Machine.execSatom o a b p w s
  | .satomPub o a b p w => Sys2Proof.Machine.execSatomPub o a b p w s
  | .chain c a => Sys2Proof.Machine.execChain c a s
  | .mcmd a => Sys2Proof.Machine.execMcmd a s
  | .attn a => Sys2Proof.Machine.execAttn a s
  | .unmask a => Sys2Proof.Machine.execUnmask a s
  | .coll a => Sys2Proof.Machine.execColl a s
  | .ship a => Sys2Proof.Machine.execShip a s
  | .replay a b => Sys2Proof.Machine.execReplay a b s
  | .csrr d c => Sys2Proof.Machine.execCsrr d c s
  | .csrw d c => Sys2Proof.Machine.execCsrw d c s
  | .trap a r => Sys2Proof.Machine.execTrap a r s
  | .asgen a b => Sys2Proof.Machine.execAsgen a b s
  | .tlbiAsid a => Sys2Proof.Machine.execTlbiAsid a s
  | .tlbiPage a b => Sys2Proof.Machine.execTlbiPage a b s
  | .ctxsvStop a b => Sys2Proof.Machine.execCtxsvStop a b s
  | .ctxsvPart b k => Sys2Proof.Machine.execCtxsvPart b k s
  | .ctxldPlace a b => Sys2Proof.Machine.execCtxldPlace a b s
  | .ctxldPart b k => Sys2Proof.Machine.execCtxldPart b k s
  | .ret => Sys2Proof.Machine.execRet s
  | .convAll => Sys2Proof.Machine.execConvAll s
  | .exit => Sys2Proof.Machine.execExit s
  | .frameOpen => Sys2Proof.Machine.execFrameOpen s
  | .await => Sys2Proof.Machine.execAwait s
  | .yield => Sys2Proof.Machine.execYield s
  | .nop => Sys2Proof.Machine.execNop s
  | .eret => Sys2Proof.Machine.execEret s
  | .brk => Sys2Proof.Machine.execBrk s
  | .tlbiAll => Sys2Proof.Machine.execTlbiAll s
  | .ctxsvRelease => Sys2Proof.Machine.execCtxsvRelease s
  | .ctxldResume => Sys2Proof.Machine.execCtxldResume s
  | .unassignedWord => Sys2Proof.Machine.execUnassignedWord s
  | .varResultWriteback => Sys2Proof.Machine.execVarResultWriteback s
  | .storeRejection => Sys2Proof.Machine.execStoreRejection s
  | .fetchFault => Sys2Proof.Machine.execFetchFault s
  | .endEvent => Sys2Proof.Machine.execEndEvent s
  | .groupEnd => Sys2Proof.Machine.execGroupEnd s
  | .childPlace => Sys2Proof.Machine.execChildPlace s
  | .continuationResume => Sys2Proof.Machine.execContinuationResume s
  | .pendingAgingExchange => Sys2Proof.Machine.execPendingAgingExchange s
  | .ldyBackoffExpiry => Sys2Proof.Machine.execLdyBackoffExpiry s
  | .loadLimitWindow => Sys2Proof.Machine.execLoadLimitWindow s
  | .homeSliceAccess => Sys2Proof.Machine.execHomeSliceAccess s
  | .homeSliceAtomic => Sys2Proof.Machine.execHomeSliceAtomic s
  | .ownershipNotice => Sys2Proof.Machine.execOwnershipNotice s
  | .ownershipClaim => Sys2Proof.Machine.execOwnershipClaim s
  | .asgenInForce => Sys2Proof.Machine.execAsgenInForce s
  | .tlbiComplete => Sys2Proof.Machine.execTlbiComplete s
  | .bridgeAccess => Sys2Proof.Machine.execBridgeAccess s
  | .linkFlitFailure => Sys2Proof.Machine.execLinkFlitFailure s
  | .engineCompletion => Sys2Proof.Machine.execEngineCompletion s
  | .mcmdStart => Sys2Proof.Machine.execMcmdStart s
  | .kblockApply => Sys2Proof.Machine.execKblockApply s
  | .bargeRecordTake => Sys2Proof.Machine.execBargeRecordTake s
  | .bargeDataLand => Sys2Proof.Machine.execBargeDataLand s
  | .slipfillRoom => Sys2Proof.Machine.execSlipfillRoom s
  | .bargeWriteback => Sys2Proof.Machine.execBargeWriteback s
  | .attnSweepStart => Sys2Proof.Machine.execAttnSweepStart s
  | .attnTile => Sys2Proof.Machine.execAttnTile s
  | .unmaskRound => Sys2Proof.Machine.execUnmaskRound s
  | .collEnd => Sys2Proof.Machine.execCollEnd s
  | .collMemberLost => Sys2Proof.Machine.execCollMemberLost s
  | .helmManifestSend => Sys2Proof.Machine.execHelmManifestSend s
  | .manifestCheck => Sys2Proof.Machine.execManifestCheck s
  | .manifestAnswer => Sys2Proof.Machine.execManifestAnswer s
  | .manifestGridEnd => Sys2Proof.Machine.execManifestGridEnd s
  | .replayStart => Sys2Proof.Machine.execReplayStart s
  | .graphNodeLaunch => Sys2Proof.Machine.execGraphNodeLaunch s
  | .graphInstanceEnd => Sys2Proof.Machine.execGraphInstanceEnd s
  | .launchTake => Sys2Proof.Machine.execLaunchTake s
  | .launchFrameReserve => Sys2Proof.Machine.execLaunchFrameReserve s
  | .launchEnd => Sys2Proof.Machine.execLaunchEnd s
  | .blockPlace => Sys2Proof.Machine.execBlockPlace s
  | .gangPlace => Sys2Proof.Machine.execGangPlace s
  | .distributorPreemptRequest => Sys2Proof.Machine.execDistributorPreemptRequest s
  | .preempt => Sys2Proof.Machine.execPreempt s
  | .preemptBackoffExpiry => Sys2Proof.Machine.execPreemptBackoffExpiry s
  | .enginePreemptStop => Sys2Proof.Machine.execEnginePreemptStop s
  | .saveEngineSave => Sys2Proof.Machine.execSaveEngineSave s
  | .saveEngineRestore => Sys2Proof.Machine.execSaveEngineRestore s
  | .trapDelivery => Sys2Proof.Machine.execTrapDelivery s
  | .handlerTimeout => Sys2Proof.Machine.execHandlerTimeout s
  | .allstopArrival => Sys2Proof.Machine.execAllstopArrival s
  | .stopRecordWrite => Sys2Proof.Machine.execStopRecordWrite s
  | .allstopDelivery => Sys2Proof.Machine.execAllstopDelivery s
  | .dbgctlHalt => Sys2Proof.Machine.execDbgctlHalt s
  | .dbgcmdRead => Sys2Proof.Machine.execDbgcmdRead s
  | .dbgcmdWrite => Sys2Proof.Machine.execDbgcmdWrite s
  | .dbgcmdResume => Sys2Proof.Machine.execDbgcmdResume s
  | .dbgcmdStep => Sys2Proof.Machine.execDbgcmdStep s
  | .dbgcmdInvalid => Sys2Proof.Machine.execDbgcmdInvalid s
  | .hostAccess => Sys2Proof.Machine.execHostAccess s
  | .hostAtomicop => Sys2Proof.Machine.execHostAtomicop s
  | .cxlUnsupportedRequest => Sys2Proof.Machine.execCxlUnsupportedRequest s
  | .bisnpReceived => Sys2Proof.Machine.execBisnpReceived s
  | .hostSnoop => Sys2Proof.Machine.execHostSnoop s
  | .linkLoss => Sys2Proof.Machine.execLinkLoss s
  | .surpriseRemoval => Sys2Proof.Machine.execSurpriseRemoval s
  | .viralIndication => Sys2Proof.Machine.execViralIndication s
  | .extentGrant => Sys2Proof.Machine.execExtentGrant s
  | .extentRelease => Sys2Proof.Machine.execExtentRelease s
  | .expanderRequest => Sys2Proof.Machine.execExpanderRequest s
  | .stationRequest => Sys2Proof.Machine.execStationRequest s
  | .spdmSessionSetup => Sys2Proof.Machine.execSpdmSessionSetup s
  | .berthAccess => Sys2Proof.Machine.execBerthAccess s
  | .revocationNotice => Sys2Proof.Machine.execRevocationNotice s
  | .drainWindowClose => Sys2Proof.Machine.execDrainWindowClose s
  | .leaseRevoke => Sys2Proof.Machine.execLeaseRevoke s
  | .lenderServiceEnd => Sys2Proof.Machine.execLenderServiceEnd s
  | .mgmtRegWrite => Sys2Proof.Machine.execMgmtRegWrite s
  | .ctxbindBind => Sys2Proof.Machine.execCtxbindBind s
  | .ctxbindDestroy => Sys2Proof.Machine.execCtxbindDestroy s
  | .hstateStep => Sys2Proof.Machine.execHstateStep s
  | .hypidWrite => Sys2Proof.Machine.execHypidWrite s
  | .worldLatch => Sys2Proof.Machine.execWorldLatch s
  | .pcapWrite => Sys2Proof.Machine.execPcapWrite s
  | .mooringWrite => Sys2Proof.Machine.execMooringWrite s
  | .fwinWrite => Sys2Proof.Machine.execFwinWrite s
  | .asidmapWrite => Sys2Proof.Machine.execAsidmapWrite s
  | .getMeasurementsCurrent => Sys2Proof.Machine.execGetMeasurementsCurrent s
  | .getMeasurementsFinal => Sys2Proof.Machine.execGetMeasurementsFinal s
  | .tollSnapshot => Sys2Proof.Machine.execTollSnapshot s
  | .powerGood => Sys2Proof.Machine.execPowerGood s
  | .packageReset => Sys2Proof.Machine.execPackageReset s
  | .powerLoss => Sys2Proof.Machine.execPowerLoss s
  | .deckThrottle => Sys2Proof.Machine.execDeckThrottle s
  | .thermalTrip => Sys2Proof.Machine.execThermalTrip s
  | .coreCheckFailure => Sys2Proof.Machine.execCoreCheckFailure s
  | .admissionTableWrite => Sys2Proof.Machine.execAdmissionTableWrite s
  | .spdmSessionEnd => Sys2Proof.Machine.execSpdmSessionEnd s
  | .dieLevelUnitFailure => Sys2Proof.Machine.execDieLevelUnitFailure s

end Sys2Proof.Machine
end

