-- ==== Sys2Proof/Machine/Auto.lean ====
section
/-! DEFINITION. The default order of moves (log entry 2): with an empty agenda, the first of these candidates that can move does. The
candidates are what the machine does by itself; what the outside world does, and failures, come only from the agenda. -/

namespace Sys2Proof.Machine

/-- The names of a map. -/
def keysOf {α : Type} (m : FMap α) : List Nat := m.map (·.1)

/-- A group put after every group that has issued no later than it. -/
def byAge (x : Nat × Nat) : List (Nat × Nat) → List (Nat × Nat)
  | [] => [x]
  | y :: ys => if y.2 ≤ x.2 then y :: byAge x ys else x :: y :: ys

/-- The issues, of the group of greatest age first (R231). -/
def issues (s : State) : List Turn :=
  ((s.groups.map (fun (e : Nat × Group) => (e.1, e.2.lastIssue))).foldr byAge []).map (fun e => .issue e.1)

/-- Accesses at their places, results and rejections, notices. -/
def memMoves (s : State) : List Turn :=
  (List.range s.flight.length).flatMap (fun k => [.event (.homeSliceAccess k), .event (.homeSliceAtomic k), .event (.berthAccess k)]) ++
  (List.range s.pkg.notices.length).map (fun k => .event (.ownershipNotice k)) ++
  (List.range s.pkg.backErrs.length).map (fun k => .event (.writeBackRefused k)) ++
  s.groups.flatMap (fun (e : Nat × Group) =>
    (List.range e.2.pend.length).map (fun k => .event (.varResultWriteback e.1 k)) ++
    (List.range e.2.rejects.length).map (fun k => .event (.storeRejection e.1 k)))

/-- The ends and the waits of groups. -/
def groupMoves (s : State) : List Turn :=
  s.groups.flatMap (fun (e : Nat × Group) =>
    (List.range 32).map (fun l => Turn.event (.endEvent e.1 l)) ++
    [.event (.groupEnd e.1), .event (.ldyBackoffExpiry e.1), .event (.asgenInForce e.1), .event (.tlbiComplete e.1), .event (.handlerTimeout e.1),
     .event (.pendingAgingExchange e.1)])

/-- The engines of the cores. -/
def coreMoves (s : State) : List Turn :=
  s.cores.flatMap (fun (e : Nat × Core) =>
    let d := e.1 / 256
    let c := e.1 % 256
    [.event (.mcmdStart d c), .event (.kblockApply d c), .event (.loadLimitWindow d c)] ++
    [0, 1].flatMap (fun ch => [Turn.event (.bargeRecordTake d c ch), .event (.slipfillRoom d c ch), .event (.bargeDataLand d c ch false),
      .event (.bargeWriteback d c ch)]))

/-- The operations of every engine. -/
def opMoves (s : State) : List Turn :=
  s.ops.flatMap (fun (e : Nat × EngOp) => [Turn.event (.attnSweepStart e.1), .event (.attnTile e.1), .event (.collEnd e.1 false []),
    .event (.replayStart e.1), .event (.engineCompletion e.1)])

/-- The units of the dies. -/
def dieMoves (s : State) : List Turn :=
  s.dies.flatMap (fun (e : Nat × Die) => [Turn.event (.unmaskRound e.1), .event (.helmManifestSend e.1), .event (.tollSnapshot e.1),
    .event (.distributorPreemptRequest e.1)] ++ (keysOf e.2.mg.moor).map (fun b => .event (.drainWindowClose e.1 b)) ++
    (keysOf e.2.mg.adm).map (fun k => .event (.lenderServiceEnd e.1 k false)))

/-- Traps, the all-stop lines and switches. -/
def ctxMoves (s : State) : List Turn :=
  (keysOf s.traps).map (fun k => .event (.trapDelivery k)) ++
  s.ctxs.flatMap (fun (e : Nat × Ctx) =>
    let d := e.1 / 64
    let c := e.1 % 64
    (match e.2.line with
      | some _ => .event (.allstopArrival d c) :: (stopUnits.map (fun u => .event (.stopRecordWrite d c u 0))) ++ [Turn.event (.allstopDelivery d c)]
      | none => []) ++
    (match e.2.switch with
      | some w => w.units.map (fun u => .event (.enginePreemptStop d c u)) ++ [Turn.event (.saveEngineSave d c)]
      | none => []) ++ [.event (.preemptBackoffExpiry d c)])

/-- Launches and graphs up to their placement, and their ends. -/
def launchMoves (s : State) : List Turn :=
  s.launches.flatMap (fun (e : Nat × Launch) =>
    [Turn.event (.launchFrameReserve e.1), .event (.launchEnd e.1), .event (.manifestGridEnd e.1)]) ++
  s.insts.flatMap (fun (e : Nat × Inst) =>
    (List.range e.2.nnode).map (fun n => Turn.event (.graphNodeLaunch e.1 n)) ++ [.event (.graphInstanceEnd e.1)]) ++
  s.ctxs.flatMap (fun (e : Nat × Ctx) => (List.range 8).map (fun l => .event (.launchTake (e.1 / 64) (e.1 % 64) l)))

/-- Cores of one hardware cluster, lowest first, with room for a cluster of a launch. -/
def clusterCores (s : State) (die lid : Nat) (l : Launch) : Option (List Nat) :=
  let n := (clusterBlocks l (l.nextCluster die)).length
  (List.range 24).findSome? (fun h =>
    let cs := ((List.range 8).map (fun r => 8 * h + r)).filter (fun c => coreRoom s die c l.ctx l.kernel)
    if n ≤ cs.length ∧ (placeCluster s die lid l (cs.take n)).isSome then some (cs.take n) else none)

/-- Cores for n clusters of a launch on a die, one cluster after another. -/
def shareCores (die lid : Nat) : Nat → State → List Nat × State
  | 0, s => ([], s)
  | n + 1, s =>
    match FMap.get? s.launches lid with
    | none => ([], s)
    | some l =>
      match clusterCores s die lid l with
      | none => ([], s)
      | some cs =>
        let r := shareCores die lid n ((placeCluster s die lid l cs).getD s)
        (cs ++ r.1, r.2)

/-- Placements of blocks, gangs, children and continuations. -/
def placeMoves (s : State) : List Turn :=
  let cores := List.range 192
  s.dies.flatMap (fun (e : Nat × Die) =>
    match headLaunch s e.1 with
    | none => []
    | some (lid, l) =>
      if l.kernel.gang then
        [Turn.event (.gangPlace lid (l.dies.foldl (fun p d => let r := shareCores d lid (l.share d) p.2; (p.1 ++ r.1, r.2)) (([] : List Nat), s)).1)]
      else match clusterCores s e.1 lid l with
        | some cs => [.event (.blockPlace e.1 cs)]
        | none => []) ++
  s.children.flatMap (fun (e : Nat × Child) =>
    if e.2.st ≠ .held then []
    else
      let cids := if e.2.kind = .strand
        then (s.children.filter (fun (f : Nat × Child) => f.2.st == .held && f.2.kind == .strand && f.2.launch == e.2.launch && f.2.record == e.2.record)).map (·.1)
        else [e.1]
      cores.map (fun c => .event (.childPlace cids c))) ++
  s.groups.flatMap (fun (e : Nat × Group) =>
    if e.2.wait = .await ∨ e.2.wait = .awaitPlace then
      match e.2.loc, e.2.frames with
      | .cont _, f :: _ => ((contCore s e.2 (FMap.getD s.frames f {})).map (fun c => Turn.event (.continuationResume e.1 c))).toList
      | _, _ => [.event (.continuationResume e.1 e.2.core)]
    else [])

/-- Restores by the save engine: to the saved cores moved by whole clusters. -/
def restoreMoves (s : State) : List Turn :=
  s.ctxs.flatMap (fun (e : Nat × Ctx) =>
    match e.2.switch with
    | some w => (List.range 24).map (fun h => .event (.saveEngineRestore (e.1 / 64) (e.1 % 64) (w.recs.map (fun r => (r.core + 8 * h) % 192))))
    | none => [])

/-- The candidates in order. -/
def candidates (s : State) : List Turn :=
  memMoves s ++ ctxMoves s ++ groupMoves s ++ coreMoves s ++ opMoves s ++ dieMoves s ++ launchMoves s ++ placeMoves s ++ restoreMoves s ++ issues s

end Sys2Proof.Machine
end

