-- ==== Sys2Proof/Machine/Pending.lean ====
section
/-! DEFINITION. What a step does around an instruction: the pending-read check (R228), the loop buffers of a diverged issue (R218), and
the fetches that stop the group instead of its lanes (R222). -/

namespace Sys2Proof.Machine

/-- The header of an issue whose word was not decoded. -/
def noHdr : Hdr := ⟨false, 7⟩

/-! ## What an instruction reads (R228) -/

/-- Registers and predicates that an instruction reads: n direct registers from r in its lanes, a deep register, n uniform registers from r, a
lane predicate, a uniform predicate. -/
inductive Rd
  | v (r n : Nat)
  | deep (r : Nat)
  | s (r n : Nat)
  | p (r : Nat)
  | q (r : Nat)
deriving DecidableEq, Repr

/-- A direct register, a pair, a uniform register, a uniform pair. -/
def rv (a : BitVec 7) : Rd := .v a.toNat 1
def rv2 (a : BitVec 7) : Rd := .v a.toNat 2
def rs (a : BitVec 6) : Rd := .s a.toNat 1
def rs2 (a : BitVec 6) : Rd := .s a.toNat 2

/-- s60, which the stochastic rounding of mode 5 reads (R103). -/
def rmode (r : Nat) : List Rd := if r = 5 then [.s 60 1] else []

/-- What the operand of a lane atomic reads (R166, R168). -/
def ratom (d : BitVec 7) (o : BitVec 4) (w : BitVec 1) : List Rd :=
  if atomOf o.toNat = AtomOp.read then [] else [.v d.toNat (w.toNat + 1)]

/-- What a SATOM reads (R171): its address, and as its operand one value, or two for CAS. -/
def rsatom (o : BitVec 4) (a b : BitVec 6) (p : BitVec 2) (w : BitVec 1) : List Rd :=
  [.s a.toNat (if p.toNat ≤ 1 then 1 else 2), .s b.toNat ((w.toNat + 1) * (if atomOf o.toNat = AtomOp.cas then 2 else 1))]

/-- The uniform pair of an access's address. -/
def rbase (k : Nat) : Rd := .s (2 * k) 2

/-- What an instruction reads, its guard apart. MCMD's scale registers are named in its block and are checked with it. -/
def readsOf (g : Group) : Instr → List Rd
  | .addB32 _ a b => [rv a, rv b]
  | .subB32 _ a b => [rv a, rv b]
  | .addB64 _ a b => [rv2 a, rv2 b]
  | .mulB32 _ a b => [rv a, rv b]
  | .mulhS32 _ a b => [rv a, rv b]
  | .mulhN32 _ a b => [rv a, rv b]
  | .macB32 d a b => [rv d, rv a, rv b]
  | .minS32 _ a b => [rv a, rv b]
  | .maxS32 _ a b => [rv a, rv b]
  | .and _ a b => [rv a, rv b]
  | .or _ a b => [rv a, rv b]
  | .xor _ a b => [rv a, rv b]
  | .shl _ a b => [rv a, rv b]
  | .shrN32 _ a b => [rv a, rv b]
  | .shrS32 _ a b => [rv a, rv b]
  | .fsh d a b => [rv d, rv a, rv b]
  | .bfe _ a b => [rv a, rv b]
  | .bfi d a b => [rv d, rv a, rv b]
  | .lea _ a k => [rv a, rs2 k]
  | .leaX4 _ a k => [rv a, rs2 k]
  | .addi d _ => [rv d]
  | .movSpecial _ _ => []
  | .movi _ _ => []
  | .cmpi _ a b _ => [rv a, rv b]
  | .plop _ f h _ => [.p f.toNat, .p h.toNat]
  | .voteAny _ f => [.p f.toNat]
  | .voteAll _ f => [.p f.toNat]
  | .voteBallot f _ => [.p f.toNat]
  | .voteEq _ f => [.p f.toNat]
  | .faddF32 _ a b => [rv a, rv b]
  | .fsubF32 _ a b => [rv a, rv b]
  | .fmulF32 _ a b => [rv a, rv b]
  | .fmacF32 d a b => [rv d, rv a, rv b]
  | .fmaF32 d a k => [rv d, rv a, rs k]
  | .fmaF32Neg d a k => [rv d, rv a, rs k]
  | .fminF32 _ a b => [rv a, rv b]
  | .fmaxF32 _ a b => [rv a, rv b]
  | .cmpf _ a b _ => [rv a, rv b]
  | .hadd2Bf16 _ a b => [rv a, rv b]
  | .hmul2Bf16 _ a b => [rv a, rv b]
  | .hfma2Bf16 d a b => [rv d, rv a, rv b]
  | .hadd2F16 _ a b => [rv a, rv b]
  | .hmul2F16 _ a b => [rv a, rv b]
  | .hfma2F16 d a b => [rv d, rv a, rv b]
  | .dot4E4m3 d a b => [rv d, rv a, rv b]
  | .faddF322a d a _ _ => [rv d, rv a]
  | .fsubF322a d a _ _ => [rv d, rv a]
  | .fmulF322a d a _ _ => [rv d, rv a]
  | .hadd2Bf162a d a _ _ => [rv d, rv a]
  | .hmul2Bf162a d a _ _ => [rv d, rv a]
  | .hadd2F162a d a _ _ => [rv d, rv a]
  | .hmul2F162a d a _ _ => [rv d, rv a]
  | .frndF32 _ a _ => [rv a]
  | .cvtEncF16 _ a r => rv a :: rmode r.toNat
  | .cvtEncBf16 _ a r => rv a :: rmode r.toNat
  | .cvtEncE4m3 _ a r => rv a :: rmode r.toNat
  | .cvtEncE5m2 _ a r => rv a :: rmode r.toNat
  | .cvtEncS32 _ a r => rv a :: rmode r.toNat
  | .cvtEncN32 _ a r => rv a :: rmode r.toNat
  | .cvtDecS32 _ a r => rv a :: rmode r.toNat
  | .cvtDecN32 _ a r => rv a :: rmode r.toNat
  | .cvtPkBf16 d a r => [rv d, rv a] ++ rmode r.toNat
  | .cvtPkF16 d a r => [rv d, rv a] ++ rmode r.toNat
  | .cvtPk2E4m3 d a r => [rv d, rv a] ++ rmode r.toNat
  | .cvtPk2E5m2 d a r => [rv d, rv a] ++ rmode r.toNat
  | .cvtBlkPk d a r => [rv d, rv2 a] ++ rmode (5 * r.toNat)
  | .cvtBlkEnc d a r => [rv d, rv2 a] ++ rmode (5 * r.toNat)
  | .cvtBlkDec _ a _ => [rv2 a]
  | .bscaleKeepx d a => [rv d, rv a]
  | .perm _ a b => [rv a, rv b]
  | .topkMax _ a k => [rv a, rs k]
  | .topkMin _ a k => [rv a, rs k]
  | .vx _ i k => [rs k, .deep ((g.sv k).toNat + i.toNat)]
  | .vxw d _ k => [rv d, rs k]
  | .ldB32 _ a k => [rbase k.toNat, rv a]
  | .ldB64 _ a k => [rbase k.toNat, rv a]
  | .ldB128 _ a k => [rbase k.toNat, rv a]
  | .stB32 d a k => [rbase k.toNat, rv a, rv d]
  | .stB64 d a k => [rbase k.toNat, rv a, rv2 d]
  | .stB128 d a k => [rbase k.toNat, rv a, .v d.toNat 4]
  | .ldsB32 _ a k => [.s (2 * k.toNat) 1, rv a]
  | .ldsB64 _ a k => [.s (2 * k.toNat) 1, rv a]
  | .ldsB128 _ a k => [.s (2 * k.toNat) 1, rv a]
  | .stsB32 d a k => [.s (2 * k.toNat) 1, rv a, rv d]
  | .stsB64 d a k => [.s (2 * k.toNat) 1, rv a, rv2 d]
  | .stsB128 d a k => [.s (2 * k.toNat) 1, rv a, .v d.toNat 4]
  | .ldN8 _ a k => [rbase k.toNat, rv a]
  | .ldS8 _ a k => [rbase k.toNat, rv a]
  | .ldN16 _ a k => [rbase k.toNat, rv a]
  | .ldS16 _ a k => [rbase k.toNat, rv a]
  | .stB8 d a k => [rbase k.toNat, rv a, rv d]
  | .stB16 d a k => [rbase k.toNat, rv a, rv d]
  | .ldsN8 _ a k => [.s (2 * k.toNat) 1, rv a]
  | .ldsN16 _ a k => [.s (2 * k.toNat) 1, rv a]
  | .stsB8 d a k => [.s (2 * k.toNat) 1, rv a, rv d]
  | .stsB16 d a k => [.s (2 * k.toNat) 1, rv a, rv d]
  | .ldyB32 d a k => [rbase k.toNat, rv a, rv d]
  | .pref _ a k => [rbase k.toNat, rv a]
  | .ldkv _ a k => [rbase k.toNat, rv a]
  | .ldkvTrap _ a k => [rbase k.toNat, rv a]
  | .dldB32 _ a k => [rbase k.toNat, rv a]
  | .dstB32 n a k => [rbase k.toNat, rv a, .deep n.toNat]
  | .accrd _ a _ _ _ => [rv a]
  | .accwr d a _ => [rv d, rv a]
  | .atom d a o _ w => rv2 a :: ratom d o w
  | .atomPub d a o _ w => rv2 a :: ratom d o w
  | .red d a o _ w => rv2 a :: ratom d o w
  | .cas d a _ w => [rv2 a, .v d.toNat (2 * (w.toNat + 1))]
  | .casPub d a _ w => [rv2 a, .v d.toNat (2 * (w.toNat + 1))]
  | .ldSub _ a _ _ => [rv2 a]
  | .minN32 d a => [rv d, rv a]
  | .maxN32 d a => [rv d, rv a]
  | .rot d a => [rv d, rv a]
  | .rotr d a => [rv d, rv a]
  | .addS32Sat d a => [rv d, rv a]
  | .subS32Sat d a => [rv d, rv a]
  | .sel d a n => [rv d, rv a, .p n.toNat]
  | .selNot d a n => [rv d, rv a, .p n.toNat]
  | .mov _ a => [rv a]
  | .shlImm _ a _ => [rv a]
  | .not _ a => [rv a]
  | .shrN32Imm _ a _ => [rv a]
  | .neg _ a => [rv a]
  | .shrS32Imm _ a _ => [rv a]
  | .absS32 _ a => [rv a]
  | .popc _ a => [rv a]
  | .clz _ a => [rv a]
  | .brev _ a => [rv a]
  | .rotImm _ a _ => [rv a]
  | .fabsF32 _ a => [rv a]
  | .fnegF32 _ a => [rv a]
  | .fclassF32 _ a => [rv a]
  | .cvtDecF16 _ a => [rv a]
  | .cvtDecBf16 _ a => [rv a]
  | .cvtDecE4m3 _ a => [rv a]
  | .cvtDecE5m2 _ a => [rv a]
  | .bscale _ a => [rv a]
  | .rcp _ a => [rv a]
  | .rsq _ a => [rv a]
  | .sqrt _ a => [rv a]
  | .exp2 _ a => [rv a]
  | .log2 _ a => [rv a]
  | .sin _ a => [rv a]
  | .cos _ a => [rv a]
  | .sincos _ a => [rv a]
  | .tanh _ a => [rv a]
  | .qxchPair _ a => [rv a]
  | .qxchHalf _ a => [rv a]
  | .qxchDiag _ a => [rv a]
  | .qxchBc _ a _ => [rv a]
  | .qred _ a _ => [rv a]
  | .shflUp _ a _ => [rv a]
  | .shflDown _ a _ => [rv a]
  | .shflXor _ a _ => [rv a]
  | .sadd _ a b => [rs a, rs b]
  | .ssub _ a b => [rs a, rs b]
  | .sand _ a b => [rs a, rs b]
  | .sor _ a b => [rs a, rs b]
  | .sxor _ a b => [rs a, rs b]
  | .sshl _ a b => [rs a, rs b]
  | .sshrN32 _ a b => [rs a, rs b]
  | .sshrS32 _ a b => [rs a, rs b]
  | .smul _ a b => [rs a, rs b]
  | .smulhS32 _ a b => [rs a, rs b]
  | .smulhN32 _ a b => [rs a, rs b]
  | .sminS32 _ a b => [rs a, rs b]
  | .smaxS32 _ a b => [rs a, rs b]
  | .sminN32 _ a b => [rs a, rs b]
  | .smaxN32 _ a b => [rs a, rs b]
  | .srot _ a b => [rs a, rs b]
  | .saddB64 _ a b => [rs2 a, rs2 b]
  | .ssubB64 _ a b => [rs2 a, rs2 b]
  | .sandB64 _ a b => [rs2 a, rs2 b]
  | .sorB64 _ a b => [rs2 a, rs2 b]
  | .sxorB64 _ a b => [rs2 a, rs2 b]
  | .sshlB64 _ a b => [rs2 a, rs b]
  | .sshrN64 _ a b => [rs2 a, rs b]
  | .sshrS64 _ a b => [rs2 a, rs b]
  | .smov _ a => [rs a]
  | .snot _ a => [rs a]
  | .spopc _ a => [rs a]
  | .sclz _ a => [rs a]
  | .sbrev _ a => [rs a]
  | .sbfeN32 _ a b => [rs a, rs b]
  | .sbfeS32 _ a b => [rs a, rs b]
  | .sbfi d a b => [rs d, rs a, rs b]
  | .sset _ a b _ => [rs a, rs b]
  | .ssel _ a b n => [rs a, rs b, .q n.toNat]
  | .saddi d _ => [rs d]
  | .sandi d _ => [rs d]
  | .sori d _ => [rs d]
  | .sxori d _ => [rs d]
  | .slitAdd d _ => [rs d]
  | .slitAnd d _ => [rs d]
  | .slitOr d _ => [rs d]
  | .slitXor d _ => [rs d]
  | .qlop _ f h _ => [.q f.toNat, .q h.toNat]
  | .jmp a => [rs2 a]
  | .jmpCall a => [rs2 a]
  | .jmpT n _ => [.p n.toNat]
  | .jmpF n _ => [.p n.toNat]
  | .conv a => [rs a]
  | .loop d _ => [rs d]
  | .spawnL a b n => [rs2 a, .p n.toNat, .v (2 * b.toNat) 2]
  | .spawnG a b => [rs2 a, rs2 b]
  | .spawnB a b => [rs2 a, rs2 b]
  | .barArrive _ a _ => [rs a]
  | .barWait _ b => [rs b]
  | .barSync _ a => [rs a]
  | .barArriveClu _ a _ => [rs a]
  | .barWaitClu _ b => [rs b]
  | .barSyncClu _ a => [rs a]
  | .waitge a b => [rs2 a, rs2 b]
  | .waitgeSys a b => [rs2 a, rs2 b]
  | .sld _ a b k => .s a.toNat (if k.getLsbD 2 then 1 else 2) :: (if k.getLsbD 1 then [rs b] else [])
  | .sst d a b k => [.s d.toNat (if k.getLsbD 0 then 2 else 1), .s a.toNat (if k.getLsbD 2 then 1 else 2)] ++
      (if k.getLsbD 1 then [rs b] else [])
  | .satom o a b p w => rsatom o a b p w
  | .satomPub o a b p w => rsatom o a b p w
  | .chain _ a => [rs2 a]
  | .mcmd a => [rs2 a]
  | .attn a => [rs2 a]
  | .unmask a => [rs2 a]
  | .coll a => [rs2 a]
  | .ship a => [rs2 a]
  | .replay a b => [rs2 a, rs2 b]
  | .csrw d _ => [rs2 d]
  | .trap a _ => [rs a]
  | .asgen a _ => [rs a]
  | .tlbiAsid a => [rs a]
  | .tlbiPage a b => [rs2 a, rs b]
  | .ctxsvStop a b => [rs2 a, rs b]
  | .ctxsvPart b _ => [rs b]
  | .ctxldPlace a b => [rs2 a, rs b]
  | .ctxldPart b _ => [rs b]
  | _ => []

/-- Whether an instruction is a lane instruction, its guard a lane predicate (R81), and not a uniform one (R115). -/
def laneForm (i : Instr) : Bool :=
  match i with
  | .plop _ _ _ _ => true
  | .voteAny _ _ => true
  | .voteAll _ _ => true
  | .voteEq _ _ => true
  | .voteBallot _ _ => true
  | .spawnL _ _ _ => false
  | i => !i.laneRegs.isEmpty

/-- The places that a read covers, in some lanes. -/
def Rd.places (ls : List Nat) : Rd → List Dst
  | .v r n => ls.flatMap (fun l => (List.range n).map (fun i => .v (r + i) l))
  | .deep r => ls.map (fun l => .deep r l)
  | .s r n => (List.range n).map (fun i => .s (r + i))
  | .p r => ls.map (fun l => .p r l)
  | .q r => [.q r]

/-- Whether the pending-read check stops an instruction (R228): it is enabled, and a write is outstanding to the guard, or to what the
instruction reads in its lanes. -/
def pendingRead (s : State) (gid : Nat) (h : Hdr) (i : Instr) (lanes : Word) : Bool :=
  match FMap.get? s.groups gid with
  | none => false
  | some g =>
    let all := lanesOf lanes
    let guard : List Dst := if laneForm i then all.map (fun l => .p h.g.toNat l) else [.q h.g.toNat]
    let ls := if laneForm i then all.filter (fun l => g.pred h.g.toNat l) else all
    (dbgWin s g.die g.ctx).prc && !g.pend.isEmpty &&
      (guard ++ (readsOf g i).flatMap (Rd.places ls)).any (fun d => g.outstanding d)

/-! ## Around the instruction -/

/-- The pipe held for an issue (R231), and a handler group's first issue noted (R401). -/
def beginIssue (s : State) (gid : Nat) (g : Group) (w : Word) (n : Nat) : State := beginHandler (holdPipe s gid g w n) gid

/-- After an event nothing of it is left in the model's own fields. -/
def endEvent (s : State) : State := { s with model := { s.model with ev := none, cur := none } }

end Sys2Proof.Machine
end

