-- ==== Sys2Proof/Machine/Step.lean ====
section
/-! DEFINITION. One step of the machine: time passes, and one agent moves: a group issues one instruction, or one event happens. -/

namespace Sys2Proof.Machine

/-- An event takes place, with what it carries in place of an issue. -/
def stepEvent (s : State) (e : Ev) : Host.Outcome State Fault Refusal :=
  match exec e.instr (withEvent s e) with
  | .next s => .next (endEvent s)
  | .fault f => .fault f
  | .refused r => .refused r

/-- A group issues (R216, R231): the set is chosen, the word fetched and decoded, and its meaning applied. A fetch fault is taken by the lanes that
fetched the word, with WORD 0, a SLIT's literal too (log entry 78). -/
def stepIssue (s : State) (gid : Nat) : Host.Outcome State Fault Refusal :=
  match FMap.get? s.groups gid with
  | none => .next s.pass
  | some g =>
    if !canIssue s g then .next s.pass
    else
      let (a, g) := choose (enterActive s g)
      let f := fetchDecode (s.putGroup gid g) gid g a
      if !itsTurn s gid g f.1 then .next s.pass
      else match f with
        | (.instr h i w, s) =>
          let s := beginIssue s gid g w (interval i)
          if pendingRead s gid h i (g.readyAt a) then .next (stopForDebugger s gid)
          else exec i (withIssueOf s gid a (g.readyAt a) h w i.len)
        | (.unassigned w, s) =>
          stepEvent (withIssueOf (beginIssue s gid g w 1) gid a (g.readyAt a) noHdr w 4) (.unassignedWord w)
        | (.failed (.faulted c va), s) =>
          stepEvent (withIssueOf s gid a (fetchers s g a va) noHdr 0 4) (.fetchFault c va)
        | (.failed f, s) => .next (fetchStop (withIssueOf s gid a (g.readyAt a) noHdr 0 4) f)

/-- One move of a named turn. -/
def stepTurn (s : State) (t : Turn) : Host.Outcome State Fault Refusal :=
  match t with
  | .issue gid => stepIssue s gid
  | .event e => stepEvent s e

/-- The first of the default order's candidates that can move (log entry 2); with none, only time passes. -/
def stepAuto (s : State) : List Turn → Host.Outcome State Fault Refusal
  | [] => .next s
  | t :: ts =>
    match stepTurn s t with
    | .next s' => if s'.model.passed then stepAuto s ts else .next s'
    | _ => stepAuto s ts

/-- One step: the head of the agenda moves, or with an empty agenda the default order's first candidate that can. -/
def step (s : State) : Host.Outcome State Fault Refusal :=
  let s := tick s
  match s.model.agenda with
  | t :: ts => stepTurn { s with model := { s.model with agenda := ts } } t
  | [] => stepAuto s (candidates s)

/-- A word placed where the next step fetches: a context bound on die 0, a page of it in core 0's TLB, a group at its start, and the
agenda naming that group (log entry 1). -/
def State.withFetchWord (s : State) (nbits w : Nat) : State :=
  let (blk, s) := s.fresh
  let (gid, s) := s.fresh
  let bytes := leBytes (nbits / 8) w ++ List.replicate (8 - nbits / 8) 0
  let s := { s with mem := { s.mem with bytes := memWriteN s.mem.bytes 0 bytes } }
  let s := s.putCtx 0 0 { dies := [0], ring := 0, asctl := 1 }
  let s := s.updCore 0 0 (fun c => { c with tlb := [⟨0, 0, 30, 0, 0x0F, s.gen 0⟩], icache := [] })
  let s := s.putBlock blk { die := 0, core := 0, ctx := 0, groups := [gid] }
  let s := s.putGroup gid { die := 0, core := 0, ctx := 0, block := blk, lanes := List.replicate 32 { st := .ready } }
  { s with model := { s.model with agenda := [.issue gid], cur := none, ev := none } }

end Sys2Proof.Machine
end

