-- ==== Sys2Proof/Safety.lean ====
section
/-! DEFINITION. The terms that the statements are made in: an issue in progress, the lanes it acts on, what an instruction may change and
what it leaves alone, and the registers it writes. -/

namespace Sys2Proof.Safety

open Sys2Proof.Machine

/-- No stop of the model's own at a state. -/
def Runs (s : State) : Prop := ∃ t, step s = .next t

/-- A group's issue is in progress: the issue `c`, the group `g`, which waits for nothing (R215). -/
def Issuing (s : State) (c : Issue) (g : Group) : Prop := s.model.cur = some c ∧ FMap.get? s.groups c.gid = some g ∧ g.wait = .run

/-- A lane is in ACTIVE: it issues and its guard predicate is true (R81). -/
def active (c : Issue) (g : Group) (l : Nat) : Bool := decide (l < 32) && c.lanes.getLsbD l && g.pred c.hdr.g.toNat l

/-- The registers and predicates of a group (R16, R21, R22). -/
def regs (g : Group) : FMap Reg × FMap Reg × FMap Reg × FMap Word × BitVec 8 := (g.v, g.deep, g.s, g.p, g.q)

/-- A group but for its place in the active set (R231, R232). -/
def still (g : Group) : Group := { g with active := true, entered := 0, readySince := 0 }

/-- A context but for its all-stop line (R407). -/
def noLine (x : Ctx) : Ctx := { x with line := none }

/-- Nothing has changed but the group `gid`, the active sets, the traps raised with their all-stop lines, and the model's own part: every
byte of memory, every CSR, accumulator, slip, cache, block, frame and engine operation is as before, and so is every other group. -/
structure Quiet (s t : State) (gid : Nat) : Prop where
  fit : t.fit = s.fit
  pkg : t.pkg = s.pkg
  mem : t.mem = s.mem
  dies : t.dies = s.dies
  cores : t.cores = s.cores
  blocks : t.blocks = s.blocks
  clusters : t.clusters = s.clusters
  ops : t.ops = s.ops
  launches : t.launches = s.launches
  insts : t.insts = s.insts
  frames : t.frames = s.frames
  children : t.children = s.children
  flight : t.flight = s.flight
  ctxs : ∀ k, (FMap.get? t.ctxs k).map noLine = (FMap.get? s.ctxs k).map noLine
  others : ∀ k, k ≠ gid → (FMap.get? t.groups k).map still = (FMap.get? s.groups k).map still

/-- The issuing lanes of a group stand at given addresses. -/
def At (c : Issue) (g h : Group) (pcs : Nat → DWord) : Prop :=
  ∀ l, l < 32 → l < g.lanes.length → c.lanes.getLsbD l = true → (h.lane l).pc = pcs l

/-- The address after the instruction (R216). -/
def after (c : Issue) : DWord := c.pc + BitVec.ofNat 64 c.len

/-- The issue has written the direct registers that `w` gives (register, lane) in the lanes of ACTIVE, v127 apart (R17); nothing else
of the group's registers has changed, the issuing lanes go on, and all else is quiet. -/
def WritesV (s t : State) (c : Issue) (g : Group) (w : Nat → Nat → Option Reg) : Prop :=
  Quiet s t c.gid ∧ ∃ h, FMap.get? t.groups c.gid = some h ∧
    (∀ r l, l < 32 → h.readV r l = if active c g l = true ∧ r ≠ 127 then (w r l).getD (g.readV r l) else g.readV r l) ∧
    h.deep = g.deep ∧ h.s = g.s ∧ h.p = g.p ∧ h.q = g.q ∧ At c g h (fun _ => after c)

/-- The same for the predicate `e`, p7 apart (R22). -/
def WritesP (s t : State) (c : Issue) (g : Group) (e : Nat) (w : Nat → Bool) : Prop :=
  Quiet s t c.gid ∧ ∃ h, FMap.get? t.groups c.gid = some h ∧
    (∀ n l, l < 32 → h.pred n l = if active c g l = true ∧ n = e ∧ n ≠ 7 then w l else g.pred n l) ∧
    h.v = g.v ∧ h.deep = g.deep ∧ h.s = g.s ∧ h.q = g.q ∧ At c g h (fun _ => after c)

/-- The same for uniform registers, s63 apart (R21); under a false guard nothing is written (R115). -/
def WritesS (s t : State) (c : Issue) (g : Group) (w : Nat → Option Reg) : Prop :=
  Quiet s t c.gid ∧ ∃ h, FMap.get? t.groups c.gid = some h ∧
    (∀ r, h.readS r = if g.qpred c.hdr.g.toNat = true ∧ r ≠ 63 then (w r).getD (g.readS r) else g.readS r) ∧
    h.v = g.v ∧ h.deep = g.deep ∧ h.p = g.p ∧ h.q = g.q ∧ At c g h (fun _ => after c)

/-- The same for the uniform predicate `e`, q7 apart (R22, R115). -/
def WritesQ (s t : State) (c : Issue) (g : Group) (e : Nat) (b : Bool) : Prop :=
  Quiet s t c.gid ∧ ∃ h, FMap.get? t.groups c.gid = some h ∧
    (∀ n, n < 8 → h.qpred n = if g.qpred c.hdr.g.toNat = true ∧ n = e ∧ n ≠ 7 then b else g.qpred n) ∧
    h.v = g.v ∧ h.deep = g.deep ∧ h.s = g.s ∧ h.p = g.p ∧ At c g h (fun _ => after c)

/-- No register has changed: the issuing lanes stand at `pcs`, and all else is quiet. -/
def WritesNone (s t : State) (c : Issue) (g : Group) (pcs : Nat → DWord) : Prop :=
  Quiet s t c.gid ∧ ∃ h, FMap.get? t.groups c.gid = some h ∧ regs h = regs g ∧ At c g h pcs

/-- A variable-latency result is outstanding: its destinations and their values (R224). -/
def Owed (h : Group) (lane : Option Nat) (ws : List (Dst × Reg)) : Prop :=
  ∃ p ∈ h.pend, p.lane = lane ∧ p.dsts = ws.map (fun w => some w.1) ∧ p.st = .ready (ws.map (·.2))

/-- In each lane of ACTIVE the results that `w` gives are outstanding; no register has changed yet, and all else is quiet. -/
def OwesV (s t : State) (c : Issue) (g : Group) (w : Nat → List (Dst × Reg)) : Prop :=
  Quiet s t c.gid ∧ ∃ h, FMap.get? t.groups c.gid = some h ∧ regs h = regs g ∧ At c g h (fun _ => after c) ∧
    ∀ l, active c g l = true → Owed h (some l) (w l)

/-- The results of a uniform instruction are outstanding; no register has changed yet, and all else is quiet. -/
def OwesU (s t : State) (c : Issue) (g : Group) (ws : List (Dst × Reg)) : Prop :=
  Quiet s t c.gid ∧ ∃ h, FMap.get? t.groups c.gid = some h ∧ regs h = regs g ∧ At c g h (fun _ => after c) ∧ Owed h none ws

/-- The group has taken an exception before its instruction had any effect (R223, R396): it is stopped by a trap of its own whose record
holds the cause and names the instruction; no register has changed, its program counters stand, and all else is quiet. Where no handler
group raised it (R403) and the context's trap slots may be written (R397), the trap's rung is the one given. -/
def TrapsAt (s t : State) (c : Issue) (g : Group) (cause : Byte) (rung : Nat) (addr : DWord) (lanes : Word) : Prop :=
  Quiet s t c.gid ∧ ∃ h id x, FMap.get? t.groups c.gid = some h ∧ regs h = regs g ∧ h.lanes = g.lanes ∧ h.holds.trap = some id ∧
    FMap.get? t.traps id = some x ∧ x.fault.cause = cause ∧ x.fault.kind = 1 ∧ x.fault.pc = c.pc ∧ x.fault.resume = c.pc ∧
    x.fault.addr = addr ∧ x.fault.word = c.word ∧ x.party = .group c.gid lanes ∧
    (g.handling = none → stopValid (s.ctx g.die g.ctx) = true → x.rung = rung)

/-- An exception of the issuing lanes at its cause's home rung (R395). -/
def Traps (s t : State) (c : Issue) (g : Group) (cause : Byte) (addr : DWord) : Prop := TrapsAt s t c g cause (homeRung cause) addr c.lanes

/-- POISON from a tagged register at the context rung (R411), for some of the lanes. -/
def Poisoned (s t : State) (c : Issue) (g : Group) : Prop := ∃ lanes, TrapsAt s t c g cPoison 2 0 lanes

/-- The group waits with no effect of the instruction (R215). -/
def Waits (s t : State) (c : Issue) (g : Group) (w : GWait) : Prop :=
  Quiet s t c.gid ∧ ∃ h, FMap.get? t.groups c.gid = some h ∧ regs h = regs g ∧ h.lanes = g.lanes ∧ h.pend = g.pend ∧ h.wait = w

/-- The guard of a uniform instruction is true (R115). -/
def Guarded (c : Issue) (g : Group) : Prop := g.qpred c.hdr.g.toNat = true

/-- Every outstanding result of the group is written, and every access it made is performed (R117, R258). -/
def Settled (s : State) (c : Issue) (g : Group) : Prop := g.pend = [] ∧ inFlight s c.gid = false

/-- The issuing lanes have gone to `pcs`, and their return stacks are as `f` gives; no register has changed, and all else is quiet. -/
def Moves (s t : State) (c : Issue) (g : Group) (pcs : Nat → DWord) (f : List DWord → List DWord) : Prop :=
  Quiet s t c.gid ∧ ∃ h, FMap.get? t.groups c.gid = some h ∧ regs h = regs g ∧ At c g h pcs ∧
    ∀ l, l < 32 → l < g.lanes.length → (h.lane l).rstack = if c.lanes.getLsbD l = true then f (g.lane l).rstack else (g.lane l).rstack

/-- The issuing lanes go on after the instruction, the group's registers unchanged; what else has changed is said beside. -/
def Passes (t : State) (c : Issue) (g : Group) : Prop :=
  ∃ h, FMap.get? t.groups c.gid = some h ∧ regs h = regs g ∧ At c g h (fun _ => after c)

/-- The group has passed the instruction and is parked, its registers unchanged. -/
def Parks (t : State) (c : Issue) (g : Group) (w : GWait) : Prop :=
  ∃ h, FMap.get? t.groups c.gid = some h ∧ regs h = regs g ∧ At c g h (fun _ => after c) ∧ h.wait = w

/-- The group's barrier of an id can be reached: its block is there, and for a cluster barrier its cluster too (R142). -/
def HasBar (s : State) (g : Group) (clu : Bool) : Prop :=
  ∃ b, FMap.get? s.blocks g.block = some b ∧
    (clu = true → g.free = false ∧ b.handler = false ∧ (FMap.get? s.clusters b.cluster).isSome = true)

/-- The expected count of a barrier for an arrival with a count (R143). -/
def expects (x : Bar) (n : Nat) : Nat := if x.arrivals = 0 then n else x.expected

/-- A barrier after an arrival with a count (R143). -/
def arrived (x : Bar) (n : Nat) : Bar :=
  if x.arrivals + 1 ≥ expects x n then { arrivals := 0, expected := expects x n, phase := !x.phase, waiters := [] }
  else { x with arrivals := x.arrivals + 1, expected := expects x n }

/-- The count of an arrival: the operand's, or the live groups for 0 (R143). -/
def barCount (s : State) (g : Group) (clu : Bool) (v : Word) : Nat := if v.toNat % 2048 = 0 then liveGroups s g clu else v.toNat % 2048

/-- A live lane that is no helper (R134, R214). -/
def real (g : Group) (l : Nat) : Prop := l < 32 ∧ (g.lane l).helper = false ∧ (g.lane l).live = true

/-- On whose behalf a lane's address is translated: its group, and the deterministic child that it is (R254, R272). -/
def laneBy (s : State) (c : Issue) (g : Group) (l : Nat) : By := { gid := some c.gid, child := laneDet s g l }

/-- An address that is tried: for whom, the address, and its outcome: the physical address, or why there is none. -/
abbrev Try := By × DWord × Except AErr Nat

/-- Translations that a group's instruction tries one after another, with their outcomes (R154, R327); u is the state in which they have been made: the
walks may have moved lines between the caches and memory (R326). -/
def Tries (s : State) (g : Group) (needs : List Need) : List Try → State → Prop
  | [], u => u = s
  | (b, va, r) :: as, u => ∃ x v, xlNeeds s g.die g.core g.ctx g.ring va needs b = (x, v) ∧ x.map (fun y => y.pa) = r ∧ Tries v g needs as u

/-- Addresses that all translate, each to the physical address beside it, which is admitted (R327). -/
def Translates (s : State) (g : Group) (needs : List Need) (ok : Nat → Prop) (as : List (By × DWord × Nat)) (u : State) : Prop :=
  Tries s g needs (as.map (fun a => (a.1, a.2.1, .ok a.2.2))) u ∧ ∀ a ∈ as, ok a.2.2

/-- An access of the group is on its way to be performed at a physical address (R330, R246). -/
def Travels (t : State) (c : Issue) (lane : Option Nat) (va : DWord) (pa : Nat) (kind : AccKind) (mp : MeetPt) : Prop :=
  ∃ a ∈ t.flight, a.gid = c.gid ∧ a.lane = lane ∧ a.va = va ∧ a.pa = pa ∧ a.kind = kind ∧ a.mp = mp ∧ a.op = none

/-- A memory result is outstanding (R224): its access is on its way; or L1 has served a plain load of a party that holds nothing back and has no access
of its own to the line on its way, and its values are those that L1 has (R243). The addresses have been translated in `u`. -/
def Awaited (s u t : State) (c : Issue) (g h : Group) (lane : Option Nat) (ds : List Dst) (b : By) (va : DWord) (pa : Nat) (kind : AccKind) (mp : MeetPt) :
    Prop :=
  ∃ p ∈ h.pend, p.lane = lane ∧ p.dsts = ds.map some ∧
    ((p.st = .waiting ∧ ∃ a ∈ t.flight, a.pend = some p.id ∧ a.gid = c.gid ∧ a.va = va ∧ a.pa = pa ∧ a.kind = kind ∧ a.mp = mp) ∨
      (∃ n form bs tag, kind = .load n form ∧ mp = .plain ∧ b.child = none ∧ ownFlight u c.gid (lineOf pa) = false ∧
        l1Find (u.core g.die g.core) (s.ctx g.die g.ctx).asid pa n = some (bs, tag) ∧ p.st = .ready (loadRegs form bs tag)))

/-- A lane global load of n bytes into `ds` of each lane, when the addresses may be used and translate: in each lane of ACTIVE the result is
outstanding; no register has changed, and of memory nothing but what the translation has done. -/
def LoadsGlobal (s : State) (c : Issue) (g : Group) (i : Instr) (addr : Nat → DWord) (n : Nat) (kind : Nat → AccKind) (mp : MeetPt)
    (needs : List Need) (ok : Nat → Prop) (ds : Nat → List Dst) : Prop :=
  (∀ l, active c g l = true → addrBad (addr l) n = false) →
    ∀ u, ∀ pa : Nat → Nat, Translates s.fresh.2 g needs ok ((activeLanes c g).map (fun l => (laneBy s c g l, addr l, pa l))) u →
    ∃ t h, exec i s = .next t ∧ t.mem = u.mem ∧ FMap.get? t.groups c.gid = some h ∧ regs h = regs g ∧ At c g h (fun _ => after c) ∧
      ∀ l, active c g l = true → Awaited s u t c g h (some l) (ds l) (laneBy s c g l) (addr l) (pa l) (kind l) mp

/-- A lane global store: in each lane of ACTIVE that is no helper the access is on its way; no register has changed, and of memory nothing yet
but what the translation has done. -/
def StoresGlobal (s : State) (c : Issue) (g : Group) (i : Instr) (addr : Nat → DWord) (n : Nat) (kind : Nat → AccKind) (mp : MeetPt)
    (needs : List Need) (ok : Nat → Prop) : Prop :=
  (∀ l, active c g l = true → addrBad (addr l) n = false ∧ laneDet s g l = none) →
    ∀ u, ∀ pa : Nat → Nat, Translates s.fresh.2 g needs ok ((activeReal c g).map (fun l => (laneBy s c g l, addr l, pa l))) u →
    ∃ t h, exec i s = .next t ∧ t.mem = u.mem ∧ FMap.get? t.groups c.gid = some h ∧ regs h = regs g ∧ At c g h (fun _ => after c) ∧
      ∀ l, active c g l = true → (g.lane l).helper = false → Travels t c (some l) (addr l) (pa l) (kind l) mp

/-- A lane memory instruction's refusals: a tagged register raises POISON, and an address that breaks R151 ADDR, each from a lane that is no helper. -/
def GuardsAddresses (s : State) (c : Issue) (g : Group) (i : Instr) (tagged : Nat → Prop) (addr : Nat → DWord) (n : Nat) : Prop :=
  ((∃ l, active c g l = true ∧ (g.lane l).helper = false ∧ tagged l) → ∃ t, exec i s = .next t ∧ Poisoned s t c g) ∧
  ((∀ l, active c g l = true → ¬ tagged l) → (∃ l, active c g l = true ∧ (g.lane l).helper = false ∧ addrBad (addr l) n = true) →
    ∃ t va, exec i s = .next t ∧ Traps s t c g cAddr va)

/-- An engine command is taken (R174): a new operation of the group with the block's fields, the last of its queue, which the group holds;
no register changes. -/
def EngineTakes (s : State) (c : Issue) (g : Group) (i : Instr) (kind : OpKind) (va : DWord) (b extra : List Byte) (cnt inc : Nat) (csys : Bool)
    (rec : Nat) (queue : State → List Nat) : Prop :=
  ∃ t h id x, exec i s = .next t ∧ FMap.get? t.groups c.gid = some h ∧ regs h = regs g ∧ At c g h (fun _ => after c) ∧ h.ops = g.ops ++ [id] ∧
    queue t = queue s ++ [id] ∧ FMap.get? t.ops id = some x ∧ x.kind = kind ∧ x.gid = c.gid ∧ x.die = g.die ∧ x.core = g.core ∧ x.ctx = g.ctx ∧
    x.ring = g.ring ∧ x.addr = va ∧ x.params = b ∧ x.extra = extra ∧ x.cnt = BitVec.ofNat 64 cnt ∧ x.inc = inc ∧ x.csys = csys ∧
    x.recAddr = BitVec.ofNat 64 rec ∧ x.st = (if kind = .coll then .running else .queued)

/-- A read that an engine command makes at its issue has given bytes that are not poisoned, in the state u (R174, R175). -/
def ReadsAt (s : State) (c : Issue) (g : Group) (va : DWord) (n : Nat) (b : List Byte) (u : State) : Prop :=
  vRead s g.die g.core g.ctx g.ring (holdOf s g c.lanes) va n = (.ok (b, false), u)

/-- No error of DRAM, counters or a link is waiting to be met (R342, R344). -/
def NoFailures (s : State) : Prop := s.mem.linkFails = [] ∧ s.mem.damaged = [] ∧ s.mem.badPages = []

/-- The set of a line in its home die's slices has a way free, so that a line taken up there pushes none out (R245). -/
def HasWay (s : State) (die pa : Nat) : Prop := ((s.die die).dm.l2.filter (fun y => l2Set y.place == l2Set (lineOf pa))).length < 16

/-- No die holds the line dirty away from its home (R246). -/
def NoDirtyCopy (s : State) (pa : Nat) : Prop := ∀ d, ∀ x ∈ (s.die d).dm.l2, x.own = false → x.line = lineOf pa → x.dirty = []

/-- Memory at rest: no error waits to be met, no die's L2 holds a dirty or poisoned line, no object has an owner, and no requester of the expander holds a
line. A read then changes no byte and no mark. -/
def AtRest (s : State) : Prop := NoFailures s ∧ ∀ d, (∀ x ∈ (s.die d).dm.l2, x.dirty = [] ∧ x.poison = false) ∧
  (∀ e ∈ (s.die d).dm.objs, e.2.owner = none ∧ e.2.pull = false) ∧ (s.die d).dm.expSnoop = []

/-- A die's copy of a line of package memory that alone is dirty, and whose write-back nothing stops (R246, R424). -/
def LoneDirty (s : State) (d : Nat) (x : L2Line) : Prop :=
  x ∈ (s.die d).dm.l2 ∧ x.own = false ∧ inPackage s (x.line * 128) = true ∧ placeErr s d (x.line * 128) = none ∧
    ∀ k, ∀ y ∈ (s.die k).dm.l2, y.own = false → y.line = x.line → y.dirty ≠ [] → k = d ∧ y = x

/-- Every dirty copy is of a line of package memory, and no write is to be lost on a link. -/
def CopiesLocal (s : State) : Prop := s.mem.linkFails = [] ∧ ∀ k, ∀ y ∈ (s.die k).dm.l2, y.own = false → y.dirty ≠ [] → inPackage s (y.line * 128) = true

/-- The dirty bytes of a copy stand at their home. -/
def HomeHas (t : State) (x : L2Line) : Prop := ∀ o ∈ x.dirty, o < 128 → memRead t.mem.bytes (x.line * 128 + o) = FMap.getD x.bytes o 0

/-- A read from outside has been answered: with the bytes at the home of the address, or as poisoned (R342). -/
def AnswersRead (s t : State) (d pa n : Nat) : Prop :=
  t.pkg.replyOk = true ∧ (poisonedLine s d pa = false → t.pkg.reply = homeBytes s d pa n ∧ t.pkg.replyPoison = false) ∧
    (poisonedLine s d pa = true → t.pkg.reply = [] ∧ t.pkg.replyPoison = true)

/-- The turn has come of an access of a group that acts for the deterministic children given, at the group's own die's memory, with nothing to be
claimed, recalled or pushed out first. -/
def AtHomeFor (child : List Nat) (s : State) (k : Nat) (a : Access) (g : Group) : Prop :=
  s.flight[k]? = some a ∧ firstOfGroup s k a = true ∧ isLocal s a.die a.pa = true ∧ s.gen a.asid = a.gen ∧ a.child = child ∧ a.span.1 < 128 ∧
    objOf s a.die a.ctx (a.va.toNat / 128) = none ∧ NoDirtyCopy s a.pa ∧ HasWay s a.die a.pa ∧ (s.die a.die).dm.expSnoop = [] ∧
    FMap.get? s.groups a.gid = some g ∧ g.wait ≠ .awaitPlace

/-- The same for no deterministic child. -/
def AtItsHome : State → Nat → Access → Group → Prop := AtHomeFor []

/-- An access has been performed: it travels no more, and the group's outstanding result, if it has one, has come back with the values. -/
def Answered (s t : State) (a : Access) (rs : List Reg) : Prop :=
  a ∉ t.flight ∧ ∃ g h, FMap.get? s.groups a.gid = some g ∧ FMap.get? t.groups a.gid = some h ∧ regs h = regs g ∧
    h.pend = g.pend.map (fun p => if some p.id = a.pend then { p with st := .ready rs } else p)

/-- Of all the bytes of memory none but those from `pa` on have changed, and those are `bs`. -/
def Stored (s t : State) (pa : Nat) (bs : List Byte) : Prop := t.mem.far = s.mem.far ∧ t.mem.berth = s.mem.berth ∧
  ∀ j, memRead t.mem.bytes j = if pa ≤ j ∧ j < pa + bs.length then bs.getD (j - pa) 0 else memRead s.mem.bytes j

/-- No byte of memory has changed. -/
def SameBytes (s t : State) : Prop := t.mem.bytes = s.mem.bytes ∧ t.mem.far = s.mem.far ∧ t.mem.berth = s.mem.berth

/-- A walk from a table at a level, whose entries lie in package memory that the die may read: the page's size in address bits, its frame and its bits [5:0]; or
nothing where an entry is not valid or is malformed (R326, R327). -/
def Walks (s : State) (die va : Nat) : Nat → Nat → Option (Nat × Nat × Nat) → Prop
  | level, table, r =>
    let pa := table + 8 * (va / 2 ^ (12 + 9 * level) % 512)
    let e := ofBytes (homeBytes s die pa 8)
    let leaf := e / 64 % 2 = 1
    let frame := e / 4096 % 2 ^ 40 * 4096
    inPackage s pa = true ∧ accessErr s die pa 8 false = none ∧
      if e % 2 = 0 ∨ e / 2 ^ 52 ≠ 0 ∨ e / 128 % 32 ≠ 0 ∨ (leaf ∧ 3 ≤ level) ∨ (¬ leaf ∧ (level = 0 ∨ e / 2 % 32 ≠ 0)) ∨
        (leaf ∧ (frame % 2 ^ (12 + 9 * level) ≠ 0 ∨ holeAt s die frame = true)) then r = none
      else if leaf then r = some (12 + 9 * level, frame, e % 64)
      else match level with
        | 0 => r = none
        | l + 1 => Walks s die va l frame r

/-- What a page's bits make of an access of a kind from a ring (R327). -/
def Permits (bits : Nat) (need : Need) (ring : BitVec 2) : Prop :=
  (match need with | .read => bits / 2 % 2 = 1 | .write => bits / 4 % 2 = 1 | .fetch => bits / 8 % 2 = 1) ∧ ¬(bits / 32 % 2 = 1 ∧ ring = 0)

/-- A lane has parked after an access of it failed at translation: its record says of the access what R396 asks for, and the access is executed again on
resume where it returns something (R154, R221). -/
def ParkedBy (t : State) (c : Issue) (g h : Group) (l : Nat) (cause : Byte) (va : DWord) (n : Nat) (data : Nat) (again : Option AccKind) : Prop :=
  (h.lane l).st = .parked ∧ ∃ k x, FMap.get? t.traps k = some x ∧ x.party = .lanes c.gid (1#32 <<< l) ∧ x.fault.cause = cause ∧ x.fault.kind = 0 ∧
    x.fault.flags = BitVec.ofNat 8 (if again.isSome then 9 else 10) ∧ x.fault.pc = c.pc ∧ x.fault.resume = after c ∧ x.fault.addr = va ∧
    x.fault.word = c.word ∧ x.fault.width = BitVec.ofNat 8 n ∧ x.fault.data = BitVec.ofNat 128 data ∧
    match again with
    | some kind => ∃ a, (k, a) ∈ (h.lane l).redo ∧ a.va = va ∧ a.kind = kind
    | none => (h.lane l).redo = (g.lane l).redo

/-! ## Held writes -/

/-- The byte that held stores have at an address, the last of them that covers it (R272). -/
def heldByte (ops : List HeldOp) (j : Nat) : Option Byte :=
  ops.foldl (fun b o => match o.act with
    | .store d _ => if o.pa ≤ j ∧ j < o.pa + d.length then some (d.getD (j - o.pa) 0) else b
    | .atomic _ _ _ _ => b) none

/-- No held atomic touches n bytes from `pa` on. -/
def NoAtomic (ops : List HeldOp) (pa n : Nat) : Prop :=
  ∀ o ∈ ops, ∀ op w x y, o.act = .atomic op w x y → o.pa + atomSize w ≤ pa ∨ pa + n ≤ o.pa

/-- Every held atomic that touches a location of n bytes is of just that location (R276). -/
def Location (ops : List HeldOp) (pa n : Nat) : Prop :=
  pa % n = 0 ∧ ∀ o ∈ ops, ∀ op w x y, o.act = .atomic op w x y → (o.pa = pa ∧ atomSize w = n) ∨ o.pa + atomSize w ≤ pa ∨ pa + n ≤ o.pa

/-- Held writes applied in order to the bytes of a location (R274, R276). -/
def replayed (ops : List HeldOp) (pa : Nat) (v : List Byte) : List Byte :=
  ops.foldl (fun v o => match o.act with
    | .store d _ => v.mapIdx (fun i b => if o.pa ≤ pa + i ∧ pa + i < o.pa + d.length then d.getD (pa + i - o.pa) 0 else b)
    | .atomic op w x y => if o.pa = pa then leBytes v.length (atomNew op w (BitVec.ofNat 64 (ofBytes v)) x y).toNat else v) v

/-- No held store is of poisoned data. -/
def CleanHeld (ops : List HeldOp) : Prop := ∀ o ∈ ops, ∀ d, o.act ≠ .store d (some true)

/-- Lines that children would hold beside those held already fit the shadow area of a context (R271, R273). -/
def Room (s : State) (die ctx : Nat) (more : List (Nat × Nat)) : Prop :=
  (∀ p ∈ more, p ∈ heldPairs s die ctx) ∨ (heldPairs s die ctx ++ more).dedup.length ≤ 2 ^ ((s.ctx die ctx).determ.toNat / 2 ^ 57 % 32)

/-! ## Numbers -/

/-- The number that a finite value stands for (R63). -/
def num : Fv → ℚ
  | .fin neg m e => (if neg then -1 else 1) * m * (2 : ℚ) ^ e
  | _ => 0

/-- A value's place in the order of the extended numbers, for every value but a NaN. -/
def rank : Fv → WithBot (WithTop ℚ)
  | .inf true => ⊥
  | .inf false => ((⊤ : WithTop ℚ) : WithBot (WithTop ℚ))
  | v => ((num v : WithTop ℚ) : WithBot (WithTop ℚ))

/-- The floating-point formats of R63 that carry no scale. -/
def floatFormats : List Fmt := [fp32, fp16, bf16, e5m2, e4m3]

/-- The magnitude that a code without sign stands for. -/
def mag (f : Fmt) (c : Nat) : ℚ := num (f.decode c)

/-- Whether a value at a fraction x of the way from one code to the next is rounded away from zero (R70, R71). -/
def AwayAt (mode : Rnd) (neg : Bool) (c : Nat) (x : ℚ) : Prop :=
  match mode with
  | .rne => 1 / 2 < x ∨ (x = 1 / 2 ∧ c % 2 = 1)
  | .rna => 1 / 2 ≤ x
  | .rz => False
  | .ru => neg = false
  | .rd => neg = true
  | .rs h => (h.toNat : Int) < ⌊x * 2 ^ 32⌋

/-- A whole number is the one nearest to a number, the even one of two (R75). -/
def IsRint (n : Int) (x : ℚ) : Prop := |x - n| < 1 / 2 ∨ (|x - n| = 1 / 2 ∧ n % 2 = 0)

/-- The place of a number's leading one bit (R75). -/
def LeadAt (n : Int) (x : ℚ) : Prop := (2 : ℚ) ^ n ≤ |x| ∧ |x| < (2 : ℚ) ^ (n + 1)

/-- What a contribution stands for (R74). -/
def worth (c : Contrib) : ℚ := c.sig * (2 : ℚ) ^ c.ce

/-- Element k of a row or a column that begins at an offset of a K-block's bytes: a number, or nothing for an infinity or a NaN. Of E2M1X it is the code's quarter
value under an extra value (R66, R74, R196). -/
def elemAt (fmt : Nat) (raw : List Byte) (base : Nat) (x : Int) (k : Nat) : Option ℚ :=
  match fmt with
  | 0 => some (quarterOf x (field raw (base + k / 2) 1 / 16 ^ (k % 2) % 16))
  | 3 => some (((BitVec.ofNat 8 (field raw (base + k) 1)).toInt : ℚ))
  | 4 => some ((field raw (base + k) 1 : ℚ))
  | _ =>
    let n := if fmt ≤ 2 then 1 else 2
    match (fmtOf fmt).decode (field raw (base + n * k) n) with
    | .fin neg m e => some (num (.fin neg m e))
    | _ => none

/-! ## The switch image -/

/-- The lane registers of a group are those of the bytes of its record (R387). -/
def RegsIn (g : Group) (b : List Byte) : Prop :=
  let bank := fun (off n : Nat) (rd : Nat → Nat → Reg) => ∀ r l, r < n → l < 32 → rd r l =
    ⟨BitVec.ofNat 32 (field b (off + 128 * r + 4 * l) 4), bit (field b (off + 128 * n + 4 * r) 4) l⟩
  (∀ r l, r < g.nregs → r < 127 → l < 32 → g.readV r l =
    ⟨BitVec.ofNat 32 (field b (0x2000 + 128 * r + 4 * l) 4), bit (field b (0x2000 + 128 * g.nregs + 4 * r) 4) l⟩) ∧
  bank (0x2000 + 132 * g.nregs) g.ndeep g.readDeep

/-- The uniform registers, predicates, lane states and program counters of a group of 32 lanes are those of the bytes of its record (R387). -/
def CtlIn (g : Group) (b : List Byte) : Prop :=
  (∀ r, r < 63 → g.readS r = ⟨BitVec.ofNat 32 (field b (0x40 + 4 * r) 4), bit (field b 0x168 8) r⟩) ∧
  g.b = BitVec.ofNat 64 (field b 0x10 8) ∧ (∀ n, n < 7 → g.qpred n = bit (field b 0x160 1) n) ∧
  ∀ l, l < 32 → (∀ n, n < 7 → g.pred n l = bit (field b (0x140 + l) 1) n) ∧ (g.lane l).st.code = field b (0x170 + l) 1 % 128 ∧
    (g.lane l).pc = BitVec.ofNat 64 (field b (0x400 + 8 * l) 8)

/-- The barriers, place, presence and poison marks of a block are those of the bytes of its record (R386). -/
def BlockIn (x : Block) (b : List Byte) : Prop :=
  x.bx % 2 ^ 32 = field b 4 4 ∧ x.by_ % 2 ^ 16 = field b 8 2 ∧ x.bz % 2 ^ 16 = field b 10 2 ∧
  (∀ i, i < 16 → let y := FMap.getD x.bars i {}
    y.phase = bit (field b (32 + 16 * i) 1) 0 ∧ y.arrivals % 2 ^ 16 = field b (34 + 16 * i) 2 ∧ y.expected % 2 ^ 16 = field b (36 + 16 * i) 2) ∧
  ∀ n, n < grantOf x.kernel / 64 → n < 7168 →
    (n ∈ x.absent ↔ bit (field b (288 + n / 8) 1) (n % 8) = false) ∧ (n ∈ x.marked ↔ bit (field b (1184 + n / 8) 1) (n % 8) = true)

/-- What part k of a core record has of groups, blocks, tiles and slips is what the pieces hold (R383-R388). The places of the sections are
those of the state `lay`; `A`, `B` and `tile` are the slips and the record's tiles. -/
def PartIn (lay s : State) (r : CoreRec) (A B : Slip) (tile : Nat → Tile) (k : Nat) (ps : List (Nat × List Byte)) : Prop :=
  let z := r.sections lay
  let head := pick ps 0 4096
  let group := fun (f : Group → Nat → Prop) => ∀ (i id off : Nat) g, r.groups[i]? = some id → z.grp[i]? = some off → FMap.get? s.groups id = some g →
    g.lanes.length = 32 → f g off
  (k = 0 → group (fun g off => RegsIn g (List.replicate 0x2000 0 ++ pick ps (off + 0x2000) (glen g.nregs g.ndeep - 0x2000)))) ∧
  (k = 1 → group (fun g off => CtlIn g (pick ps off 0x2000))) ∧
  (k = 2 → ∀ (i id : Nat) x, r.blocks[i]? = some id → FMap.get? s.blocks id = some x →
    BlockIn x (slice (pick ps 4096 (4096 * r.blocks.length)) (4096 * i) 4096)) ∧
  (k = 3 → ∀ (i id off : Nat) x, r.blocks[i]? = some id → (offsets z.scr (r.grants lay))[i]? = some off → FMap.get? s.blocks id = some x →
    ∀ j, j < grantOf x.kernel → FMap.getD x.spad j 0 = (pick ps off (grantOf x.kernel)).getD j 0) ∧
  (k = 4 → ∀ i, i < 4 → i < r.tiles.length → BitVec.ofInt 16 (tile i).exp = BitVec.ofNat 16 (field head (0x30 + 16 * i) 2) ∧
    (tile i).poison = decide (field head (0x33 + 16 * i) 1 ≠ 0) ∧
    ∀ e, e < 16384 → BitVec.ofInt 48 (FMap.getD (tile i).elems e 0) = BitVec.ofNat 48 (field (pick ps (z.tile + 98304 * i) 98304) (6 * e) 6)) ∧
  (k = 5 → A.bytes = (pick ps z.slip 65536).take (field head 0x10 4) ∧ B.bytes = (pick ps (z.slip + 65536) 65536).take (field head 0x20 4))

/-- The same of what a core has of the record. -/
def PartAt (lay s : State) (die : Nat) (r : CoreRec) (k : Nat) (ps : List (Nat × List Byte)) : Prop :=
  let c := s.core die (r.target.getD r.core)
  PartIn lay s r c.slipA c.slipB (fun i => c.tiles.getD (r.tiles.getD i (0, {})).1 {}) k ps

/-- A core record names each of its groups, blocks and tiles once, and tiles that the core has. -/
def CoreRec.Sound (r : CoreRec) (s : State) (die : Nat) : Prop :=
  r.groups.Nodup ∧ r.blocks.Nodup ∧ (r.tiles.map (·.1)).Nodup ∧ ∀ e ∈ r.tiles, e.1 < (s.core die (r.target.getD r.core)).tiles.length

/-! ## Shapes of result statements -/

/-- d := f(a, b) in each lane of ACTIVE, tagged when a source is (R24). -/
def Lane3 (i : BitVec 7 → BitVec 7 → BitVec 7 → Instr) (f : Word → Word → Word) : Prop :=
  ∀ s c g d a b, Issuing s c g → ∃ t, exec (i d a b) s = .next t ∧
    WritesV s t c g (fun r l => if r = d.toNat then some ⟨f (g.vv a l) (g.vv b l), g.vt a l || g.vt b l⟩ else none)

/-- d := f(d, a, b) in each lane of ACTIVE. -/
def Lane3d (i : BitVec 7 → BitVec 7 → BitVec 7 → Instr) (f : Word → Word → Word → Word) : Prop :=
  ∀ s c g d a b, Issuing s c g → ∃ t, exec (i d a b) s = .next t ∧
    WritesV s t c g (fun r l =>
      if r = d.toNat then some ⟨f (g.vv d l) (g.vv a l) (g.vv b l), g.vt d l || g.vt a l || g.vt b l⟩ else none)

/-- d := f(a) in each lane of ACTIVE. -/
def Lane2 (i : BitVec 7 → BitVec 7 → Instr) (f : Word → Word) : Prop :=
  ∀ s c g d a, Issuing s c g → ∃ t, exec (i d a) s = .next t ∧
    WritesV s t c g (fun r l => if r = d.toNat then some ⟨f (g.vv a l), g.vt a l⟩ else none)

/-- d := f(d, a) in each lane of ACTIVE. -/
def Lane2d (i : BitVec 7 → BitVec 7 → Instr) (f : Word → Word → Word) : Prop :=
  ∀ s c g d a, Issuing s c g → ∃ t, exec (i d a) s = .next t ∧
    WritesV s t c g (fun r l => if r = d.toNat then some ⟨f (g.vv d l) (g.vv a l), g.vt d l || g.vt a l⟩ else none)

/-- The state with toll counter 4 of the group's die counted up by n for each lane of ACTIVE (R429). -/
def tolled (s : State) (c : Issue) (g : Group) (n : Nat) : State := s.toll g.die 4 (n * (activeLanes c g).length)

/-- The same shapes for floating-point arithmetic, which counts n operations a lane beside. -/
def Float3 (n : Nat) (i : BitVec 7 → BitVec 7 → BitVec 7 → Instr) (f : Word → Word → Word) : Prop :=
  ∀ s c g d a b, Issuing s c g → ∃ t, exec (i d a b) s = .next t ∧
    WritesV (tolled s c g n) t c g (fun r l => if r = d.toNat then some ⟨f (g.vv a l) (g.vv b l), g.vt a l || g.vt b l⟩ else none)

def Float3d (n : Nat) (i : BitVec 7 → BitVec 7 → BitVec 7 → Instr) (f : Word → Word → Word → Word) : Prop :=
  ∀ s c g d a b, Issuing s c g → ∃ t, exec (i d a b) s = .next t ∧
    WritesV (tolled s c g n) t c g (fun r l =>
      if r = d.toNat then some ⟨f (g.vv d l) (g.vv a l) (g.vv b l), g.vt d l || g.vt a l || g.vt b l⟩ else none)

def Float2d (n : Nat) (i : BitVec 7 → BitVec 7 → Instr) (f : Word → Word → Word) : Prop :=
  ∀ s c g d a, Issuing s c g → ∃ t, exec (i d a) s = .next t ∧
    WritesV (tolled s c g n) t c g (fun r l => if r = d.toNat then some ⟨f (g.vv d l) (g.vv a l), g.vt d l || g.vt a l⟩ else none)

/-- A variable-latency result f(a) of each lane of ACTIVE is outstanding (R84, R224). -/
def LaneOwes (i : BitVec 7 → BitVec 7 → Instr) (f : Word → Word) : Prop :=
  ∀ s c g d a, Issuing s c g → ∃ t, exec (i d a) s = .next t ∧
    OwesV s t c g (fun l => [(.v d.toNat l, ⟨f (g.vv a l), g.vt a l⟩)])

/-- Each lane of ACTIVE is owed the register a of a source lane, its own where the source is outside ACTIVE (R83). -/
def LaneMoves (i : BitVec 7 → BitVec 7 → Instr) (src : Nat → Nat) : Prop :=
  ∀ s c g d a, Issuing s c g → ∃ t, exec (i d a) s = .next t ∧
    OwesV s t c g (fun l => [(.v d.toNat l, g.readV a.toNat (if active c g (src l) = true then src l else l))])

/-- d := f(a, b) of uniform registers, under a true guard (R115). -/
def Uni3 (i : BitVec 6 → BitVec 6 → BitVec 6 → Instr) (f : Word → Word → Word) : Prop :=
  ∀ s c g d a b, Issuing s c g → ∃ t, exec (i d a b) s = .next t ∧
    WritesS s t c g (fun r => if r = d.toNat then some ⟨f (g.sv a) (g.sv b), g.st a || g.st b⟩ else none)

/-- d:d+1 := f(a:a+1, b:b+1) of uniform pairs. -/
def Uni64 (i : BitVec 6 → BitVec 6 → BitVec 6 → Instr) (f : DWord → DWord → DWord) : Prop :=
  ∀ s c g d a b, Issuing s c g → ∃ t, exec (i d a b) s = .next t ∧
    WritesS s t c g (fun r =>
      if r = d.toNat then some ⟨loHalf (f (g.sPair a) (g.sPair b)), g.sPairT a || g.sPairT b⟩
      else if r = d.toNat + 1 then some ⟨hiHalf (f (g.sPair a) (g.sPair b)), g.sPairT a || g.sPairT b⟩ else none)

/-- d:d+1 := f(a:a+1, zext(b)) (R120's shifts). -/
def UniShift (i : BitVec 6 → BitVec 6 → BitVec 6 → Instr) (f : DWord → Nat → DWord) : Prop :=
  ∀ s c g d a b, Issuing s c g → ∃ t, exec (i d a b) s = .next t ∧
    WritesS s t c g (fun r =>
      if r = d.toNat then some ⟨loHalf (f (g.sPair a) (g.sv b).toNat), g.sPairT a || g.st b⟩
      else if r = d.toNat + 1 then some ⟨hiHalf (f (g.sPair a) (g.sv b).toNat), g.sPairT a || g.st b⟩ else none)

/-- d := f(a). -/
def Uni2 (i : BitVec 6 → BitVec 6 → Instr) (f : Word → Word) : Prop :=
  ∀ s c g d a, Issuing s c g → ∃ t, exec (i d a) s = .next t ∧
    WritesS s t c g (fun r => if r = d.toNat then some ⟨f (g.sv a), g.st a⟩ else none)

/-- d := f(d), with an operand of the word. -/
def UniSelf {α : Type} (i : BitVec 6 → α → Instr) (f : Word → α → Word) : Prop :=
  ∀ s c g d j, Issuing s c g → ∃ t, exec (i d j) s = .next t ∧
    WritesS s t c g (fun r => if r = d.toNat then some ⟨f (g.sv d) j, g.st d⟩ else none)

end Sys2Proof.Safety
end

