-- ==== Sys2Proof/Certificates/Slice0/Obligations.lean ====
section
/-! DEFINITION. The statements: what the rules of spec/ say the machine does, in the terms of Safety.lean. Each docstring names the
sections of the spec that it rests on. -/

open Sys2Proof Sys2Proof.Machine Sys2Proof.Safety

/-! ## Lane instructions (spec/04) -/

/-- The three-source integer forms, in each lane of ACTIVE; every other register, and all else, is unchanged. Bit i of a
BFE result is bit pos + i of a below the field's width, and above it the field's top bit under sx; BFI changes the field's bits alone. The one-source
forms and the two-address forms of the lane escape, with the special values by their numbers; addresses and immediates.
States R88 and R91; rests on spec/01_registers_and_state.md, spec/04_lane_instructions.md. -/
def Obligations.LaneIntegers : Prop :=
  ((Lane3 .addB32 (fun a b => a + b) ∧ Lane3 .subB32 (fun a b => a - b) ∧
   (∀ s c g d a b, Issuing s c g → ∃ t, exec (.addB64 d a b) s = .next t ∧ WritesV s t c g (fun r l =>
     if r = d.toNat then some ⟨loHalf (g.vPair a l + g.vPair b l), g.vPairT a l || g.vPairT b l⟩
     else if r = d.toNat + 1 then some ⟨hiHalf (g.vPair a l + g.vPair b l), g.vPairT a l || g.vPairT b l⟩ else none)) ∧
   Lane3 .mulB32 (fun a b => a * b) ∧
   Lane3 .mulhS32 (fun a b => BitVec.ofInt 32 (a.toInt * b.toInt / 2 ^ 32)) ∧
   Lane3 .mulhN32 (fun a b => BitVec.ofNat 32 (a.toNat * b.toNat / 2 ^ 32)) ∧
   Lane3d .macB32 (fun d a b => d + a * b) ∧
   Lane3 .minS32 (fun a b => if a.toInt ≤ b.toInt then a else b) ∧
   Lane3 .maxS32 (fun a b => if a.toInt ≤ b.toInt then b else a) ∧
   Lane3 .and (fun a b => a &&& b) ∧ Lane3 .or (fun a b => a ||| b) ∧ Lane3 .xor (fun a b => a ^^^ b) ∧
   Lane3 .shl (fun a b => if b.toNat < 32 then a <<< b.toNat else 0) ∧
   Lane3 .shrN32 (fun a b => if b.toNat < 32 then a >>> b.toNat else 0) ∧
   Lane3 .shrS32 (fun a b => BitVec.ofInt 32 (a.toInt / 2 ^ min b.toNat 32)) ∧
   Lane3d .fsh (fun d a b => ((a.setWidth 64 <<< 32 ||| d.setWidth 64) >>> (b.toNat % 32)).setWidth 32)) ∧
  ((∃ ext ins : Word → Word → Word, ∃ ins' : Word → Word → Word → Word,
     Lane3 .bfe ext ∧ Lane3d .bfi ins' ∧ ins = (fun a b => ins' 0 a b) ∧
     (∀ a b i, i < 32 →
       let pos := b.toNat % 256
       let w := min (min (b.toNat / 256 % 256) 32) (32 - pos)
       ((ext a b).getLsbD i = if w = 0 then false else if i < w then a.getLsbD (pos + i) else b.getLsbD 16 && a.getLsbD (pos + w - 1)) ∧
       (∀ d, (ins' d a b).getLsbD i = if pos ≤ i ∧ i < pos + w then a.getLsbD (i - pos) else d.getLsbD i))))) ∧
  ((Lane2 .mov (fun a => a) ∧ (∀ n, Lane2 (fun d a => .shlImm d a n) (fun a => a <<< n.toNat)) ∧ Lane2 .not (fun a => ~~~a) ∧
   (∀ n, Lane2 (fun d a => .shrN32Imm d a n) (fun a => a >>> n.toNat)) ∧ Lane2 .neg (fun a => 0 - a) ∧
   (∀ n, Lane2 (fun d a => .shrS32Imm d a n) (fun a => BitVec.ofInt 32 (a.toInt / 2 ^ n.toNat))) ∧
   Lane2 .absS32 (fun a => BitVec.ofNat 32 a.toInt.natAbs) ∧
   (∀ k, Lane2 (fun d a => .rotImm d a k) (fun a => a.rotateLeft (8 * k.toNat))) ∧
   (∃ popc clz brev : Word → Word, Lane2 .popc popc ∧ Lane2 .clz clz ∧ Lane2 .brev brev ∧
     (∀ a, (popc a).toNat = ((List.range 32).map (fun i => (a.getLsbD i).toNat)).sum) ∧
     (∀ a, (clz a).toNat ≤ 32 ∧ (∀ i, i < (clz a).toNat → a.getLsbD (31 - i) = false) ∧
       ((clz a).toNat < 32 → a.getLsbD (31 - (clz a).toNat) = true)) ∧
     (∀ a i, i < 32 → (brev a).getLsbD i = a.getLsbD (31 - i))) ∧
   (∀ s c g d j, Issuing s c g → ∃ t, exec (.movSpecial d j) s = .next t ∧
     WritesV s t c g (fun r l => if r = d.toNat then some ⟨special s g j.toNat l, false⟩ else none))) ∧
  (Lane2d .minN32 (fun d a => if d.toNat ≤ a.toNat then d else a) ∧ Lane2d .maxN32 (fun d a => if d.toNat ≤ a.toNat then a else d) ∧
   Lane2d .rot (fun d a => d.rotateLeft (a.toNat % 32)) ∧ Lane2d .rotr (fun d a => d.rotateRight (a.toNat % 32)) ∧
   Lane2d .addS32Sat (fun d a => BitVec.ofInt 32 (max (-2 ^ 31) (min (2 ^ 31 - 1) (d.toInt + a.toInt)))) ∧
   Lane2d .subS32Sat (fun d a => BitVec.ofInt 32 (max (-2 ^ 31) (min (2 ^ 31 - 1) (d.toInt - a.toInt)))) ∧
   (∀ s c g d a n, Issuing s c g → ∃ t, exec (.sel d a n) s = .next t ∧ WritesV s t c g (fun r l =>
     if r = d.toNat then some (if g.pred n.toNat l = true then g.readV a.toNat l else g.readV d.toNat l) else none)) ∧
   (∀ s c g d a n, Issuing s c g → ∃ t, exec (.selNot d a n) s = .next t ∧ WritesV s t c g (fun r l =>
     if r = d.toNat then some (if g.pred n.toNat l = true then g.readV d.toNat l else g.readV a.toNat l) else none)))) ∧
  ((∀ s c g d a k, Issuing s c g → ∃ t, exec (.lea d a k) s = .next t ∧ WritesV s t c g (fun r l =>
    let x := g.sPair k + (g.vv a l).signExtend 64
    if r = d.toNat then some ⟨loHalf x, g.sPairT k || g.vt a l⟩ else if r = d.toNat + 1 then some ⟨hiHalf x, g.sPairT k || g.vt a l⟩ else none)) ∧
  (∀ s c g d a k, Issuing s c g → ∃ t, exec (.leaX4 d a k) s = .next t ∧ WritesV s t c g (fun r l =>
    let x := g.sPair k + 4 * (g.vv a l).signExtend 64
    if r = d.toNat then some ⟨loHalf x, g.sPairT k || g.vt a l⟩ else if r = d.toNat + 1 then some ⟨hiHalf x, g.sPairT k || g.vt a l⟩ else none)) ∧
  (∀ s c g d (j : BitVec 14), Issuing s c g → ∃ t, exec (.movi d j) s = .next t ∧
    WritesV s t c g (fun r _ => if r = d.toNat then some ⟨BitVec.ofInt 32 j.toInt, false⟩ else none)) ∧
  (∀ s c g d (j : BitVec 14), Issuing s c g → ∃ t, exec (.addi d j) s = .next t ∧
    WritesV s t c g (fun r l => if r = d.toNat then some ⟨g.vv d l + BitVec.ofInt 32 j.toInt, g.vt d l⟩ else none))) ∧
  (∀ s g l, let b := FMap.getD s.blocks g.block {}
     let is := fun (i : Nat) (n : Nat) => special s g i l = BitVec.ofNat 32 n
     is 0 l ∧ is 1 (l / 4) ∧ is 2 g.grp ∧ is 3 b.bx ∧ is 4 b.by_ ∧ is 5 b.bz ∧ is 6 (g.core / 8) ∧ is 7 b.gx ∧ is 8 b.gy ∧ is 9 b.gz ∧ is 10 g.core ∧
     is 11 g.die ∧ special s g 12 l = (g.lane l).strand ∧ is 13 (frameDepth s g) ∧ is 14 (s.die g.die).mg.world ∧
     is 15 (s.gen (s.ctx g.die g.ctx).asid).toNat)

/-- Comparisons and predicate logic write pd in each lane of ACTIVE, where no lane that is no helper reads a poisoned source; a helper
that reads one keeps its predicate. The comparisons of words: the signed and unsigned ones order as the integers do, the floating-point ones as the numbers do, with −0 equal to +0, an
ordered one false of a NaN and an unordered one true. A comparison that reads a poisoned source in a lane of ACTIVE that is no helper
raises POISON and writes no predicate.
Rests on spec/04_lane_instructions.md. -/
def Obligations.LanePredicates : Prop :=
  ((∀ s c g e a b k, Issuing s c g → (∀ l, active c g l = true → (g.lane l).helper = false → g.vt a l = false ∧ g.vt b l = false) →
     ∃ t, exec (.cmpi e a b k) s = .next t ∧ WritesP s t c g e.toNat (fun l =>
       if g.vt a l = true ∨ g.vt b l = true then g.pred e.toNat l else cmpInt k (g.vv a l) (g.vv b l))) ∧
   (∀ s c g e a b k, Issuing s c g → (∀ l, active c g l = true → (g.lane l).helper = false → g.vt a l = false ∧ g.vt b l = false) →
     ∃ t, exec (.cmpf e a b k) s = .next t ∧ WritesP s t c g e.toNat (fun l =>
       if g.vt a l = true ∨ g.vt b l = true then g.pred e.toNat l else cmpFloat k (g.vv a l) (g.vv b l))) ∧
   (∀ s c g e f h t', Issuing s c g → ∃ t, exec (.plop e f h t') s = .next t ∧
     WritesP s t c g e.toNat (fun l => t'.getLsbD (2 * (g.pred f.toNat l).toNat + (g.pred h.toNat l).toNat)))) ∧
  (∀ a b : Word,
     (cmpInt 0x0 a b = true ↔ a = b) ∧ (cmpInt 0x1 a b = true ↔ a ≠ b) ∧
     (cmpInt 0x2 a b = true ↔ a.toInt < b.toInt) ∧ (cmpInt 0x3 a b = true ↔ a.toInt ≤ b.toInt) ∧
     (cmpInt 0x4 a b = true ↔ a.toInt > b.toInt) ∧ (cmpInt 0x5 a b = true ↔ a.toInt ≥ b.toInt) ∧
     (cmpInt 0x6 a b = true ↔ a.toNat < b.toNat) ∧ (cmpInt 0x7 a b = true ↔ a.toNat ≤ b.toNat) ∧
     (cmpInt 0x8 a b = true ↔ a.toNat > b.toNat) ∧ (cmpInt 0x9 a b = true ↔ a.toNat ≥ b.toNat) ∧
     (cmpInt 0xA a b = true ↔ a &&& b ≠ 0) ∧ (cmpInt 0xB a b = true ↔ a &&& b = 0)) ∧
  (∀ a b : Word,
     let x := fv32 a
     let y := fv32 b
     (∀ k : BitVec 4, k.toNat < 14 → x.isNan = true ∨ y.isNan = true → (cmpFloat k a b = true ↔ 7 ≤ k.toNat)) ∧
     (x.isNan = false → y.isNan = false → cmpFloat 0x6 a b = true ∧ cmpFloat 0x7 a b = false ∧ ∀ k ∈ [0x0#4, 0x8#4],
       (cmpFloat k a b = true ↔ rank x = rank y) ∧ (cmpFloat (k + 1) a b = true ↔ rank x ≠ rank y) ∧ (cmpFloat (k + 2) a b = true ↔ rank x < rank y) ∧
       (cmpFloat (k + 3) a b = true ↔ rank x ≤ rank y) ∧ (cmpFloat (k + 4) a b = true ↔ rank x > rank y) ∧
       (cmpFloat (k + 5) a b = true ↔ rank x ≥ rank y))) ∧
  (∀ s c g e a b k l, Issuing s c g → active c g l = true → (g.lane l).helper = false → (g.vt a l = true ∨ g.vt b l = true) →
     (∃ t, exec (.cmpi e a b k) s = .next t ∧ Poisoned s t c g) ∧ (∃ t, exec (.cmpf e a b k) s = .next t ∧ Poisoned s t c g))

/-- Votes over the inputs, the lanes of ACTIVE that are no helpers; each lane of ACTIVE is owed the outcome.
Rests on spec/04_lane_instructions.md. -/
def Obligations.Votes : Prop :=
  ∀ s c g e f, Issuing s c g →
    (∃ t b, exec (.voteAny e f) s = .next t ∧ OwesV s t c g (fun l => [(.p e.toNat l, preg b)]) ∧
      (b = true ↔ ∃ l, active c g l = true ∧ (g.lane l).helper = false ∧ g.pred f.toNat l = true)) ∧
    (∃ t b, exec (.voteAll e f) s = .next t ∧ OwesV s t c g (fun l => [(.p e.toNat l, preg b)]) ∧
      (b = true ↔ ∀ l, active c g l = true → (g.lane l).helper = false → g.pred f.toNat l = true)) ∧
    (∃ t b, exec (.voteEq e f) s = .next t ∧ OwesV s t c g (fun l => [(.p e.toNat l, preg b)]) ∧
      (b = true ↔ ∃ v, ∀ l, active c g l = true → (g.lane l).helper = false → g.pred f.toNat l = v)) ∧
    (∀ k, ∃ t m, exec (.voteBallot f k) s = .next t ∧ OwesU s t c g [(.s k.toNat, ⟨m, false⟩)] ∧
      ∀ l, l < 32 → m.getLsbD l = (active c g l && !(g.lane l).helper && g.pred f.toNat l))

/-- FP32 arithmetic in .rne, each result the exact value rounded once; sums and products of numbers are exact, an exact zero of terms that are not zeros of one
sign is +0; toll counter 4 counts the operations (the model's reading, log entry 30). A
minimum or maximum passes a NaN over, and has −0 below +0. The one-source forms: the sign bit cleared or inverted; one of ten classes; a number
rounded to a whole one in the mode, keeping its sign.
Rests on spec/03_number_formats.md, spec/04_lane_instructions.md, spec/20_trust_meters_and_service.md. -/
def Obligations.FloatArithmetic : Prop :=
  (∀ x, toF32 x = BitVec.ofNat 32 (fp32.round .rne x)) ∧
  (∀ (down n k : Bool) (m l : Nat) (e q : Int), ∃ n' m' e', Fv.add down (.fin n m e) (.fin k l q) = .fin n' m' e' ∧
    num (.fin n' m' e') = num (.fin n m e) + num (.fin k l q) ∧ (m' = 0 → n' = if m = 0 ∧ l = 0 ∧ n = k then n else down)) ∧
  (∀ (n k : Bool) (m l : Nat) (e q : Int), ∃ m' e', Fv.mul (.fin n m e) (.fin k l q) = .fin (n != k) m' e' ∧
    num (.fin (n != k) m' e') = num (.fin n m e) * num (.fin k l q)) ∧
  (Float3 1 .faddF32 (fun a b => toF32 (Fv.add false (fv32 a) (fv32 b))) ∧
   Float3 1 .fsubF32 (fun a b => toF32 (Fv.add false (fv32 a) (fv32 b).neg)) ∧
   Float3 1 .fmulF32 (fun a b => toF32 (Fv.mul (fv32 a) (fv32 b))) ∧
   Float3d 2 .fmacF32 (fun d a b => toF32 (Fv.add false (Fv.mul (fv32 a) (fv32 b)) (fv32 d))) ∧
   (∀ s c g d a k, Issuing s c g → ∃ t, exec (.fmaF32 d a k) s = .next t ∧ WritesV (tolled s c g 2) t c g (fun r l =>
     if r = d.toNat then some ⟨toF32 (Fv.add false (Fv.mul (fv32 (g.vv a l)) (fv32 (g.vv d l))) (fv32 (g.sv k))), g.vt a l || g.vt d l || g.st k⟩
     else none)) ∧
   (∀ s c g d a k, Issuing s c g → ∃ t, exec (.fmaF32Neg d a k) s = .next t ∧ WritesV (tolled s c g 2) t c g (fun r l =>
     if r = d.toNat then
       some ⟨toF32 (Fv.add false (Fv.mul (fv32 (g.vv a l)) (fv32 (g.vv d l))).neg (fv32 (g.sv k))), g.vt a l || g.vt d l || g.st k⟩
     else none)) ∧
   (∃ lo hi : Word → Word → Word, Lane3 .fminF32 lo ∧ Lane3 .fmaxF32 hi ∧
     (∀ a b, (fv32 a).isNan = true → (fv32 b).isNan = true → lo a b = nan32 ∧ hi a b = nan32) ∧
     (∀ a b, (fv32 a).isNan = true → (fv32 b).isNan = false → lo a b = b ∧ hi a b = b ∧ lo b a = b ∧ hi b a = b) ∧
     (∀ a b, (fv32 a).isNan = false → (fv32 b).isNan = false → Fv.lt (fv32 a) (fv32 b) = true →
       lo a b = a ∧ lo b a = a ∧ hi a b = b ∧ hi b a = b) ∧
     lo 0x80000000#32 0#32 = 0x80000000#32 ∧ lo 0#32 0x80000000#32 = 0x80000000#32 ∧ hi 0x80000000#32 0#32 = 0#32 ∧ hi 0#32 0x80000000#32 = 0#32)) ∧
  (Lane2 .fabsF32 (fun a => a &&& 0x7FFFFFFF#32) ∧ Lane2 .fnegF32 (fun a => a ^^^ 0x80000000#32) ∧
   (∃ cls : Word → Word, Lane2 .fclassF32 cls ∧
     (∀ a, cls a ∈ (List.range 10).map (fun i => (1#32 <<< i : Word))) ∧
     cls 0xFF800000#32 = 1 ∧ cls 0x80000000#32 = 8 ∧ cls 0#32 = 16 ∧ cls 0x7F800000#32 = 128 ∧
     (∀ a, (cls a = 256 ∨ cls a = 512) ↔ (fv32 a).isNan = true)) ∧
   (∀ r : BitVec 3, r.toNat ≤ 4 → ∃ f : Word → Word, Lane2 (fun d a => .frndF32 d a r) f ∧
     (∀ a, (fv32 a).isNan = true → f a = nan32) ∧ (∀ n, f (inf32 n) = inf32 n ∧ f (zero32 n) = zero32 n) ∧
     (∀ a n m e, fv32 a = .fin n m e → (0 ≤ e → f a = a) ∧
       ∀ i, e < 0 → Fv.toInt (rndOf r.toNat 0 0) (.fin n m e) = some i → f a = BitVec.ofNat 32 (fp32.roundFin .rne n i.natAbs 0))))

/-- Packed halves, each rounded once in .rne, and DOT4, its five terms summed exactly and rounded once.
Rests on spec/04_lane_instructions.md. -/
def Obligations.PackedArithmetic : Prop :=
  Float3 2 .hadd2Bf16 (packed2 bf16 (Fv.add false)) ∧ Float3 2 .hmul2Bf16 (packed2 bf16 Fv.mul) ∧ Float3d 4 .hfma2Bf16 (packed3 bf16) ∧
  Float3 2 .hadd2F16 (packed2 fp16 (Fv.add false)) ∧ Float3 2 .hmul2F16 (packed2 fp16 Fv.mul) ∧ Float3d 4 .hfma2F16 (packed3 fp16) ∧
  Float3d 8 .dot4E4m3 dot4 ∧
  (∀ d a b : Word, let term := fun (i : Nat) => (e4m3.decode (a.toNat / 2 ^ (8 * i) % 256), e4m3.decode (b.toNat / 2 ^ (8 * i) % 256))
    ((fv32 d).isNan = true ∨ (∃ i, i < 4 ∧ ((term i).1.isNan = true ∨ (term i).2.isNan = true)) → dot4 d a b = nan32) ∧
    (∀ n, fv32 d = .inf n → (∀ i, i < 4 → (term i).1.isNan = false ∧ (term i).2.isNan = false) → dot4 d a b = inf32 n) ∧
    (∀ n m e, fv32 d = .fin n m e → (∀ i, i < 4 → (term i).1.isNan = false ∧ (term i).2.isNan = false) →
      ∃ n' m' e', dot4 d a b = toF32 (.fin n' m' e') ∧
        num (.fin n' m' e') = num (fv32 d) + num (term 0).1 * num (term 0).2 + num (term 1).1 * num (term 1).2 + num (term 2).1 * num (term 2).2 +
          num (term 3).1 * num (term 3).2)) ∧
  (∀ f : Fmt, ∀ op x y, (packed2 f op x y).toNat % 65536 = f.round .rne (op (f.decode (x.toNat % 65536)) (f.decode (y.toNat % 65536))) % 65536 ∧
    (packed2 f op x y).toNat / 65536 = f.round .rne (op (f.decode (x.toNat / 65536)) (f.decode (y.toNat / 65536))) % 65536)

/-- The two-address forms d := d op a with a rounding mode and .ftz, which takes a subnormal source, and gives a subnormal result, as zero of its sign.
Rests on spec/04_lane_instructions.md. -/
def Obligations.TwoAddressForms : Prop :=
  (∀ (f : Fmt) (r : BitVec 3) op x y, r.toNat ≤ 4 →
    moded f r 0 op x y = f.round ([Rnd.rne, .rz, .ru, .rd, .rna].getD r.toNat .rne) (op (decide (r = 3)) (f.decode x) (f.decode y)) ∧
    (f.isSub x = true → moded f r 1 op x y = moded f r 1 op (f.signBit (x.testBit (f.ew + f.mw))) y) ∧
    (f.isSub y = true → moded f r 1 op x y = moded f r 1 op x (f.signBit (y.testBit (f.ew + f.mw)))) ∧
    (f.isSub x = false → f.isSub y = false → f.isSub (moded f r 0 op x y) = false → moded f r 1 op x y = moded f r 0 op x y) ∧
    (f.isSub x = false → f.isSub y = false → f.isSub (moded f r 0 op x y) = true →
      moded f r 1 op x y = f.signBit ((moded f r 0 op x y).testBit (f.ew + f.mw)))) ∧
  ∀ (r : BitVec 3) (z : BitVec 1),
    Float2d 1 (fun d a => .faddF322a d a r z) (fun o x => BitVec.ofNat 32 (moded fp32 r z (fun n x y => Fv.add n x y) o.toNat x.toNat)) ∧
    Float2d 1 (fun d a => .fsubF322a d a r z) (fun o x => BitVec.ofNat 32 (moded fp32 r z (fun n x y => Fv.add n x y.neg) o.toNat x.toNat)) ∧
    Float2d 1 (fun d a => .fmulF322a d a r z) (fun o x => BitVec.ofNat 32 (moded fp32 r z (fun _ x y => Fv.mul x y) o.toNat x.toNat)) ∧
    Float2d 2 (fun d a => .hadd2Bf162a d a r z) (fun o x =>
      halves (moded bf16 r z (fun n x y => Fv.add n x y) (half o 0) (half x 0)) (moded bf16 r z (fun n x y => Fv.add n x y) (half o 1) (half x 1))) ∧
    Float2d 2 (fun d a => .hmul2Bf162a d a r z) (fun o x =>
      halves (moded bf16 r z (fun _ x y => Fv.mul x y) (half o 0) (half x 0)) (moded bf16 r z (fun _ x y => Fv.mul x y) (half o 1) (half x 1))) ∧
    Float2d 2 (fun d a => .hadd2F162a d a r z) (fun o x =>
      halves (moded fp16 r z (fun n x y => Fv.add n x y) (half o 0) (half x 0)) (moded fp16 r z (fun n x y => Fv.add n x y) (half o 1) (half x 1))) ∧
    Float2d 2 (fun d a => .hmul2F162a d a r z) (fun o x =>
      halves (moded fp16 r z (fun _ x y => Fv.mul x y) (half o 0) (half x 0)) (moded fp16 r z (fun _ x y => Fv.mul x y) (half o 1) (half x 1)))

/-- The rounding of a number to a format. Between two neighbouring codes it goes to one of the two, as the mode says: to the nearer, a tie to the even one
or away from zero; toward zero; toward an infinity; or by chance, as the random word lies below the part cut off. A number that a code stands for is
that code. Beyond the largest finite number the nearest modes reach the infinity from half a unit on; .rz, and the directed modes away from their
infinity, keep the largest; E4M3 has 448 for all. A NaN gives the format's canonical one, and a zero keeps its sign (in E4M3 too, log entry 62).
Rests on spec/03_number_formats.md. -/
def Obligations.RoundingRule : Prop :=
  (∀ f ∈ floatFormats, ∀ (mode : Rnd) (neg : Bool) (m : Nat) (e : Int), 0 < m →
    let v : ℚ := m * (2 : ℚ) ^ e
    let r := f.round mode (.fin neg m e)
    let top := f.maxBits false
    let sign := fun (c : Nat) => c + if neg then 2 ^ (f.ew + f.mw) else 0
    let x := (v - mag f top) / (mag f top - mag f (top - 1))
    (∀ c, c ≤ top → mag f c = v → r = sign c) ∧
    (∀ c, c < top → mag f c < v → v < mag f (c + 1) →
      let y := (v - mag f c) / (mag f (c + 1) - mag f c)
      (AwayAt mode neg c y → r = sign (c + 1)) ∧ (¬ AwayAt mode neg c y → r = sign c)) ∧
    (mag f top < v →
      (mode = .rz → r = sign top) ∧
      (mode = .ru → r = if neg then f.maxBits true else f.infBits false) ∧
      (mode = .rd → r = if neg then f.infBits true else f.maxBits false) ∧
      (mode = .rne ∨ mode = .rna → r = if x < 1 / 2 then f.maxBits neg else f.infBits neg) ∧
      ∀ h, mode = .rs h → r = if x < 1 ∧ ⌊x * 2 ^ 32⌋ ≤ (h.toNat : Int) then f.maxBits neg else f.infBits neg)) ∧
  (∀ (f : Fmt) mode neg e, f.round mode (.fin neg 0 e) = (if neg then 2 ^ (f.ew + f.mw) else 0) ∧ f.round mode .nan = f.nan ∧
    f.round mode (.inf neg) = f.infBits neg) ∧
  floatFormats.map (fun f => f.nan) = [0x7FC00000, 0x7E00, 0x7FC0, 0x7E, 0x7F] ∧
  floatFormats.map (fun f => f.infBits false) = [0x7F800000, 0x7C00, 0x7F80, 0x7C, 0x7E] ∧
  floatFormats.map (fun f => f.infBits true) = [0xFF800000, 0xFC00, 0xFF80, 0xFC, 0xFE] ∧
  floatFormats.map (fun f => f.maxBits false) = [0x7F7FFFFF, 0x7BFF, 0x7F7F, 0x7B, 0x7E] ∧
  floatFormats.map (fun f => mag f (f.maxBits false)) = [(2 - 1 / 2 ^ 23) * 2 ^ 127, 65504, (2 - 1 / 2 ^ 7) * 2 ^ 127, 57344, 448]

/-- Conversions; under .rs the random bits of element j of lane l come from s60, whose tag then joins the sources'
(log entry 13).
Rests on spec/03_number_formats.md, spec/04_lane_instructions.md. -/
def Obligations.Conversions : Prop :=
  ∀ s c g d a (r : BitVec 3), Issuing s c g →
    let ends := fun (i : Instr) (x : Nat → Word) => ∃ t, exec i s = .next t ∧
      WritesV s t c g (fun n l => if n = d.toNat then some ⟨x l, g.vt a l || (r == 5#3 && (g.readS 60).tag)⟩ else none)
    let both := fun (i : Instr) (x : Nat → Word) => ∃ t, exec i s = .next t ∧
      WritesV s t c g (fun n l => if n = d.toNat then some ⟨x l, g.vt d l || g.vt a l || (r == 5#3 && (g.readS 60).tag)⟩ else none)
    let m := fun l j => rndOf r.toNat (g.readS 60).val (8 * l + j)
    ends (.cvtEncF16 d a r) (fun l => BitVec.ofNat 32 (fp16.round (m l 0) (fv32 (g.vv a l)))) ∧
    ends (.cvtEncBf16 d a r) (fun l => BitVec.ofNat 32 (bf16.round (m l 0) (fv32 (g.vv a l)))) ∧
    ends (.cvtEncE4m3 d a r) (fun l => BitVec.ofNat 32 (e4m3.round (m l 0) (fv32 (g.vv a l)))) ∧
    ends (.cvtEncE5m2 d a r) (fun l => BitVec.ofNat 32 (e5m2.round (m l 0) (fv32 (g.vv a l)))) ∧
    ends (.cvtEncS32 d a r) (fun l => encI (-2 ^ 31) (2 ^ 31 - 1) (m l 0) (g.vv a l)) ∧
    ends (.cvtEncN32 d a r) (fun l => encI 0 (2 ^ 32 - 1) (m l 0) (g.vv a l)) ∧
    ends (.cvtDecS32 d a r) (fun l => decI (m l 0) (g.vv a l).toInt) ∧ ends (.cvtDecN32 d a r) (fun l => decI (m l 0) (g.vv a l).toNat) ∧
    both (.cvtPkBf16 d a r) (fun l => halves (bf16.round (m l 0) (fv32 (g.vv d l))) (bf16.round (m l 1) (fv32 (g.vv a l)))) ∧
    both (.cvtPkF16 d a r) (fun l => halves (fp16.round (m l 0) (fv32 (g.vv d l))) (fp16.round (m l 1) (fv32 (g.vv a l)))) ∧
    both (.cvtPk2E4m3 d a r) (fun l => pack2F e4m3 (m l 2) (m l 3) (g.vv d l) (g.vv a l)) ∧
    both (.cvtPk2E5m2 d a r) (fun l => pack2F e5m2 (m l 2) (m l 3) (g.vv d l) (g.vv a l)) ∧
    Lane2 .cvtDecF16 (fun a => toF32 (fp16.decode (a.toNat % 2 ^ 16))) ∧ Lane2 .cvtDecBf16 (fun a => toF32 (bf16.decode (a.toNat % 2 ^ 16))) ∧
    Lane2 .cvtDecE4m3 (fun a => toF32 (e4m3.decode (a.toNat % 2 ^ 8))) ∧ Lane2 .cvtDecE5m2 (fun a => toF32 (e5m2.decode (a.toNat % 2 ^ 8)))

/-- The block conversions, which shift the new codes into the register from above or take two codes out of a byte, and the scale of a strip. A zero
gives the zero scale, an infinity or NaN the bad one; any other value, whatever its sign, the least scale by which 6 reaches its magnitude.
Rests on spec/04_lane_instructions.md. -/
def Obligations.BlockConversions : Prop :=
  (∀ s c g d a (r : BitVec 1), Issuing s c g →
    let sc := fun l => (g.readV (a.toNat + 1) l).val
    let tag := fun l => g.vt d l || g.vPairT a l || (r == 1#1 && (g.readS 60).tag)
    let m := fun l j => rndOf (if r = 1#1 then 5 else 0) (g.readS 60).val (8 * l + j)
    (∃ t, exec (.cvtBlkPk d a r) s = .next t ∧ WritesV s t c g (fun n l => if n = d.toNat then
      some ⟨(g.vv d l >>> 8) ||| (BitVec.ofNat 32 (quantise (sc l) (m l 6) (bf16.decode (half (g.vv a l) 0)) +
        16 * quantise (sc l) (m l 7) (bf16.decode (half (g.vv a l) 1))) <<< 24), tag l⟩ else none)) ∧
    (∃ t, exec (.cvtBlkEnc d a r) s = .next t ∧ WritesV s t c g (fun n l => if n = d.toNat then
      some ⟨(g.vv d l >>> 4) ||| (BitVec.ofNat 32 (quantise (sc l) (m l 7) (fv32 (g.vv a l))) <<< 28), tag l⟩ else none))) ∧
  (∀ s c g d a (k : BitVec 2), Issuing s c g → ∃ t, exec (.cvtBlkDec d a k) s = .next t ∧ WritesV s t c g (fun n l =>
    let sc := (g.readV (a.toNat + 1) l).val
    let byte := (g.vv a l).toNat / 2 ^ (8 * k.toNat) % 256
    let q := fun x => if scaleE sc = 255 then 0x7FC0 else bf16.round .rne (e2m1Val sc x)
    if n = d.toNat then some ⟨halves (q (byte % 16)) (q (byte / 16)), g.vPairT a l⟩ else none)) ∧
  (∃ f : Word → Word, Lane2 .bscale f ∧ Lane2d .bscaleKeepx (fun d a => f a ||| (d &&& 0xFFFF#32)) ∧
    (∀ a, (f a).toNat % 65536 = 0) ∧ f 0#32 = 0 ∧ f 0x80000000#32 = 0 ∧ f 0x7F800000#32 = 0xFF000000#32 ∧ f nan32 = 0xFF000000#32 ∧
    (∀ a, f (a ^^^ 0x80000000#32) = f a) ∧
    ∀ a n m e, fv32 a = .fin n m e → m ≠ 0 →
      let reaches := fun (E M : Nat) => m * 2 ^ (e + 149).toNat ≤ 6 * (256 + M) * 2 ^ (E + 14)
      let E := (f a).toNat / 2 ^ 24
      let M := (f a).toNat / 2 ^ 16 % 256
      1 ≤ E ∧ E ≤ 254 ∧ reaches E M ∧ ∀ E' M', 1 ≤ E' → E' ≤ 254 → M' ≤ 255 → reaches E' M' → (256 + M) * 2 ^ E ≤ (256 + M') * 2 ^ E')

/-- Each SFU function's result of its source, tagged as the source is, is outstanding in each lane of ACTIVE; SINCOS owes both of a pair. The results
for the special inputs +0, −0, +∞, −∞ and every NaN.
Rests on spec/04_lane_instructions.md. -/
def Obligations.SfuResults : Prop :=
  (LaneOwes .rcp sfuRcp ∧ LaneOwes .rsq sfuRsq ∧ LaneOwes .sqrt sfuSqrt ∧ LaneOwes .exp2 sfuExp2 ∧ LaneOwes .log2 sfuLog2 ∧
   LaneOwes .sin sfuSin ∧ LaneOwes .cos sfuCos ∧ LaneOwes .tanh sfuTanh ∧
   (∀ s c g d a, Issuing s c g → ∃ t, exec (.sincos d a) s = .next t ∧ OwesV s t c g (fun l =>
     [(.v d.toNat l, ⟨sfuSin (g.vv a l), g.vt a l⟩), (.v (d.toNat + 1) l, ⟨sfuCos (g.vv a l), g.vt a l⟩)]))) ∧
  ((sfuRcp 0#32 = inf32 false ∧ sfuRcp 0x80000000#32 = inf32 true ∧ sfuRcp (inf32 false) = 0#32 ∧ sfuRcp (inf32 true) = 0x80000000#32) ∧
   (sfuRsq 0#32 = inf32 false ∧ sfuRsq 0x80000000#32 = inf32 true ∧ sfuRsq (inf32 false) = 0#32 ∧ sfuRsq (inf32 true) = nan32) ∧
   (sfuSqrt 0#32 = 0#32 ∧ sfuSqrt 0x80000000#32 = 0x80000000#32 ∧ sfuSqrt (inf32 false) = inf32 false ∧ sfuSqrt (inf32 true) = nan32) ∧
   (sfuExp2 0#32 = 0x3F800000#32 ∧ sfuExp2 0x80000000#32 = 0x3F800000#32 ∧ sfuExp2 (inf32 false) = inf32 false ∧ sfuExp2 (inf32 true) = 0#32) ∧
   (sfuLog2 0#32 = inf32 true ∧ sfuLog2 0x80000000#32 = inf32 true ∧ sfuLog2 (inf32 false) = inf32 false ∧ sfuLog2 (inf32 true) = nan32) ∧
   (sfuSin 0#32 = 0#32 ∧ sfuSin 0x80000000#32 = 0x80000000#32 ∧ sfuSin (inf32 false) = nan32 ∧ sfuSin (inf32 true) = nan32) ∧
   (sfuCos 0#32 = 0x3F800000#32 ∧ sfuCos 0x80000000#32 = 0x3F800000#32 ∧ sfuCos (inf32 false) = nan32 ∧ sfuCos (inf32 true) = nan32) ∧
   (sfuTanh 0#32 = 0#32 ∧ sfuTanh 0x80000000#32 = 0x80000000#32 ∧ sfuTanh (inf32 false) = 0x3F800000#32 ∧ sfuTanh (inf32 true) = 0xBF800000#32) ∧
   (∀ a, (fv32 a).isNan = true → sfuRcp a = nan32 ∧ sfuRsq a = nan32 ∧ sfuSqrt a = nan32 ∧ sfuExp2 a = nan32 ∧ sfuLog2 a = nan32 ∧
     sfuSin a = nan32 ∧ sfuCos a = nan32 ∧ sfuTanh a = nan32))

/-- The cross-lane instructions; a source outside ACTIVE gives the lane's own value. TOPK ranks the values of the lanes of ACTIVE that are no helpers: a
lane below the count and below the number of candidates takes the value and the lane number of the candidate that exactly as many candidates
precede; the others take the filler; all are tagged when a candidate or the count is.
Rests on spec/04_lane_instructions.md. -/
def Obligations.CrossLane : Prop :=
  (LaneMoves .qxchPair (fun l => l ^^^ 1) ∧ LaneMoves .qxchHalf (fun l => l ^^^ 2) ∧ LaneMoves .qxchDiag (fun l => l ^^^ 3) ∧
   (∀ k : BitVec 2, LaneMoves (fun d a => .qxchBc d a k) (fun l => l / 4 * 4 + k.toNat)) ∧
   (∀ n : BitVec 5, LaneMoves (fun d a => .shflUp d a n) (fun l => if n.toNat ≤ l then l - n.toNat else l) ∧
     LaneMoves (fun d a => .shflDown d a n) (fun l => l + n.toNat) ∧ LaneMoves (fun d a => .shflXor d a n) (fun l => l ^^^ n.toNat)) ∧
   (∀ s c g d a b, Issuing s c g → ∃ t, exec (.perm d a b) s = .next t ∧ OwesV s t c g (fun l =>
     let src := (g.vv b l).toNat % 32
     let x := g.readV a.toNat (if active c g src = true then src else l)
     [(.v d.toNat l, ⟨x.val, x.tag || g.vt b l⟩)])) ∧
   (∀ s c g d a (o : BitVec 3), Issuing s c g → ∃ t, exec (.qred d a o) s = .next t ∧ OwesV s t c g (fun l =>
     let w := fun i =>
       let k := l / 4 * 4 + i
       if active c g k = true ∧ (g.lane k).helper = false then g.readV a.toNat k else ⟨qredId o.toNat, false⟩
     [(.v d.toNat l, ⟨qredOp o.toNat (qredOp o.toNat (w 0).val (w 1).val) (qredOp o.toNat (w 2).val (w 3).val),
       (w 0).tag || (w 1).tag || (w 2).tag || (w 3).tag⟩)]))) ∧
  (∀ s c g d a (k : BitVec 6), Issuing s c g → ∀ hi : Bool, ∃ t, ∃ x y : Nat → Reg, exec (if hi then .topkMax d a k else .topkMin d a k) s = .next t ∧
     OwesV s t c g (fun l => [(.v d.toNat l, x l), (.v (d.toNat + 1) l, y l)]) ∧
     let cs := activeReal c g
     let n := min (min (g.sv k).toNat 32) cs.length
     let tag := g.st k || cs.any (fun j => g.vt a j)
     ∀ l, active c g l = true →
       (n ≤ l → x l = ⟨inf32 hi, tag⟩ ∧ y l = ⟨0xFFFFFFFF#32, tag⟩) ∧
       (l < n → ∃ j ∈ cs, (cs.filter (fun i => topkBefore hi g a i j)).length = l ∧ x l = ⟨g.vv a j, tag⟩ ∧ y l = ⟨BitVec.ofNat 32 j, tag⟩))

/-- Deep registers through a uniform index: VXW writes one, VX is owed one with no write to it outstanding, and an index outside the
declaration raises ADDR for either.
Rests on spec/01_registers_and_state.md, spec/04_lane_instructions.md. -/
def Obligations.DeepRegisters : Prop :=
  ∀ s c g (d j : BitVec 7) (k : BitVec 6), Issuing s c g →
    let n := (g.sv k).toNat + j.toNat
    (n < g.ndeep → ∃ t, exec (.vxw d j k) s = .next t ∧ Quiet s t c.gid ∧ ∃ h, FMap.get? t.groups c.gid = some h ∧
      (∀ r l, l < 32 → h.readDeep r l = if active c g l = true ∧ r = n then ⟨g.vv d l, g.vt d l || g.st k⟩ else g.readDeep r l) ∧
      h.v = g.v ∧ h.s = g.s ∧ h.p = g.p ∧ h.q = g.q ∧ At c g h (fun _ => after c)) ∧
    (n < g.ndeep → g.pend = [] → ∃ t, exec (.vx d j k) s = .next t ∧
      OwesV s t c g (fun l => [(.v d.toNat l, ⟨(g.readDeep n l).val, (g.readDeep n l).tag || g.st k⟩)])) ∧
    (g.ndeep ≤ n → (∃ l, active c g l = true) →
      (∃ t, exec (.vxw d j k) s = .next t ∧ Traps s t c g cAddr 0) ∧ (∃ t, exec (.vx d j k) s = .next t ∧ Traps s t c g cAddr 0))

/-! ## Uniform instructions (spec/05) -/

/-- The three-source forms, under a true guard; a false guard writes nothing. The 64-bit pair forms. The unary and bit-field forms; the bit functions
are those of the lanes, with the sign by the suffix.
Rests on spec/04_lane_instructions.md, spec/05_uniform_and_control.md. -/
def Obligations.UniformIntegers : Prop :=
  ((Uni3 .sadd (fun a b => a + b) ∧ Uni3 .ssub (fun a b => a - b) ∧
   Uni3 .sand (fun a b => a &&& b) ∧ Uni3 .sor (fun a b => a ||| b) ∧ Uni3 .sxor (fun a b => a ^^^ b) ∧
   Uni3 .sshl (fun a b => if b.toNat < 32 then a <<< b.toNat else 0) ∧
   Uni3 .sshrN32 (fun a b => if b.toNat < 32 then a >>> b.toNat else 0) ∧
   Uni3 .sshrS32 (fun a b => BitVec.ofInt 32 (a.toInt / 2 ^ min b.toNat 32)) ∧
   Uni3 .smul (fun a b => a * b) ∧
   Uni3 .smulhS32 (fun a b => BitVec.ofInt 32 (a.toInt * b.toInt / 2 ^ 32)) ∧
   Uni3 .smulhN32 (fun a b => BitVec.ofNat 32 (a.toNat * b.toNat / 2 ^ 32)) ∧
   Uni3 .sminS32 (fun a b => if a.toInt ≤ b.toInt then a else b) ∧ Uni3 .smaxS32 (fun a b => if a.toInt ≤ b.toInt then b else a) ∧
   Uni3 .sminN32 (fun a b => if a.toNat ≤ b.toNat then a else b) ∧ Uni3 .smaxN32 (fun a b => if a.toNat ≤ b.toNat then b else a) ∧
   Uni3 .srot (fun a b => a.rotateLeft (b.toNat % 32))) ∧
  (Uni64 .saddB64 (fun a b => a + b) ∧ Uni64 .ssubB64 (fun a b => a - b) ∧
   Uni64 .sandB64 (fun a b => a &&& b) ∧ Uni64 .sorB64 (fun a b => a ||| b) ∧ Uni64 .sxorB64 (fun a b => a ^^^ b) ∧
   UniShift .sshlB64 (fun a n => if n < 64 then a <<< n else 0) ∧ UniShift .sshrN64 (fun a n => if n < 64 then a >>> n else 0) ∧
   UniShift .sshrS64 (fun a n => BitVec.ofInt 64 (a.toInt / 2 ^ min n 64)))) ∧
  (Uni2 .smov (fun a => a) ∧ Uni2 .snot (fun a => ~~~a) ∧
  (∃ popc clz brev : Word → Word, Uni2 .spopc popc ∧ Uni2 .sclz clz ∧ Uni2 .sbrev brev ∧
    (∀ a, (popc a).toNat = ((List.range 32).map (fun i => (a.getLsbD i).toNat)).sum) ∧
    (∀ a, (clz a).toNat ≤ 32 ∧ (∀ i, i < (clz a).toNat → a.getLsbD (31 - i) = false) ∧
      ((clz a).toNat < 32 → a.getLsbD (31 - (clz a).toNat) = true)) ∧
    (∀ a i, i < 32 → (brev a).getLsbD i = a.getLsbD (31 - i))) ∧
  (∃ extN extS : Word → Word → Word, ∃ ins : Word → Word → Word → Word, Uni3 .sbfeN32 extN ∧ Uni3 .sbfeS32 extS ∧
    (∀ s c g d a b, Issuing s c g → ∃ t, exec (.sbfi d a b) s = .next t ∧ WritesS s t c g (fun r =>
      if r = d.toNat then some ⟨ins (g.sv d) (g.sv a) (g.sv b), g.st d || g.st a || g.st b⟩ else none)) ∧
    (∀ a b i, i < 32 →
      let pos := b.toNat % 256
      let w := min (min (b.toNat / 256 % 256) 32) (32 - pos)
      ((extN a b).getLsbD i = (decide (i < w) && a.getLsbD (pos + i))) ∧
      ((extS a b).getLsbD i = if w = 0 then false else if i < w then a.getLsbD (pos + i) else a.getLsbD (pos + w - 1)) ∧
      (∀ d, (ins d a b).getLsbD i = if pos ≤ i ∧ i < pos + w then a.getLsbD (i - pos) else d.getLsbD i))))

/-- Comparisons, selection, immediates, literals, special values and predicate logic. SSET from a poisoned source raises
POISON with no other effect.
States R123 and R124; rests on spec/02_encoding_and_assembly.md, spec/05_uniform_and_control.md. -/
def Obligations.UniformOthers : Prop :=
  (∀ s c g e a b k, Issuing s c g → g.st a = false → g.st b = false →
    ∃ t, exec (.sset e a b k) s = .next t ∧ WritesQ s t c g e.toNat (cmpUni k (g.sv a) (g.sv b))) ∧
  (∀ s c g e a b k, Issuing s c g → Guarded c g → (g.st a = true ∨ g.st b = true) → ∃ t, exec (.sset e a b k) s = .next t ∧ Poisoned s t c g) ∧
  (∀ a b : Word, (cmpUni 0 a b = true ↔ a = b) ∧ (cmpUni 1 a b = true ↔ a ≠ b) ∧ (cmpUni 2 a b = true ↔ a.toInt < b.toInt) ∧
    (cmpUni 3 a b = true ↔ a.toInt ≤ b.toInt) ∧ (cmpUni 4 a b = true ↔ a.toNat < b.toNat) ∧ (cmpUni 5 a b = true ↔ a.toNat ≤ b.toNat) ∧
    (cmpUni 6 a b = true ↔ a &&& b ≠ 0) ∧ (cmpUni 7 a b = true ↔ a &&& b = 0)) ∧
  (∀ s c g d a b n, Issuing s c g → ∃ t, exec (.ssel d a b n) s = .next t ∧ WritesS s t c g (fun r =>
    if r = d.toNat then some (if g.qpred n.toNat = true then g.readS a.toNat else g.readS b.toNat) else none)) ∧
  UniSelf .saddi (fun x (j : BitVec 15) => x + BitVec.ofInt 32 j.toInt) ∧
  (∀ s c g d (j : BitVec 15), Issuing s c g → ∃ t, exec (.smovi d j) s = .next t ∧
    WritesS s t c g (fun r => if r = d.toNat then some ⟨BitVec.ofInt 32 j.toInt, false⟩ else none)) ∧
  UniSelf .sandi (fun x (j : BitVec 15) => x &&& BitVec.ofNat 32 j.toNat) ∧ UniSelf .sori (fun x (j : BitVec 15) => x ||| BitVec.ofNat 32 j.toNat) ∧
  UniSelf .sxori (fun x (j : BitVec 15) => x ^^^ BitVec.ofNat 32 j.toNat) ∧
  (∀ s c g d x, Issuing s c g → ∃ t, exec (.slit d x) s = .next t ∧
    WritesS s t c g (fun r => if r = d.toNat then some ⟨x, false⟩ else none)) ∧
  UniSelf .slitAdd (fun x (j : Word) => x + j) ∧ UniSelf .slitAnd (fun x (j : Word) => x &&& j) ∧ UniSelf .slitOr (fun x (j : Word) => x ||| j) ∧
  UniSelf .slitXor (fun x (j : Word) => x ^^^ j) ∧
  (∀ s c g d j, Issuing s c g → ∃ t, exec (.sreg d j) s = .next t ∧
    WritesS s t c g (fun r => if r = d.toNat then some ⟨special s g j.toNat 0, false⟩ else none)) ∧
  (∀ s c g e f h k, Issuing s c g → ∃ t, exec (.qlop e f h k) s = .next t ∧
    WritesQ s t c g e.toNat (k.getLsbD (2 * (g.qpred f.toNat).toNat + (g.qpred h.toNat).toNat)))

/-- Branches under a true guard. Each issuing lane goes where the rule says and its return stack is pushed or popped; LOOP
counts its register down. The branches that raise ADDR or POISON, with no lane moved and nothing pushed or popped.
States R131; rests on spec/05_uniform_and_control.md, spec/08_groups_and_issue.md. -/
def Obligations.Branches : Prop :=
  (∀ s c g, Issuing s c g → Guarded c g →
     let off := fun (n : Int) => c.pc + BitVec.ofInt 64 (4 * n)
     let room := ∀ l, l < 32 → c.lanes.getLsbD l = true → (g.lane l).rstack.length < 16
     (∀ o : BitVec 21, ∃ t, exec (.bra o) s = .next t ∧ Moves s t c g (fun _ => off o.toInt) (fun k => k)) ∧
     (∀ o : BitVec 21, room → ∃ t, exec (.call o) s = .next t ∧ Moves s t c g (fun _ => off o.toInt) (fun k => (c.pc + 4) :: k)) ∧
     (∀ a, g.sPairT a = false → canonical (g.sPair a) = true → (g.sPair a).toNat % 4 = 0 →
       (∃ t, exec (.jmp a) s = .next t ∧ Moves s t c g (fun _ => g.sPair a) (fun k => k)) ∧
       (room → ∃ t, exec (.jmpCall a) s = .next t ∧ Moves s t c g (fun _ => g.sPair a) (fun k => (c.pc + 4) :: k))) ∧
     (∀ n (o : BitVec 15), ∃ t, exec (.jmpT n o) s = .next t ∧
       Moves s t c g (fun l => if g.pred n.toNat l = true then off o.toInt else c.pc + 4) (fun k => k)) ∧
     (∀ n (o : BitVec 15), ∃ t, exec (.jmpF n o) s = .next t ∧
       Moves s t c g (fun l => if g.pred n.toNat l = true then c.pc + 4 else off o.toInt) (fun k => k)) ∧
     ((∀ l, l < 32 → c.lanes.getLsbD l = true → (g.lane l).rstack ≠ []) →
       ∃ t, exec .ret s = .next t ∧ Moves s t c g (fun l => (g.lane l).rstack.headD 0) List.tail) ∧
     (∀ d (o : BitVec 15), g.st d = false → ∃ t, exec (.loop d o) s = .next t ∧ Quiet s t c.gid ∧ ∃ h, FMap.get? t.groups c.gid = some h ∧
       (∀ r, h.readS r = if r = d.toNat ∧ r ≠ 63 then ⟨if (g.sv d).toNat ≤ 1 then 0 else g.sv d - 1, false⟩ else g.readS r) ∧
       h.v = g.v ∧ h.deep = g.deep ∧ h.p = g.p ∧ h.q = g.q ∧
       At c g h (fun _ => if (g.sv d).toNat ≤ 1 then c.pc + 4 else off o.toInt))) ∧
  (∀ s c g, Issuing s c g → Guarded c g →
     ((∃ l, l < 32 ∧ c.lanes.getLsbD l = true ∧ (g.lane l).rstack.length ≥ 16) →
       (∀ o, ∃ t, exec (.call o) s = .next t ∧ Traps s t c g cAddr 0) ∧
       (∀ a, g.sPairT a = false → canonical (g.sPair a) = true → (g.sPair a).toNat % 4 = 0 →
         ∃ t, exec (.jmpCall a) s = .next t ∧ Traps s t c g cAddr 0)) ∧
     ((∃ l, l < 32 ∧ c.lanes.getLsbD l = true ∧ (g.lane l).rstack = []) → ∃ t, exec .ret s = .next t ∧ Traps s t c g cAddr 0) ∧
     (∀ a, g.sPairT a = false → (canonical (g.sPair a) = false ∨ (g.sPair a).toNat % 4 ≠ 0) →
       (∃ t, exec (.jmp a) s = .next t ∧ Traps s t c g cAddr (g.sPair a)) ∧ (∃ t, exec (.jmpCall a) s = .next t ∧ Traps s t c g cAddr (g.sPair a))) ∧
     (∀ a, g.sPairT a = true →
       (∃ t, exec (.jmp a) s = .next t ∧ Poisoned s t c g) ∧ (∃ t, exec (.jmpCall a) s = .next t ∧ Poisoned s t c g)) ∧
     (∀ d o, g.st d = true → ∃ t, exec (.loop d o) s = .next t ∧ Poisoned s t c g))

/-- Under a false guard every uniform instruction completes with no effect, and the issuing lanes go on. The instructions that wait for
outstanding results have no effect while a result of the group is outstanding; the group waits for it.
Rests on spec/01_registers_and_state.md, spec/05_uniform_and_control.md, spec/08_groups_and_issue.md. -/
def Obligations.UniformWithoutEffect : Prop :=
  (∀ s c g i, Issuing s c g → g.qpred c.hdr.g.toNat = false → (i.fields c.hdr).isSome = true → laneForm i = false →
    ∃ t, exec i s = .next t ∧ WritesNone s t c g (fun _ => after c)) ∧
  (∀ s c g, Issuing s c g → Guarded c g → settled g = false →
    (∀ a, ∃ t, exec (.conv a) s = .next t ∧ Waits s t c g .smark) ∧ (∃ t, exec .convAll s = .next t ∧ Waits s t c g .smark) ∧
    (∃ t, exec .exit s = .next t ∧ Waits s t c g .smark) ∧ (∃ t, exec .await s = .next t ∧ Waits s t c g .smark) ∧
    (∀ k b, ∃ t, exec (.barWait k b) s = .next t ∧ Waits s t c g .smark) ∧ (∀ k b, ∃ t, exec (.barWaitClu k b) s = .next t ∧ Waits s t c g .smark) ∧
    (∀ k a, ∃ t, exec (.barSync k a) s = .next t ∧ Waits s t c g .smark) ∧ (∀ k a, ∃ t, exec (.barSyncClu k a) s = .next t ∧ Waits s t c g .smark) ∧
    (∀ a b, ∃ t, exec (.waitge a b) s = .next t ∧ Waits s t c g .smark) ∧ (∀ a b, ∃ t, exec (.waitgeSys a b) s = .next t ∧ Waits s t c g .smark))

/-- Convergence with no result outstanding. An issuing lane whose mask bit is 0 passes. While a lane that the mask of a lane
that is no helper names is still to come, the lanes whose bit is 1 wait; when every lane named is issuing, a helper or not live, and none
waits there before, all are released together; and no next state has every live lane that is no helper waiting. A poisoned mask raises
POISON.
Rests on spec/05_uniform_and_control.md. -/
def Obligations.Convergence : Prop :=
  ∀ s c g, Issuing s c g → Guarded c g → g.pend = [] → g.lanes.length = 32 →
    let gathers := fun (i : Instr) (m : Word) => ∃ t h, exec i s = .next t ∧ Quiet s t c.gid ∧ FMap.get? t.groups c.gid = some h ∧ regs h = regs g ∧
      (∀ l, l < 32 → c.lanes.getLsbD l = true → m.getLsbD l = false → (h.lane l).pc = c.pc + 4) ∧
      ((∃ l k, real g l ∧ c.lanes.getLsbD l = true ∧ m.getLsbD l = true ∧ real g k ∧ m.getLsbD k = true ∧ c.lanes.getLsbD k = false ∧
          (g.lane k).st = .ready) →
        ∀ l, l < 32 → c.lanes.getLsbD l = true → m.getLsbD l = true → (h.lane l).st = .waiting ∧ (h.lane l).pc = c.pc) ∧
      ((∀ k, real g k → m.getLsbD k = true → c.lanes.getLsbD k = true) →
        (∀ k, k < 32 → c.lanes.getLsbD k = false → ¬ ((g.lane k).st = .waiting ∧ (g.lane k).pc = c.pc)) →
        ∀ l, l < 32 → c.lanes.getLsbD l = true → (h.lane l).pc = c.pc + 4 ∧ (m.getLsbD l = true → (h.lane l).st = .ready)) ∧
      ((∃ l, real h l) → ∃ l, real h l ∧ (h.lane l).st ≠ .waiting)
    (∀ a, g.st a = false → gathers (.conv a) (g.sv a)) ∧ gathers .convAll 0xFFFFFFFF#32 ∧
    (∀ a, g.st a = true → ∃ t, exec (.conv a) s = .next t ∧ Poisoned s t c g)

/-- The ends of lanes and groups. EXIT with nothing outstanding ends its lanes, or stops them while a frame or an operation is open; with the last
live lane that is no helper the group goes, when neither is. END_EVENT ends a stopped lane, its group's accesses being performed, GROUP_END a group that is
over.
Rests on spec/05_uniform_and_control.md. -/
def Obligations.LanesAndGroupsEnd : Prop :=
  (∀ s c g, Issuing s c g → Guarded c g → Settled s c g → g.handling = none →
    (((∃ k, real g k ∧ c.lanes.getLsbD k = false) ∨ g.frames ≠ [] ∨ opsOpen s g = true) → ∃ t h, exec .exit s = .next t ∧ t.mem = s.mem ∧ FMap.get? t.groups c.gid = some h ∧ regs h = regs g ∧
      ∀ l, l < 32 → l < g.lanes.length → c.lanes.getLsbD l = true →
        (h.lane l).st = if g.frames.isEmpty = true ∧ opsOpen s g = false ∨ (g.lane l).st = .ended then .ended else .stopped) ∧
    ((∀ k, real g k → c.lanes.getLsbD k = true) → g.frames = [] → opsOpen s g = false → g.holds.switch = false → g.loc = .resident →
      ∃ t, exec .exit s = .next t ∧ t.mem = s.mem ∧ FMap.get? t.groups c.gid = none)) ∧
  (∀ s gid l g, s.model.ev = some (.endEvent gid l) → FMap.get? s.groups gid = some g → l < 32 → (g.lane l).st = .stopped → g.frames = [] →
    opsOpen s g = false → inFlight s gid = false → g.loc = .resident → g.holds.switch = false → ∃ t, exec .endEvent s = .next t ∧ t.mem = s.mem ∧
      ∀ h, FMap.get? t.groups gid = some h → (h.lane l).st = .ended ∧ regs h = regs g) ∧
  (∀ s gid g, s.model.ev = some (.groupEnd gid) → FMap.get? s.groups gid = some g → g.over = true → g.frames = [] → opsOpen s g = false →
    inFlight s gid = false → mayEnd g = true → ∃ t, exec .groupEnd s = .next t ∧ t.mem = s.mem ∧ FMap.get? t.groups gid = none)

/-- FRAME.OPEN takes a record of the root launch for a new frame, waits while there is none or while accesses of lanes whose end is due are in
flight, and raises ADDR at depth 64. AWAIT passes with no frame open, closes the innermost frame whose count is 0, the merge's writes made and nothing
changed beside the group's own, and otherwise parks the group, its counters at the AWAIT until the frame closes (the model's reading, log entry 57).
Rests on spec/05_uniform_and_control.md, spec/10_visibility_graph.md. -/
def Obligations.FramesOpenAndClose : Prop :=
  ∀ s c g, Issuing s c g → Guarded c g →
    (∀ n r rs, FMap.get? s.launches g.launch = some n → n.free = r :: rs → frameDepth s g < 64 → (endsOwed s g = false ∨ inFlight s c.gid = false) →
      ∃ t fid f m h, exec .frameOpen s = .next t ∧ ((liveFrames s g.die).length < 4096 → t.mem = s.mem) ∧ FMap.get? t.frames fid = some f ∧
        f.addr = r ∧ f.gid = c.gid ∧ f.parent = innerFrame s g ∧ f.count = 0 ∧ f.next = 0 ∧ f.depth = frameDepth s g + 1 ∧
        FMap.get? t.launches g.launch = some m ∧ m.free = n.free.filter (· != r) ∧
        FMap.get? t.groups c.gid = some h ∧ h.frames = fid :: g.frames ∧ regs h = regs g ∧ At c g h (fun _ => after c)) ∧
    (∀ n, FMap.get? s.launches g.launch = some n → n.free = [] → frameDepth s g < 64 → (endsOwed s g = false ∨ inFlight s c.gid = false) →
      ∃ t, exec .frameOpen s = .next t ∧ Waits s t c g .pool) ∧
    (frameDepth s g < 64 → endsOwed s g = true → inFlight s c.gid = true → ∃ t, exec .frameOpen s = .next t ∧ Waits s t c g .drain) ∧
    (64 ≤ frameDepth s g → ∃ t, exec .frameOpen s = .next t ∧ Traps s t c g cAddr 0) ∧
    (Settled s c g → g.frames = [] → ∃ t, exec .await s = .next t ∧ WritesNone s t c g (fun _ => after c)) ∧
    (∀ f fs k u, Settled s c g → g.frames = f :: fs → FMap.get? s.frames f = some k → k.count = 0 → closeFrame s c.gid g f = .done u →
      ∃ t, exec .await s = .next t ∧ Quiet u t c.gid ∧ FMap.get? t.frames f = none ∧ (∀ e ∈ t.children, e.2.frame ≠ f) ∧ Passes t c g) ∧
    (∀ f fs k, Settled s c g → g.frames = f :: fs → FMap.get? s.frames f = some k → k.count ≠ 0 →
      ∃ t h, exec .await s = .next t ∧ FMap.get? t.groups c.gid = some h ∧ (h.wait = .await ∨ h.wait = .awaitPlace) ∧ regs h = regs g ∧
        h.lanes = g.lanes ∧ (FMap.get? t.frames f).map (fun k => (k.cont, k.awaiting)) = some (c.pc + 4, true))

/-- A SPAWN from an open frame whose entry's kernel fits numbers its children from the frame's next index, in lane order, held by
one record: the root launch's first free one, or for strands also that of strands of the same entry and root launch that are still held (the model's
reading, log entry 58), and never such a one where there are none. With no frame it raises ADDR; from a poisoned entry, POISON.
Rests on spec/05_uniform_and_control.md. -/
def Obligations.Spawns : Prop :=
  ∀ s c g, Issuing s c g → Guarded c g → inFlight s c.gid = false →
    (∀ a, g.sPairT a = false → ∀ f fs u k x n r rs, g.frames = f :: fs → entryKernel s g.die g.ctx (g.sPair a) (holdOf s g c.lanes) = (.ok (some k), u) →
      FMap.get? u.frames f = some x → FMap.get? u.launches g.launch = some n → n.free = r :: rs → FMap.get? u.groups c.gid = some g →
      let numbers := fun (i : Instr) (kind : ChildKind) (args : List (Reg × Reg)) => args ≠ [] → x.next + args.length ≤ 0xFFFFFFFF →
        ∃ t y m q, exec i s = .next t ∧ Passes t c g ∧ FMap.get? t.frames f = some y ∧ y.count = x.count + args.length ∧ y.next = x.next + args.length ∧
          FMap.get? t.launches g.launch = some m ∧ m.free = n.free.filter (· != q) ∧
          (q = r ∨ (kind = .strand ∧ ∃ e ∈ u.children, e.2.kind = .strand ∧ e.2.st = .held ∧ e.2.entry = g.sPair a ∧ e.2.launch = g.launch ∧ e.2.record = q)) ∧
          ∀ j p, args[j]? = some p → ∃ id z, FMap.get? t.children id = some z ∧ z.kind = kind ∧ z.frame = f ∧ z.index = x.next + j ∧
            z.entry = g.sPair a ∧ z.kernel = k ∧ z.arg0 = p.1 ∧ z.arg1 = p.2 ∧ z.st = .held ∧ z.record = q
      let one := fun (b : BitVec 6) => if ∃ l, l < 32 ∧ c.lanes.getLsbD l = true ∧ (g.lane l).helper = false
        then [(g.readS b.toNat, g.readS (b.toNat + 1))] else []
      (freeKernel k = true → (∀ b p, numbers (.spawnL a b p) .strand
        (((List.range 32).filter (fun l => c.lanes.getLsbD l && !(g.lane l).helper && g.pred p.toNat l)).map
          (fun l => (g.readV (2 * b.toNat) l, g.readV (2 * b.toNat + 1) l)))) ∧ ∀ b, numbers (.spawnG a b) .group (one b)) ∧
      (fitsEmpty k (effCarve s g.die g.ctx) = true → ∀ b, numbers (.spawnB a b) .block (one b))) ∧
    (∀ a, g.sPairT a = false → g.frames = [] →
      (∀ b p, ∃ t, exec (.spawnL a b p) s = .next t ∧ Traps s t c g cAddr (g.sPair a)) ∧
      (∀ b, ∃ t, exec (.spawnG a b) s = .next t ∧ Traps s t c g cAddr (g.sPair a)) ∧
      (∀ b, ∃ t, exec (.spawnB a b) s = .next t ∧ Traps s t c g cAddr (g.sPair a))) ∧
    (∀ a, g.sPairT a = true → (∀ b p, ∃ t, exec (.spawnL a b p) s = .next t ∧ Poisoned s t c g) ∧
      (∀ b, ∃ t, exec (.spawnG a b) s = .next t ∧ Poisoned s t c g) ∧ (∀ b, ∃ t, exec (.spawnB a b) s = .next t ∧ Poisoned s t c g))

/-- An arrival gives the old phase as its token and completes the phase at the expected count, waking the waiters; BAR.WAIT and
BAR.SYNC pass on a stale token and else park among the waiters; a count with bits above 10 raises ADDR.
Rests on spec/05_uniform_and_control.md. -/
def Obligations.Barriers : Prop :=
  ∀ s c g, Issuing s c g → Guarded c g → Settled s c g →
    let arrives := fun (i : Instr) (clu : Bool) (id : Nat) (a : BitVec 6) (d : Option (BitVec 6)) =>
      ∀ x, HasBar s g clu → barOf s g clu id = some x → g.st a = false → (g.sv a).toNat < 2048 → c.gid ∉ x.waiters →
        let y := arrived x (barCount s g clu (g.sv a))
        ∃ t h, exec i s = .next t ∧ t.mem = s.mem ∧ FMap.get? t.groups c.gid = some h ∧ At c g h (fun _ => after c) ∧ h.v = g.v ∧ h.p = g.p ∧ h.q = g.q ∧
          (∀ w k, w ∈ x.waiters → FMap.get? s.groups w = some k → y.waiters = [] → (FMap.get? t.groups w).map (·.wait) = some .run) ∧
          match d with
          | some b => barOf t h clu id = some y ∧ ∀ r, h.readS r = if r = b.toNat ∧ r ≠ 63 then preg x.phase else g.readS r
          | none => h.s = g.s ∧ if y.phase = x.phase then barOf t h clu id = some { y with waiters := y.waiters ++ [c.gid] } ∧ h.wait = .barrier clu id x.phase
              else barOf t h clu id = some y
    let waits := fun (i : Instr) (clu : Bool) (id : Nat) (b : BitVec 6) => ∀ x, HasBar s g clu → barOf s g clu id = some x →
      let token := (g.sv b).getLsbD 0
      (token ≠ x.phase → ∃ t, exec i s = .next t ∧ t.mem = s.mem ∧ Passes t c g) ∧
      (token = x.phase → ∃ t, exec i s = .next t ∧ t.mem = s.mem ∧ Parks t c g (.barrier clu id token) ∧
        barOf t g clu id = some { x with waiters := x.waiters ++ [c.gid] })
    (∀ (n : BitVec 4) a b, arrives (.barArrive n a b) false n.toNat a (some b)) ∧ (∀ (n : BitVec 3) a b, arrives (.barArriveClu n a b) true n.toNat a (some b)) ∧
    (∀ (n : BitVec 4) a, arrives (.barSync n a) false n.toNat a none) ∧ (∀ (n : BitVec 3) a, arrives (.barSyncClu n a) true n.toNat a none) ∧
    (∀ (n : BitVec 4) b, waits (.barWait n b) false n.toNat b) ∧ (∀ (n : BitVec 3) b, waits (.barWaitClu n b) true n.toNat b) ∧
    (∀ a, g.st a = false → 2048 ≤ (g.sv a).toNat →
      (∀ n b, ∃ t, exec (.barArrive n a b) s = .next t ∧ Traps s t c g cAddr 0) ∧ (∀ n, ∃ t, exec (.barSync n a) s = .next t ∧ Traps s t c g cAddr 0) ∧
      (∀ n b, ∃ t, exec (.barArriveClu n a b) s = .next t ∧ Traps s t c g cAddr 0) ∧ (∀ n, ∃ t, exec (.barSyncClu n a) s = .next t ∧ Traps s t c g cAddr 0)) ∧
    (g.free = true →
      (∀ n b, ∃ t, exec (.barWaitClu n b) s = .next t ∧ Traps s t c g cAddr 0) ∧
      (∀ n a b, g.st a = false → ∃ t, exec (.barArriveClu n a b) s = .next t ∧ Traps s t c g cAddr 0) ∧
      (∀ n a, g.st a = false → ∃ t, exec (.barSyncClu n a) s = .next t ∧ Traps s t c g cAddr 0))

/-- WAITGE at an aligned address that translates and may be tested, its line not poisoned, passes when the 64-bit word that it reads is at
least the operand, and otherwise parks with that address and operand; a misaligned or non-canonical address raises ADDR.
Rests on spec/05_uniform_and_control.md. -/
def Obligations.CounterWaits : Prop :=
  ∀ s c g a b, Issuing s c g → Guarded c g → Settled s c g → g.sPairT a = false → g.sPairT b = false → ∀ sys : Bool,
    let i : Instr := if sys then .waitgeSys a b else .waitge a b
    let va := g.sPair a
    (addrBad va 8 = true → ∃ t, exec i s = .next t ∧ Traps s t c g cAddr va) ∧
    (∀ x u v, addrBad va 8 = false → xlNeeds s g.die g.core g.ctx g.ring va [.read] { gid := some c.gid, child := holdOf s g c.lanes } = (.ok x, u) →
      mpCheck u g.die x.pa sys = none → placeErr u g.die x.pa = none →
      homeRead (claimLine u g.die g.ctx (va.toNat / 128)) g.die x.pa 8 = (false, v) → viewMark v g.die (holdOf s g c.lanes) x.pa = false →
      let w := (viewLoc v g.die (holdOf s g c.lanes) x.pa true).1
      (w.toNat ≥ (g.sPair b).toNat → ∃ t, exec i s = .next t ∧ Passes t c g) ∧
      (w.toNat < (g.sPair b).toNat → ∃ t h, exec i s = .next t ∧ FMap.get? t.groups c.gid = some h ∧ regs h = regs g ∧ h.lanes = g.lanes ∧
        h.wait = .waitge sys x.pa (g.sPair b)))

/-! ## System instructions (spec/05) -/

/-- CSRR owes its pair the CSR's value; CSRW changes the CSR named and no other, each storing what its rule lets it; a ring too
low for the address raises PROTECT.
Rests on spec/00_scope.md, spec/01_registers_and_state.md, spec/05_uniform_and_control.md. -/
def Obligations.ControlRegisters : Prop :=
  ∀ s c g, Issuing s c g → Guarded c g → ∀ a : BitVec 12,
    (csrDenied g a = false →
      (∀ d : BitVec 6, ∃ t, exec (.csrr d a) s = .next t ∧
        OwesU s t c g [(.s d.toNat, ⟨loHalf (csrRead s g a.toNat), false⟩), (.s (d.toNat + 1), ⟨hiHalf (csrRead s g a.toNat), false⟩)]) ∧
      (∀ d : BitVec 6, g.sPairT d = false → assignedCsr a = true → (s.ctx? g.die g.ctx).isSome = true →
        (s.ctx g.die g.ctx).trapvec.length = 3 → (s.ctx g.die g.ctx).traptmo.length = 3 →
        let v := g.sPair d
        ∃ t, exec (.csrw d a) s = .next t ∧ t.mem = s.mem ∧ Passes t c g ∧
          (∀ b : BitVec 12, assignedCsr b = true → b ≠ a → csrRead t g b.toNat = csrRead s g b.toNat) ∧
          (a = 0x000#12 → csrRead t g 0x000 = csrRead s g 0x000) ∧
          (a = 0x400#12 → (csrRead t g 0x400).toNat = min (v.toNat % 8) ((csrRead s g 0x802).toNat % 8)) ∧
          (a = 0x401#12 → (csrRead t g 0x401).toNat % 2 ^ 57 = v.toNat % 2 ^ 57 / 128 * 128 + v.toNat % 2 ∧
            (csrRead t g 0x401).toNat / 2 ^ 57 = max 10 (min 24 (v.toNat / 2 ^ 57 % 32))) ∧
          (a = 0x402#12 → (csrRead t g 0x402).toNat % 2 ^ 57 = v.toNat % 2 ^ 57 / 128 * 128 ∧
            (csrRead t g 0x402).toNat / 2 ^ 57 = min 24 (v.toNat / 2 ^ 57 % 32)) ∧
          (a = 0x403#12 → csrRead t g 0x403 =
            ((v.setWidth 57).signExtend 64 &&& ~~~0xFF#64) ||| BitVec.ofNat 64 (min (v.toNat % 256) (v.toNat / 256 % 4096))) ∧
          (a = 0x404#12 → csrRead t g 0x404 = (v.setWidth 57).signExtend 64 &&& ~~~0x7FFFFE#64) ∧
          (a ∈ [0x410#12, 0x411#12, 0x412#12, 0x813#12, 0xC14#12] → csrRead t g a.toNat = (v.setWidth 57).signExtend 64 &&& ~~~2#64) ∧
          (a ∈ [0x418#12, 0x419#12, 0x41A#12, 0x81B#12, 0xC1C#12] → (csrRead t g a.toNat).toNat = v.toNat % 2 ^ 32) ∧
          (a = 0x800#12 → csrRead t g 0x800 = v &&& 0x3F01#64) ∧ (a = 0x801#12 → (csrRead t g 0x801).toNat = v.toNat % 16) ∧
          (a = 0x802#12 → (csrRead t g 0x802).toNat = v.toNat % 8) ∧ (a = 0x803#12 → csrRead t g 0x803 = v &&& ~~~0xFFE#64)) ∧
      (∀ d : BitVec 6, g.sPairT d = true → ∃ t, exec (.csrw d a) s = .next t ∧ Poisoned s t c g)) ∧
    (csrDenied g a = true → ∀ d : BitVec 6, (∃ t, exec (.csrr d a) s = .next t ∧ Traps s t c g cProtect 0) ∧
      (g.sPairT d = false → ∃ t, exec (.csrw d a) s = .next t ∧ Traps s t c g cProtect 0)) ∧
    (csrDenied g a = true ↔ g.ring.toNat < a.toNat / 1024)

/-- NOP changes nothing; BRK does nothing while the context's debug enable is clear, else the group stops past it (the model's reading, log entry 57); YIELD
gives up the active set's place when a ready pending group can take it; TRAP stops the group with a SOFT record that resumes past it, in a handler group
too, where it is no nested fault (the model's reading, log entry 15).
Rests on spec/02_encoding_and_assembly.md, spec/05_uniform_and_control.md, spec/19_traps_and_containment.md. -/
def Obligations.SmallSystem : Prop :=
  ∀ s c g, Issuing s c g → Guarded c g →
    (∃ t, exec .nop s = .next t ∧ WritesNone s t c g (fun _ => after c)) ∧
    ((dbgWin s g.die g.ctx).en = false → ∃ t, exec .brk s = .next t ∧ WritesNone s t c g (fun _ => after c)) ∧
    ((dbgWin s g.die g.ctx).en = true → ∃ t h, exec .brk s = .next t ∧ Quiet s t c.gid ∧ FMap.get? t.groups c.gid = some h ∧ regs h = regs g ∧
      At c g h (fun _ => after c) ∧ h.dbg = .stopped) ∧
    (∃ t, exec .yield s = .next t ∧ WritesNone s t c g (fun _ => after c) ∧
      (g.active = true → g.pend = [] → (∀ p, (c.gid, p) ∈ s.groups → p = g) → (∃ k p, k ≠ c.gid ∧ (k, p) ∈ quarterGroups s g.die g.core g.quarter ∧ FMap.get? s.groups k = some p ∧
        p.active = false ∧ p.couldIssue = true) → ∀ h, FMap.get? t.groups c.gid = some h → h.active = false)) ∧
    (∀ a r, (g.ring = 0 ∧ 3 ≤ r.toNat) → ∃ t, exec (.trap a r) s = .next t ∧ Traps s t c g cProtect 0) ∧
    (∀ a r, ¬ (g.ring = 0 ∧ 3 ≤ r.toNat) → ∃ t h id x, exec (.trap a r) s = .next t ∧ Quiet s t c.gid ∧ FMap.get? t.groups c.gid = some h ∧
      regs h = regs g ∧ At c g h (fun _ => after c) ∧ h.holds.trap = some id ∧ FMap.get? t.traps id = some x ∧ x.fault.cause = cSoft ∧ x.fault.kind = 4 ∧
      x.fault.pc = c.pc ∧ x.fault.resume = c.pc + 4 ∧ x.fault.code = g.sv a ∧ x.party = .group c.gid c.lanes ∧
      (g.handling = none → stopValid (s.ctx g.die g.ctx) = true → x.rung = r.toNat)) ∧
    (g.handling = none → ∃ t, exec .eret s = .next t ∧ Traps s t c g cProtect 0)

/-- ASGEN and TLBI with a legal operand pass and park until they are in force; an
operand with bits above 11 raises ADDR, too low a ring or another's ASID PROTECT, a poisoned operand POISON. ASGEN in
force raises the one generation by 1 modulo 2^16, which becomes its outstanding result; at 0xFFFF it waits while an access of the address space
is in flight. A completed TLBI has dropped every entry it names, and no other,
from both levels of TLB on every die of the virtual function; the group goes on.
Rests on spec/05_uniform_and_control.md, spec/15_launches_contexts_translation.md. -/
def Obligations.AddressSpaceForms : Prop :=
  (∀ s c g, Issuing s c g → Guarded c g →
     let legal := fun (x : Word) => x.toNat < 4096 ∧ 1 ≤ g.ring.toNat ∧ asidOwned s g.die x.toNat = true ∧ inFlight s c.gid = false
     let denied := fun (x : Word) => x.toNat < 4096 ∧ (g.ring.toNat = 0 ∨ asidOwned s g.die x.toNat = false)
     (∀ a b, g.st a = false →
       (legal (g.sv a) → ∃ t h p, exec (.asgen a b) s = .next t ∧ FMap.get? t.groups c.gid = some h ∧ regs h = regs g ∧ At c g h (fun _ => after c) ∧
         p ∈ h.pend ∧ p.dsts = [some (.s b.toNat)] ∧ p.st = .waiting ∧ h.wait = .asgen (g.sv a).toNat p.id c.hdr.m) ∧
       (legal (g.sv a) → ∃ t, exec (.tlbiAsid a) s = .next t ∧ Parks t c g (.tlbi 1 (g.sv a).toNat 0 c.hdr.m)) ∧
       (4096 ≤ (g.sv a).toNat → (∃ t, exec (.asgen a b) s = .next t ∧ Traps s t c g cAddr 0) ∧ ∃ t, exec (.tlbiAsid a) s = .next t ∧ Traps s t c g cAddr 0) ∧
       (denied (g.sv a) → (∃ t, exec (.asgen a b) s = .next t ∧ Traps s t c g cProtect 0) ∧
         ∃ t, exec (.tlbiAsid a) s = .next t ∧ Traps s t c g cProtect 0)) ∧
     (∀ a b, g.st a = true → (∃ t, exec (.asgen a b) s = .next t ∧ Poisoned s t c g) ∧ ∃ t, exec (.tlbiAsid a) s = .next t ∧ Poisoned s t c g) ∧
     (∀ a b, g.sPairT a = false → g.st b = false →
       (legal (g.sv b) → ∃ t, exec (.tlbiPage a b) s = .next t ∧ Parks t c g (.tlbi 2 (g.sv b).toNat (g.sPair a) c.hdr.m)) ∧
       (4096 ≤ (g.sv b).toNat → ∃ t, exec (.tlbiPage a b) s = .next t ∧ Traps s t c g cAddr 0) ∧
       (denied (g.sv b) → ∃ t, exec (.tlbiPage a b) s = .next t ∧ Traps s t c g cProtect 0)) ∧
     (∀ a b, (g.sPairT a = true ∨ g.st b = true) → ∃ t, exec (.tlbiPage a b) s = .next t ∧ Poisoned s t c g) ∧
     (2 ≤ g.ring.toNat → inFlight s c.gid = false → ∃ t, exec .tlbiAll s = .next t ∧ Parks t c g (.tlbi 3 0 0 c.hdr.m)) ∧
     (g.ring.toNat < 2 → ∃ t, exec .tlbiAll s = .next t ∧ Traps s t c g cProtect 0)) ∧
  ((∀ s gid g asid id sm, s.model.ev = some (.asgenInForce gid) → FMap.get? s.groups gid = some g → g.wait = .asgen asid id sm →
     let travels := s.flight.any (fun a => a.asid == asid)
     (s.gen asid = 0xFFFF#16 → travels = true → exec .asgenInForce s = .next s.pass) ∧
     ((s.gen asid ≠ 0xFFFF#16 ∨ travels = false) → ∃ t h, exec .asgenInForce s = .next t ∧ t.gen asid = s.gen asid + 1 ∧
       (∀ k, k ≠ asid → t.gen k = s.gen k) ∧ FMap.get? t.groups gid = some h ∧ regs h = regs g ∧ (sm = false → h.wait = .run) ∧
       ∀ p ∈ g.pend, p.id = id → ∃ q ∈ h.pend, q.dsts = p.dsts ∧ q.st = .ready [⟨(s.gen asid + 1).setWidth 32, false⟩])) ∧
   (∀ s gid g fn asid va sm, s.model.ev = some (.tlbiComplete gid) → FMap.get? s.groups gid = some g → g.wait = .tlbi fn asid va sm →
     let named := fun (e : TlbEntry) => fn = 3 ∨ (e.asid = asid ∧ (fn = 1 ∨ va.toNat / 2 ^ e.bits = e.vpage))
     ∃ t h, exec .tlbiComplete s = .next t ∧ t.mem = s.mem ∧ FMap.get? t.groups gid = some h ∧ regs h = regs g ∧ (sm = false → h.wait = .run) ∧
       (∀ d ∈ vfDies s g.die, ∀ e, (e ∈ (t.die d).dm.tlb ↔ e ∈ (s.die d).dm.tlb ∧ ¬ named e) ∧
         ∀ k, k < 192 → (e ∈ (t.core d k).tlb ↔ e ∈ (s.core d k).tlb ∧ ¬ named e))))

/-! ## Traps (spec/08, spec/19) -/

/-- An unassigned word raises UNDEF at the group rung; the lanes of a fetch that faults park at the address with one record, and
helper lanes go idle. Of a handler group that has issued nothing such a fetch raises HANDLER_FETCH in its stead, and the group is gone (that ADDR is the
address fetched is the model's choice, log entry 57).
Rests on spec/02_encoding_and_assembly.md, spec/08_groups_and_issue.md, spec/19_traps_and_containment.md. -/
def Obligations.WordsThatCannotIssue : Prop :=
  (∀ s c g, Issuing s c g → ∃ t, exec .unassignedWord s = .next t ∧ Traps s t c g cUndef 0) ∧
  (∀ s c g x va, s.model.ev = some (.fetchFault x va) → Issuing s c g → g.lanes.length = 32 →
    ((∀ k r, g.kind ≠ .handler k r none) → ∃ t h, exec .fetchFault s = .next t ∧ Quiet s t c.gid ∧ FMap.get? t.groups c.gid = some h ∧ regs h = regs g ∧
      ∀ l, l < 32 → c.lanes.getLsbD l = true → (h.lane l).pc = (g.lane l).pc ∧
        (real g l → (g.lane l).st ≠ .parked → (h.lane l).st = .parked ∧ (h.lane l).fault.cause = (match x with | .page => 0x03#8 | .genStale => 0x04#8 | .berthRevoked => 0x05#8) ∧
          (h.lane l).fault.addr = va) ∧
        ((g.lane l).helper = true → (h.lane l).st = .idle)) ∧
    (∀ k r y, g.kind = .handler k r none → FMap.get? s.traps k = some y → k < s.model.nextId →
      ∃ t id y' z, exec .fetchFault s = .next t ∧ t.mem = s.mem ∧ FMap.get? t.groups c.gid = none ∧ (∀ n, n ≠ c.gid → (FMap.get? t.groups n).isSome = (FMap.get? s.groups n).isSome) ∧
        id ≠ k ∧ FMap.get? t.traps k = some y' ∧ y'.st = .blocked ∧ y'.fault = y.fault ∧
        FMap.get? t.traps id = some z ∧ z.party = .fetch k ∧ z.fault.cause = cHandler ∧ z.fault.kind = 5 ∧ z.fault.addr = va ∧
        z.rung = usableRung s y.die y.ctx (y.rung + 1)))

/-- A trap that may be delivered takes the lowest free slot of its die in the area of its live rung: its 128 bytes are written there, a
.ten producer half follows, and a handler is placed if one can be; the bytes are those of the slot's layout, with the fault record in the second half. A
slotted trap whose handler's entry will do has its handler group placed: in the place found, in its rung's ring, its lanes ready at the entry, the slot's
address and the rung in its registers. A handler group past its limit is stopped, and a TIMEOUT trap that names it is raised at the
rung above.
Rests on spec/19_traps_and_containment.md. -/
def Obligations.TrapsAreDelivered : Prop :=
  ((∀ s k x r i u v, s.model.ev = some (.trapDelivery k) → k < s.model.nextId → FMap.get? s.traps k = some x → mayDeliver s x = true → x.st = .waiting →
     liveRung s x.die x.ctx 5 x.rung = r → r < 4 → x.slot = none →
     let area := areaOf s x.die x.ctx r
     let z : Trap := { x with rung := r, area := area, slot := some i, st := .slotted }
     freeSlot s x.die area = (.ok (some i), u) → unitWrite u x.die area (slotAddr u x.die area i) (z.bytes 1) = (.ok (), v) →
     let w := producerNow (v.putTrap k z) x.die area false
     ∃ t y, exec .trapDelivery s = .next t ∧ t = (placeHandler w k z).getD w ∧ FMap.get? t.traps k = some y ∧ y.rung = r ∧ y.slot = some i ∧
       y.fault = x.fault ∧ y.party = x.party ∧ y.st ≠ .waiting) ∧
   (∀ (z : Trap) (n : Nat), n < 4 → z.rung < 5 → z.ctx < 64 → z.die < 256 → z.core < 2 ^ 16 → z.gslot < 256 →
     let b := z.bytes n
     let f := z.fault
     b.length = 128 ∧ field b 0 1 = n ∧ field b 1 1 = z.rung ∧ field b 2 1 = 0 ∧
     field b 3 1 = (if z.allstop then 1 else 0) + (if z.nested then 2 else 0) + (if z.norec then 4 else 0) ∧ field b 4 1 = z.ctx ∧ field b 5 1 = z.die ∧
     field b 6 2 = z.core ∧ field b 8 1 = z.gslot ∧ field b 9 3 = 0 ∧ field b 12 4 = z.lanes.toNat ∧ field b 16 8 = z.link.toNat ∧ field b 24 40 = 0 ∧
     field b 64 1 = f.cause.toNat ∧ field b 65 1 = f.kind.toNat ∧ field b 66 1 = f.flags.toNat ∧ field b 67 1 = f.kvst.toNat ∧
     field b 68 1 = f.width.toNat ∧ field b 69 1 = f.dreg.toNat ∧ field b 70 1 = f.dspace.toNat ∧ field b 71 1 = 0 ∧ field b 72 8 = f.pc.toNat ∧
     field b 80 8 = f.resume.toNat ∧ field b 88 8 = f.addr.toNat ∧ field b 96 4 = f.word.toNat ∧ field b 100 4 = f.code.toNat ∧
     field b 104 16 = f.data.toNat ∧ field b 120 2 = f.asid.toNat ∧ field b 122 2 = f.gen.toNat ∧ field b 124 4 = 0) ∧
   (∀ s k x n u core q p v, s.model.ev = some (.trapDelivery k) → FMap.get? s.traps k = some x → mayDeliver s x = true → x.st = .slotted → x.rung ≤ 4 →
     (∀ e ∈ s.traps, e.1 ≠ k → e.2.die = x.die → e.2.rung = x.rung → e.2.st = .slotted → x.slot.getD 4096 ≤ e.2.slot.getD 4096) →
     handlersAt s x.die x.rung < 8 → x.core ≠ 0xFFFF → handlerPlace s x.die x.core (x.gslot / 16) = some (core, q) → q < (s.core x.die core).handlers.length →
     let entry := trapVec s x.die x.area x.rung &&& ~~~3#64
     entryKernel s x.die x.area entry = (.ok (some n), u) → handlerKernel n = true →
     translate u.fresh.2.fresh.2 x.die core x.area (BitVec.ofNat 2 (rungRing x.rung)) .fetch entry = (.ok p, v) → placeErr v x.die p.pa = none →
     ∃ t y gid h, exec .trapDelivery s = .next t ∧ FMap.get? t.traps k = some y ∧ y.st = .running gid ∧ FMap.get? t.groups gid = some h ∧
       h.die = x.die ∧ h.core = core ∧ h.quarter = q ∧ h.ctx = x.area ∧ h.ring.toNat = rungRing x.rung ∧ h.handling = some (k, x.rung) ∧ h.nregs = n.regs ∧
       (∀ l, l < 32 → (h.lane l).st = .ready ∧ (h.lane l).pc = entry) ∧
       (∀ j, x.slot = some j → pairVal (h.readS 0).val (h.readS 1).val = slotAddr s x.die x.area j) ∧ (h.readS 2).val = BitVec.ofNat 32 x.rung ∧
       (t.core x.die core).handlers.getD q none = some gid)) ∧
  (∀ s gid g k r t0, s.model.ev = some (.handlerTimeout gid) → FMap.get? s.groups gid = some g → g.kind = .handler k r (some t0) → g.holds.trap = none →
     let x := FMap.getD s.traps k {}
     let limit := (trapTmo s g.die x.ctx r).toNat % 2 ^ 32
     limit ≠ 0 → t0 + limit < (s.die g.die).cycle →
       ∃ t h id y, exec .handlerTimeout s = .next t ∧ t.mem = s.mem ∧ FMap.get? t.groups gid = some h ∧ h.holds.trap = some id ∧ regs h = regs g ∧
         h.lanes = g.lanes ∧ FMap.get? t.traps id = some y ∧ y.fault.cause = cTimeout ∧ y.fault.kind = 5 ∧ y.party = .handler gid k ∧
         y.rung = usableRung s x.die x.ctx (r + 1))

/-- The return from a trap, by ERET or a handler group's EXIT: the handler group is gone, or keeps its place with its lanes stopped while an engine
operation that it issued is open; under ACTION RESUME a group's trap is done and the live
lanes that the slot names stand at its RESUME, the group no longer held; under ESCALATE the trap waits at the next rung.
Rests on spec/19_traps_and_containment.md. -/
def Obligations.TrapsReturn : Prop :=
  ∀ s c g k r t0 x i b p v, Issuing s c g → Guarded c g → Settled s c g → g.kind = .handler k r t0 → FMap.get? s.traps k = some x → x.slot = some i →
    let u := endIssue (producerNow s g.die g.ctx false) c.gid
    FMap.get? u.traps k = some x → unitRead u x.die x.area (slotAddr u x.die x.area i) 128 = (.ok (b, p), v) →
    (∃ w, writeSlotState v x i 3 = (.ok (), w)) → k < s.model.nextId → ∀ j : Instr, (j = .eret ∨ j = .exit) →
      let left := fun (t : State) => if opsOpen s g = false then FMap.get? t.groups c.gid = none
        else ∃ h, FMap.get? t.groups c.gid = some h ∧ h.handling = some (0, r) ∧ ∀ l, l < 32 → l < g.lanes.length → (h.lane l).st = .stopped ∨ (h.lane l).st = .ended
      (field b 2 1 = 0 → ∀ n m h, x.party = .group n m → n ≠ c.gid → FMap.get? v.groups n = some h → h.holds.trap = some k → h.lanes.length = 32 →
        (∀ l, (h.lane l).redo = []) → (∀ y pa w, h.wait ≠ .waitge y pa w) →
        ∃ t h', exec j s = .next t ∧ left t ∧ FMap.get? t.traps k = none ∧ FMap.get? t.groups n = some h' ∧
          h'.holds.trap = none ∧ regs h' = regs h ∧
          ∀ l, l < 32 → (h'.lane l).pc = if x.lanes.getLsbD l = true ∧ (h.lane l).live = true then BitVec.ofNat 64 (field b 80 8) else (h.lane l).pc) ∧
      (field b 2 1 = 3 → (∀ n, x.party ≠ .fetch n) → ∃ t y, exec j s = .next t ∧ left t ∧ FMap.get? t.traps k = some y ∧ y.rung = min (x.rung + 1) 4 ∧
        y.st = .waiting)

/-! ## Memory instructions (spec/06) -/

/-- Global loads and stores, no subscribe of the group being open. Each lane's address is the uniform pair plus the
sign-extended lane register; loads owe their registers, stores carry the bytes of theirs; tagged registers raise POISON, misaligned or
non-canonical addresses ADDR. While a subscribe of the group is open a load waits.
Rests on spec/06_memory_and_atomic_instructions.md. -/
def Obligations.GlobalLoadsAndStores : Prop :=
  ∀ s c g (d a : BitVec 7), Issuing s c g → (subOpen s c.gid = true → ∀ k : BitVec 5, ∀ j : BitVec 3, ∀ i : Instr,
    (i = .ldB32 d a k ∨ i = .ldB64 d a k ∨ i = .ldB128 d a k ∨ i = .ldN8 d a j ∨ i = .ldS8 d a j ∨ i = .ldN16 d a j ∨ i = .ldS16 d a j ∨
      (d.toNat < g.ndeep ∧ i = .dldB32 d a j)) → ∃ t, exec i s = .next t ∧ Waits s t c g .drain) ∧ (subOpen s c.gid = false →
    let at5 := fun (k : BitVec 5) l => g.sPairN (2 * k.toNat) + (g.vv a l).signExtend 64
    let at3 := fun (k : BitVec 3) l => g.sPairN (2 * k.toNat) + (g.vv a l).signExtend 64
    let loads := fun (i : Instr) (k : Nat) (addr : Nat → DWord) n form (ds : Nat → List Dst) =>
      let tagged := fun l => g.sPairTN k = true ∨ g.vt a l = true
      ((∀ l, active c g l = true → ¬ tagged l) → LoadsGlobal s c g i addr n (fun _ => .load n form) .plain [.read] (fun _ => True) ds) ∧
      GuardsAddresses s c g i tagged addr n
    let stores := fun (i : Instr) (k : Nat) (addr : Nat → DWord) n w (bytes : Nat → List Byte) =>
      let tagged := fun l => g.sPairTN k = true ∨ g.vt a l = true ∨ ∃ j, j < w ∧ (g.readV (d.toNat + j) l).tag = true
      ((∀ l, active c g l = true → ¬ tagged l) → StoresGlobal s c g i addr n (fun l => .store (bytes l)) .plain [.write] (fun _ => True)) ∧
      GuardsAddresses s c g i tagged addr n
    let v := fun j l => Dst.v (d.toNat + j) l
    let w := fun j l => (g.readV (d.toNat + j) l).val.toNat
    (∀ k, loads (.ldB32 d a k) (2 * k.toNat) (at5 k) 4 .words (fun l => [v 0 l]) ∧
      loads (.ldB64 d a k) (2 * k.toNat) (at5 k) 8 .words (fun l => [v 0 l, v 1 l]) ∧
      loads (.ldB128 d a k) (2 * k.toNat) (at5 k) 16 .words (fun l => [v 0 l, v 1 l, v 2 l, v 3 l]) ∧
      stores (.stB32 d a k) (2 * k.toNat) (at5 k) 4 1 (fun l => leBytes 4 (w 0 l)) ∧
      stores (.stB64 d a k) (2 * k.toNat) (at5 k) 8 2 (fun l => leBytes 4 (w 0 l) ++ leBytes 4 (w 1 l)) ∧
      stores (.stB128 d a k) (2 * k.toNat) (at5 k) 16 4 (fun l => leBytes 4 (w 0 l) ++ leBytes 4 (w 1 l) ++ leBytes 4 (w 2 l) ++ leBytes 4 (w 3 l))) ∧
    (∀ k, loads (.ldN8 d a k) (2 * k.toNat) (at3 k) 1 .n8 (fun l => [v 0 l]) ∧ loads (.ldS8 d a k) (2 * k.toNat) (at3 k) 1 .s8 (fun l => [v 0 l]) ∧
      loads (.ldN16 d a k) (2 * k.toNat) (at3 k) 2 .n16 (fun l => [v 0 l]) ∧ loads (.ldS16 d a k) (2 * k.toNat) (at3 k) 2 .s16 (fun l => [v 0 l]) ∧
      stores (.stB8 d a k) (2 * k.toNat) (at3 k) 1 1 (fun l => leBytes 1 (w 0 l)) ∧
      stores (.stB16 d a k) (2 * k.toNat) (at3 k) 2 1 (fun l => leBytes 2 (w 0 l)) ∧
      (d.toNat < g.ndeep → loads (.dldB32 d a k) (2 * k.toNat) (at3 k) 4 .words (fun l => [.deep d.toNat l])) ∧
      (d.toNat < g.ndeep → g.pend = [] → g.sPairTN (2 * k.toNat) = false → (∀ l, active c g l = true → g.vt a l = false ∧ (g.readDeep d.toNat l).tag = false) →
        StoresGlobal s c g (.dstB32 d a k) (at3 k) 4 (fun l => .store (leBytes 4 (g.readDeep d.toNat l).val.toNat)) .plain [.write] (fun _ => True)) ∧
      (g.ndeep ≤ d.toNat → (∃ l, active c g l = true) → (∃ t, exec (.dldB32 d a k) s = .next t ∧ Traps s t c g cAddr 0) ∧
        ∃ t, exec (.dstB32 d a k) s = .next t ∧ Traps s t c g cAddr 0)))

/-- Scratchpad loads and stores, no subscribe of the group being open. A load owes the bytes there, extended by the form (a marked line
gives 0, tagged); a store writes its lanes' bytes in ascending lane order, and takes the mark of a line all of whose 64 bytes it writes, and of no other; no
line's presence changes; an address that names no byte of such a scratchpad raises ADDR, an absent line parks the group.
That the access is performed in its issue, its values known in the next state, is the model's choice (log entry 56).
Rests on spec/06_memory_and_atomic_instructions.md. -/
def Obligations.ScratchpadLoadsAndStores : Prop :=
  ∀ s c g (d a : BitVec 7), Issuing s c g → subOpen s c.gid = false →
    let addr := fun k l => (g.readS k).val + g.vv a l
    let good := fun k n => (∀ l, active c g l = true → ∃ b o, spadRef s g (addr k l) n = some (b, o) ∧ spadAbsent s b o n = false)
    let clean := fun k w => (g.readS k).tag = false ∧ ∀ l, active c g l = true → g.vt a l = false ∧ ∀ j, j < w → (g.readV (d.toNat + j) l).tag = false
    let loads := fun (i : Instr) k n w (vals : List Byte → List Word) =>
      (clean k 0 → good k n → ∃ t h, exec i s = .next t ∧ t.mem = s.mem ∧ t.blocks = s.blocks ∧ FMap.get? t.groups c.gid = some h ∧ regs h = regs g ∧
        At c g h (fun _ => after c) ∧ ∀ l b o, active c g l = true → spadRef s g (addr k l) n = some (b, o) →
          Owed h (some l) ((vDsts d.toNat w l).zip ((vals (spadRead s b o n)).map (fun x => if spadMarked s b o n then ⟨0, true⟩ else ⟨x, false⟩)))) ∧
      (clean k 0 → (∃ l, active c g l = true ∧ (g.lane l).helper = false ∧ spadRef s g (addr k l) n = none) →
        ∃ t va, exec i s = .next t ∧ Traps s t c g cAddr va) ∧
      (clean k 0 → (∀ l, active c g l = true → (spadRef s g (addr k l) n).isSome = true) →
        (∃ l b o, active c g l = true ∧ spadRef s g (addr k l) n = some (b, o) ∧ spadAbsent s b o n = true) → ∃ t, exec i s = .next t ∧ Waits s t c g .presence)
    let stores := fun (i : Instr) k n w (bytes : Nat → List Byte) =>
      (clean k w → good k n → ∃ t, exec i s = .next t ∧ t.mem = s.mem ∧ Passes t c g ∧
        ∀ b j, FMap.getD (FMap.getD t.blocks b {}).spad j 0 =
          ((activeReal c g).foldl (fun x l => match spadRef s g (addr k l) n with
            | some (b', o) => if b' = b ∧ o ≤ j ∧ j < o + n then (bytes l).getD (j - o) 0 else x
            | none => x) (FMap.getD (FMap.getD s.blocks b {}).spad j 0)) ∧
          (FMap.getD t.blocks b {}).absent = (FMap.getD s.blocks b {}).absent ∧
          ∀ ln, ln ∈ (FMap.getD t.blocks b {}).marked ↔ ln ∈ (FMap.getD s.blocks b {}).marked ∧
            ∃ q, q / 64 = ln ∧ ∀ l ∈ activeReal c g, ∀ o, spadRef s g (addr k l) n = some (b, o) → ¬(o ≤ q ∧ q < o + n)) ∧
      (clean k w → (∃ l, active c g l = true ∧ (g.lane l).helper = false ∧ spadRef s g (addr k l) n = none) →
        ∃ t va, exec i s = .next t ∧ Traps s t c g cAddr va) ∧
      (clean k w → (∀ l, active c g l = true → (spadRef s g (addr k l) n).isSome = true) →
        (∃ l b o, active c g l = true ∧ (g.lane l).helper = false ∧ spadRef s g (addr k l) n = some (b, o) ∧ spadAbsent s b o n = true) →
        ∃ t, exec i s = .next t ∧ Waits s t c g .presence)
    let w := fun j l => (g.readV (d.toNat + j) l).val.toNat
    (∀ k : BitVec 5, loads (.ldsB32 d a k) (2 * k.toNat) 4 1 wordsOf ∧ loads (.ldsB64 d a k) (2 * k.toNat) 8 2 wordsOf ∧
      loads (.ldsB128 d a k) (2 * k.toNat) 16 4 wordsOf ∧ stores (.stsB32 d a k) (2 * k.toNat) 4 1 (fun l => leBytes 4 (w 0 l)) ∧
      stores (.stsB64 d a k) (2 * k.toNat) 8 2 (fun l => leBytes 4 (w 0 l) ++ leBytes 4 (w 1 l)) ∧
      stores (.stsB128 d a k) (2 * k.toNat) 16 4 (fun l => leBytes 4 (w 0 l) ++ leBytes 4 (w 1 l) ++ leBytes 4 (w 2 l) ++ leBytes 4 (w 3 l))) ∧
    (∀ k : BitVec 3, loads (.ldsN8 d a k) (2 * k.toNat) 1 1 (fun bs => [BitVec.ofNat 32 (ofBytes bs)]) ∧
      loads (.ldsN16 d a k) (2 * k.toNat) 2 1 (fun bs => [BitVec.ofNat 32 (ofBytes bs)]) ∧
      stores (.stsB8 d a k) (2 * k.toNat) 1 1 (fun l => leBytes 1 (w 0 l)) ∧ stores (.stsB16 d a k) (2 * k.toNat) 2 1 (fun l => leBytes 2 (w 0 l)))

/-- LDY, LDKV and PREF. PREF changes no register and faults for nothing, and under a tagged address does nothing at all. The other two wait for the group's own
accesses, refuse tagged and bad addresses, and, when every lane's address translates, leave their results outstanding. LDY's level goes up, to 10 at most, and the
group waits 16 × 2^level cycles, when every value is the register's already; some value that is not makes it 0 and the group goes on. With memory at rest and
the addresses in package memory the results are known: LDY owes the four bytes at the home, tagged zero of a poisoned line; LDKV of its entry's status: word and 0,
or 0 and the code, with LDKV.trap a KVSTATUS record in place of a code; a poisoned entry reads as tagged zeros (log entry 64); a word number outside an OK entry's
vector, in a lane that is no helper, stops the group with ADDR.
That the reads are performed in the issue is the model's choice (log entry 56).
Rests on spec/06_memory_and_atomic_instructions.md, spec/11_matrix_attention_unmasking.md. -/
def Obligations.HomeReads : Prop :=
  ∀ s c g (d a : BitVec 7) (k : BitVec 3), Issuing s c g →
    let tagged := fun l => g.sPairTN (2 * k.toNat) = true ∨ g.vt a l = true
    let addr := fun l => g.sPairN (2 * k.toNat) + (g.vv a l).signExtend 64
    let entry := fun l => g.sPairN (2 * k.toNat) + BitVec.ofNat 64 (16 * ((g.vv a l).toNat / 256 / 64))
    let real := fun l => active c g l = true ∧ (g.lane l).helper = false
    let kv := fun trap : Bool => if trap then Instr.ldkvTrap d a k else Instr.ldkv d a k
    (∀ v, (∃ t, exec (.pref v a k) s = .next t ∧ Passes t c g) ∧
      ((∃ l, real l ∧ tagged l) → ∃ t, exec (.pref v a k) s = .next t ∧ WritesNone s t c g (fun _ => after c))) ∧
    (inFlight s c.gid = true → (∃ t, exec (.ldyB32 d a k) s = .next t ∧ Waits s t c g .drain) ∧
      ∀ trap, ∃ t, exec (kv trap) s = .next t ∧ Waits s t c g .drain) ∧
    (inFlight s c.gid = false → GuardsAddresses s c g (.ldyB32 d a k) tagged addr 4 ∧ ∀ trap, GuardsAddresses s c g (kv trap) tagged entry 16) ∧
    (inFlight s c.gid = false → (∀ l, active c g l = true → ¬ tagged l) →
      ((∀ l, active c g l = true → addrBad (addr l) 4 = false) →
        ∀ u, ∀ pa : Nat → Nat, Translates s g [.read] (fun _ => True) ((activeLanes c g).map (fun l => (laneBy s c g l, addr l, pa l))) u →
        ∃ t h new, exec (.ldyB32 d a k) s = .next t ∧ FMap.get? t.groups c.gid = some h ∧ regs h = regs g ∧ At c g h (fun _ => after c) ∧
          h.pend = g.pend ++ new ∧ (∀ l, active c g l = true → ∃ p ∈ new, p.lane = some l ∧ p.dsts = [some (.v d.toNat l)]) ∧
          ((∃ l, real l) →
            let same := fun l => ∃ x, ∃ p ∈ new, p.lane = some l ∧ p.st = .ready [x] ∧ x.val = g.vv d l
            ((∀ l, real l → same l) → h.ldy = min (g.ldy + 1) 10 ∧ h.wait = .ldy ((s.die g.die).cycle + 16 * 2 ^ min (g.ldy + 1) 10) c.hdr.m) ∧
            ((∃ l, real l ∧ ¬ same l) → h.ldy = 0 ∧ ∀ n m, h.wait ≠ .ldy n m)) ∧
          (AtRest u → (∀ l, active c g l = true → inPackage u (pa l) = true ∧ laneDet s g l = none) →
            SameBytes u t ∧ ∀ l, active c g l = true → Owed h (some l) [(.v d.toNat l, if poisonedLine u g.die (pa l) then ⟨0, true⟩ else
              ⟨BitVec.ofNat 32 (ofBytes (homeBytes u g.die (pa l) 4)), false⟩)])) ∧
      ((∀ l, active c g l = true → addrBad (entry l) 16 = false) →
        ∀ u, ∀ pa : Nat → Nat, Translates s g [.read] (fun _ => True) ((activeLanes c g).map (fun l => (laneBy s c g l, entry l, pa l))) u → ∀ trap,
        let w := fun l => (g.vv a l).toNat % 256
        let owes := fun (h : Group) => ∀ l, active c g l = true →
          ∃ p ∈ h.pend, p.lane = some l ∧ p.dsts = [some (.v d.toNat l), some (.v (d.toNat + 1) l)]
        ((∀ l, real l → w l < 32) → ∃ t h, exec (kv trap) s = .next t ∧ FMap.get? t.groups c.gid = some h ∧ regs h = regs g ∧ At c g h (fun _ => after c) ∧ owes h) ∧
        (AtRest u → (∀ l, active c g l = true → inPackage u (pa l) = true ∧ laneDet s g l = none) →
          let e := fun l => homeBytes u g.die (pa l) 16
          let words := fun l => kvDim (e l) * kvEs (kvEfmt (e l)) / 2
          let status := fun l => kvSeen u g.die (e l)
          let block := fun l => let b := homeBytes u g.die (kvAddr (e l)) (32 * kvSize (e l))
            if kvPoisoned u g.die none (e l) then none else if kvRaw (e l) then some b else codecDecode (kvEfmt (e l)) (kvDim (e l)) b
          let outside := fun l => poisonedLine u g.die (pa l) = false ∧ status l = 0 ∧ words l ≤ w l
          ((∃ l, real l ∧ outside l) → ∃ t v l, exec (kv trap) s = .next t ∧ SameBytes u v ∧ real l ∧ outside l ∧ Traps v t c g cAddr (entry l)) ∧
          ((∀ l, real l → ¬ outside l) → ∃ t h, exec (kv trap) s = .next t ∧ SameBytes u t ∧ FMap.get? t.groups c.gid = some h ∧ regs h = regs g ∧
            At c g h (fun _ => after c) ∧ owes h ∧ ∀ l, real l →
              let gets := fun x y => Owed h (some l) [(.v d.toNat l, x), (.v (d.toNat + 1) l, y)]
              let code := fun n => if trap then ∃ p ∈ h.pend, p.lane = some l ∧ ∃ f, p.st = .bad f ∧ f.cause = cKv ∧ f.kvst = BitVec.ofNat 8 n ∧ f.kind = 0 ∧
                  f.pc = c.pc ∧ f.addr = entry l ∧ f.word = c.word
                else gets ⟨0, false⟩ ⟨BitVec.ofNat 32 n, false⟩
              if poisonedLine u g.die (pa l) = true then gets ⟨0, true⟩ ⟨0, true⟩
              else if status l ≠ 0 then code (status l)
              else match block l with
                | some b => gets ⟨BitVec.ofNat 32 (field b (2 * kvDim (e l) * kvEs (kvEfmt (e l)) * ((g.vv a l).toNat / 256 % 64) + 4 * w l) 4), false⟩ ⟨0, false⟩
                | none => code 4))))

/-- Lane atomics at global meeting points, when the addresses may be used there and translate: each lane's atomic is on its way
to its executor with its operands, the old value owed where the form returns one. Which code names which operation; what an operation gives, of a 64-bit
location, and of a 32-bit one by the low words.
Rests on spec/06_memory_and_atomic_instructions.md, spec/10_visibility_graph.md. -/
def Obligations.GlobalAtomics : Prop :=
  (∀ s c g (d a : BitVec 7) (w : BitVec 1) (p : BitVec 2), Issuing s c g → 2 ≤ p.toNat → (∀ l, active c g l = true → g.vPairT a l = false) →
     let n := if w = 1#1 then 8 else 4
     let m := if w = 1#1 then 2 else 1
     let val := fun j l => if w = 1#1 then pairVal (g.readV (d.toNat + j) l).val (g.readV (d.toNat + j + 1) l).val else (g.readV (d.toNat + j) l).val.setWidth 64
     let clean := fun k => ∀ l, active c g l = true → ∀ j, j < k → (g.readV (d.toNat + j) l).tag = false
     let mp : MeetPt := if p = 3#2 then .sys else .ten
     let sends := fun (i : Instr) (lanes : List Nat) (kind : Nat → AccKind) (needs : List Need) (returns : Bool) =>
       (∀ l ∈ lanes, addrBad (g.vPair a l) n = false ∧ laneDet s g l = none) →
       ∀ u, ∀ pa : Nat → Nat,
       Translates s.fresh.2 g needs (fun q => mpCheck s g.die q (p == 3#2) = none) (lanes.map (fun l => (laneBy s c g l, g.vPair a l, pa l))) u →
       ∃ t h, exec i s = .next t ∧ t.mem = u.mem ∧ FMap.get? t.groups c.gid = some h ∧ regs h = regs g ∧ At c g h (fun _ => after c) ∧
         ∀ l ∈ lanes, if returns then Awaited s u t c g h (some l) (vDsts d.toNat m l) (laneBy s c g l) (g.vPair a l) (pa l) (kind l) mp
           else Travels t c (some l) (g.vPair a l) (pa l) (kind l) mp
     (∀ o : BitVec 4, o.toNat ≤ 9 → clean m →
       sends (.atom d a o p w) (activeReal c g) (fun l => .atomic (atomOf o.toNat) (w == 1#1) (val 0 l) 0 true false false) [.read, .write] true ∧
       sends (.atomPub d a o p w) (activeReal c g) (fun l => .atomic (atomOf o.toNat) (w == 1#1) (val 0 l) 0 true true true) [.read, .write] true ∧
       sends (.red d a o p w) (activeReal c g) (fun l => .atomic (atomOf o.toNat) (w == 1#1) (val 0 l) 0 false false false) [.write] false) ∧
     (clean (2 * m) →
       sends (.cas d a p w) (activeReal c g) (fun l => .atomic .cas (w == 1#1) (val 0 l) (val m l) true false false) [.read, .write] true ∧
       sends (.casPub d a p w) (activeReal c g) (fun l => .atomic .cas (w == 1#1) (val 0 l) (val m l) true true true) [.read, .write] true) ∧
     (subOpen s c.gid = false →
       sends (.ldSub d a p w) (activeLanes c g) (fun _ => .atomic .read (w == 1#1) 0 0 true false true) [.read] true)) ∧
  ((∀ old x y : DWord, atomNew .add true old x y = old + x ∧ atomNew .exch true old x y = x ∧ atomNew .read true old x y = old ∧
     atomNew .and true old x y = old &&& x ∧ atomNew .or true old x y = old ||| x ∧ atomNew .xor true old x y = old ^^^ x ∧
     (atomNew .minS true old x y).toInt = min old.toInt x.toInt ∧ (atomNew .maxS true old x y).toInt = max old.toInt x.toInt ∧
     (atomNew .minN true old x y).toNat = min old.toNat x.toNat ∧ (atomNew .maxN true old x y).toNat = max old.toNat x.toNat ∧
     atomNew .cas true old x y = if old = x then y else old) ∧
   (∀ a b y : Word, ∀ old x z : DWord, loHalf old = a → loHalf x = b → loHalf z = y →
     loHalf (atomNew .add false old x z) = a + b ∧ loHalf (atomNew .exch false old x z) = b ∧ loHalf (atomNew .read false old x z) = a ∧
     loHalf (atomNew .and false old x z) = a &&& b ∧ loHalf (atomNew .or false old x z) = a ||| b ∧ loHalf (atomNew .xor false old x z) = a ^^^ b ∧
     (loHalf (atomNew .minS false old x z)).toInt = min a.toInt b.toInt ∧ (loHalf (atomNew .maxS false old x z)).toInt = max a.toInt b.toInt ∧
     (loHalf (atomNew .minN false old x z)).toNat = min a.toNat b.toNat ∧ (loHalf (atomNew .maxN false old x z)).toNat = max a.toNat b.toNat ∧
     loHalf (atomNew .addF32 false old x z) = toF32 (Fv.add false (fv32 a) (fv32 b)) ∧
     loHalf (atomNew .cas false old x z) = if a = b then y else a)) ∧
  (List.range 12).map atomOf = [.add, .minS, .maxS, .minN, .maxN, .and, .or, .xor, .exch, .addF32, .cas, .read]

/-- Lane atomics at the scratchpad's meeting points are performed lane after lane: each lane is owed the value its turn found, and the
bytes are those after the last turn. A turn at a marked line gives tagged zeros and changes nothing; at another it gives the old value and puts the new one in
its place. That they are performed in the issue is the model's choice (log entry 56).
Rests on spec/06_memory_and_atomic_instructions.md. -/
def Obligations.ScratchpadAtomics : Prop :=
  (∀ s b o op (wide : Bool) x y, (FMap.get? s.blocks b).isSome = true →
    let n := if wide then 8 else 4
    let r := spadAtomic s b o op wide x y
    let old : DWord := BitVec.ofNat 64 (ofBytes (spadRead s b o n))
    let blk := fun (t : State) e => FMap.getD t.blocks e {}
    (spadMarked s b o n = true → r = (if wide then [⟨0, true⟩, ⟨0, true⟩] else [⟨0, true⟩], s)) ∧
    (spadMarked s b o n = false → r.1 = (if wide then [⟨loHalf old, false⟩, ⟨hiHalf old, false⟩] else [⟨loHalf old, false⟩]) ∧
      ∀ e j, (blk r.2 e).marked = (blk s e).marked ∧ (blk r.2 e).absent = (blk s e).absent ∧
        FMap.getD (blk r.2 e).spad j 0 =
          if e = b ∧ o ≤ j ∧ j < o + n then (leBytes n (atomNew op wide old x y).toNat).getD (j - o) 0 else FMap.getD (blk s e).spad j 0)) ∧
  (∀ s c g (d a : BitVec 7) (w : BitVec 1) (p : BitVec 2), Issuing s c g → inFlight s c.gid = false → p.toNat ≤ 1 →
    (∀ l, active c g l = true → g.vPairT a l = false) →
    let n := if w = 1#1 then 8 else 4
    let m := if w = 1#1 then 2 else 1
    let val := fun j l => if w = 1#1 then pairVal (g.readV (d.toNat + j) l).val (g.readV (d.toNat + j + 1) l).val else (g.readV (d.toNat + j) l).val.setWidth 64
    let clean := fun k => ∀ l, active c g l = true → ∀ j, j < k → (g.readV (d.toNat + j) l).tag = false
    (∀ l, active c g l = true → hiHalf (g.vPair a l) = 0 ∧ (p = 0#2 → ownCore s g (g.vv a l) = true) ∧
      ∃ b o, spadRef s g (g.vv a l) n = some (b, o) ∧ spadAbsent s b o n = false) →
    let place := fun l => (spadRef s g (g.vv a l) n).getD (0, 0)
    let performs := fun (i : Instr) (lanes : List Nat) (op : AtomOp) (x y : Nat → DWord) (returns : Bool) =>
      let turn := fun (u : State) l => spadAtomic u (place l).1 (place l).2 op (w == 1#1) (x l) (y l)
      ∃ t h, exec i s = .next t ∧ t.mem = s.mem ∧ FMap.get? t.groups c.gid = some h ∧ regs h = regs g ∧ At c g h (fun _ => after c) ∧
        t.blocks = (lanes.foldl (fun u l => (turn u l).2) s).blocks ∧
        (returns = true → ∀ l ∈ lanes,
          Owed h (some l) ((vDsts d.toNat m l).zip (turn ((lanes.takeWhile (fun k => decide (k ≠ l))).foldl (fun u k => (turn u k).2) s) l).1))
    (∀ o : BitVec 4, o.toNat ≤ 9 → clean m →
      performs (.atom d a o p w) (activeReal c g) (atomOf o.toNat) (val 0) (fun _ => 0) true ∧
      performs (.atomPub d a o p w) (activeReal c g) (atomOf o.toNat) (val 0) (fun _ => 0) true ∧
      performs (.red d a o p w) (activeReal c g) (atomOf o.toNat) (val 0) (fun _ => 0) false) ∧
    (clean (2 * m) → performs (.cas d a p w) (activeReal c g) .cas (val 0) (val m) true ∧ performs (.casPub d a p w) (activeReal c g) .cas (val 0) (val m) true) ∧
    performs (.ldSub d a p w) (activeLanes c g) .read (fun _ => 0) (fun _ => 0) true)

/-- ACCRD owes each lane the element's value in the format and mode, tagged with the tile's poison; ACCWR writes the lanes'
values in one after another; a busy tile is waited for, and a tile the block has not raises UNDEF.
Rests on spec/01_registers_and_state.md, spec/03_number_formats.md, spec/06_memory_and_atomic_instructions.md. -/
def Obligations.AccumulatorAccess : Prop :=
  ∀ s c g (d a : BitVec 7) (k : BitVec 2), Issuing s c g → (∃ l, active c g l = true) →
    let i := fun l => (g.vv a l).toNat % 2 ^ 14
    (∀ n, tileOf s g k.toNat = some n → (∀ l, active c g l = true → g.vt a l = false ∧ g.vt d l = false) →
      let tile := (s.core g.die g.core).tiles.getD n {}
      (tile.busy = 0 →
        (∀ (f : BitVec 2) (r : BitVec 3), ∃ t, exec (.accrd d a k f r) s = .next t ∧
          OwesV s t c g (fun l => [(.v d.toNat l, ⟨accTo tile (i l) f.toNat (rndOf r.toNat 0 0), tile.poison⟩)])) ∧
        (∃ t, exec (.accwr d a k) s = .next t ∧ t.mem = s.mem ∧ Passes t c g ∧
          (t.core g.die g.core).tiles = (s.core g.die g.core).tiles.set n ((activeReal c g).foldl (fun x l => accFrom x (i l) (g.vv d l)) tile))) ∧
      (tile.busy ≠ 0 → (∀ f r, ∃ t, exec (.accrd d a k f r) s = .next t ∧ Waits s t c g .tile) ∧ ∃ t, exec (.accwr d a k) s = .next t ∧ Waits s t c g .tile)) ∧
    (tileOf s g k.toNat = none →
      (∀ f r, ∃ t, exec (.accrd d a k f r) s = .next t ∧ Traps s t c g cUndef 0) ∧ ∃ t, exec (.accwr d a k) s = .next t ∧ Traps s t c g cUndef 0)

/-- The uniform accesses, at one address for the issue. SLD owes its registers, SST's bytes are on their way or in the scratchpad, SATOM
owes the old value; a misaligned or non-canonical address raises ADDR, and a tagged address register POISON.
That a scratchpad access is performed in its issue is the model's choice (log entry 56).
Rests on spec/06_memory_and_atomic_instructions.md. -/
def Obligations.UniformAccesses : Prop :=
  ∀ s c g, Issuing s c g → Guarded c g →
    (∀ (d a b : BitVec 6) (k : BitVec 3),
      let n := if k.getLsbD 0 then 2 else 1
      let off : DWord := if k.getLsbD 1 then (g.sv b).setWidth 64 else BitVec.ofNat 64 (b.toNat * (4 * n))
      let va := g.sPair a + off
      let sa := g.sv a + loHalf off
      let clean := (g.readS a.toNat).tag = false ∧ (k.getLsbD 2 = false → (g.readS (a.toNat + 1)).tag = false) ∧ (k.getLsbD 1 = true → g.st b = false)
      let datum := (List.range n).flatMap (fun j => leBytes 4 (g.readS (d.toNat + j)).val.toNat)
      let pure := ∀ j, j < n → (g.readS (d.toNat + j)).tag = false
      (k.getLsbD 2 = false → clean → addrBad va (4 * n) = false →
        (subOpen s c.gid = false → ∀ u pa, Translates s.fresh.2 g [.read] (fun _ => True) [({ gid := some c.gid, child := holdOf s g c.lanes }, va, pa)] u →
          ∃ t h, exec (.sld d a b k) s = .next t ∧ t.mem = u.mem ∧ FMap.get? t.groups c.gid = some h ∧ regs h = regs g ∧ At c g h (fun _ => after c) ∧
            Awaited s u t c g h none (sDsts d.toNat n) { gid := some c.gid, child := holdOf s g c.lanes } va pa (.load (4 * n) .words) .plain) ∧
        (pure → holdsOf s g c.lanes = [none] → ∀ u pa, Translates s.fresh.2 g [.write] (fun _ => True) [({ gid := some c.gid }, va, pa)] u →
          ∃ t h, exec (.sst d a b k) s = .next t ∧ t.mem = u.mem ∧ FMap.get? t.groups c.gid = some h ∧ regs h = regs g ∧ At c g h (fun _ => after c) ∧
            Travels t c none va pa (.store datum) .plain)) ∧
      (k.getLsbD 2 = false → clean → addrBad va (4 * n) = true →
        (subOpen s c.gid = false → ∃ t, exec (.sld d a b k) s = .next t ∧ Traps s t c g cAddr va) ∧
        (pure → ∃ t, exec (.sst d a b k) s = .next t ∧ Traps s t c g cAddr va)) ∧
      (k.getLsbD 2 = true → clean → ∀ bl o, spadRef s g sa (4 * n) = some (bl, o) → spadAbsent s bl o (4 * n) = false →
        (subOpen s c.gid = false → ∃ t, exec (.sld d a b k) s = .next t ∧ OwesU s t c g ((sDsts d.toNat n).zip
          ((wordsOf (spadRead s bl o (4 * n))).map (fun x => if spadMarked s bl o (4 * n) then ⟨0, true⟩ else ⟨x, false⟩)))) ∧
        (pure → ∃ t, exec (.sst d a b k) s = .next t ∧ t.mem = s.mem ∧ Passes t c g ∧
          ∀ e j, FMap.getD (FMap.getD t.blocks e {}).spad j 0 =
            if e = bl ∧ o ≤ j ∧ j < o + 4 * n then datum.getD (j - o) 0 else FMap.getD (FMap.getD s.blocks e {}).spad j 0)) ∧
      (g.st a = true → (∃ t, exec (.sld d a b k) s = .next t ∧ Poisoned s t c g) ∧ ∃ t, exec (.sst d a b k) s = .next t ∧ Poisoned s t c g)) ∧
    (∀ (o : BitVec 4) (a b : BitVec 6) (p : BitVec 2) (w : BitVec 1) (pub : Bool),
      let i : Instr := if pub then .satomPub o a b p w else .satom o a b p w
      let z := atomOperands (atomOf o.toNat) (w == 1#1) true (fun j => (g.readS (b.toNat + j)).val)
      let size := if w = 1#1 then 8 else 4
      let clean := (g.readS a.toNat).tag = false ∧ (2 ≤ p.toNat → (g.readS (a.toNat + 1)).tag = false) ∧ ∀ j, j < z.reads → (g.readS (b.toNat + j)).tag = false
      (2 ≤ p.toNat → clean → addrBad (g.sPair a) size = false → holdsOf s g c.lanes = [none] →
        ∀ u pa, Translates s.fresh.2 g (AccKind.needs (.atomic (atomOf o.toNat) (w == 1#1) z.x z.y true pub pub)) (fun q => mpCheck s g.die q (p == 3#2) = none)
          [({ gid := some c.gid }, g.sPair a, pa)] u →
        ∃ t h, exec i s = .next t ∧ t.mem = u.mem ∧ FMap.get? t.groups c.gid = some h ∧ regs h = regs g ∧ At c g h (fun _ => after c) ∧
          Awaited s u t c g h none (sDsts b.toNat z.writes) { gid := some c.gid } (g.sPair a) pa (.atomic (atomOf o.toNat) (w == 1#1) z.x z.y true pub pub)
            (if p = 3#2 then .sys else .ten)) ∧
      (p.toNat ≤ 1 → clean → inFlight s c.gid = false → (p = 0#2 → ownCore s g (g.sv a) = true) →
        ∀ bl q, spadRef s g (g.sv a) size = some (bl, q) → spadAbsent s bl q size = false →
        ∃ t h, exec i s = .next t ∧ t.mem = s.mem ∧ FMap.get? t.groups c.gid = some h ∧ regs h = regs g ∧ At c g h (fun _ => after c) ∧
          t.blocks = (spadAtomic s bl q (atomOf o.toNat) (w == 1#1) z.x z.y).2.blocks ∧
          Owed h none ((sDsts b.toNat z.writes).zip (spadAtomic s bl q (atomOf o.toNat) (w == 1#1) z.x z.y).1)) ∧
      (g.st a = true → ∃ t, exec i s = .next t ∧ Poisoned s t c g))


/-- Where an address leads, and what a lane access does whose address leads nowhere. With EN clear every translation is refused; else a TLB entry of the core that
answers it is used, and with none a walk of the tables in memory, with memory at rest and no copy of it on the die; a page's bits permit the access or refuse it. A refusal, as one for another world's
memory, in a lane that is no helper stops the group with nothing performed. Any other failure parks its lane after the instruction with the access's record, to be executed
again where it returns something; a helper lane is owed zeros instead, and every other lane's access goes on. An access that arrives
under a passed generation is not performed: the record GEN_STALE waits in its result, or among the rejections of its group. No byte changes.
Rests on spec/06_memory_and_atomic_instructions.md, spec/08_groups_and_issue.md, spec/15_launches_contexts_translation.md. -/
def Obligations.AddressesThatFail : Prop :=
  (∀ s die core ctx ring need va b, let x := s.ctx die ctx
    let found := fun (e : TlbEntry) => e.asid = x.asid ∧ e.gen = s.gen x.asid ∧ va.toNat / 2 ^ e.bits = e.vpage
    let goes := fun (bits frame perms : Nat) => let r := (translate s die core ctx ring need va b).1
      (Permits perms need ring → r = .ok ⟨frame + va.toNat % 2 ^ bits, perms / 16 % 2 == 1⟩) ∧ (¬ Permits perms need ring → r = .error .protect)
    (x.xlOn = false → translate s die core ctx ring need va b = (.error .protect, s)) ∧
    (x.xlOn = true → canonical va = true → core < 192 →
      (∀ e ∈ (s.core die core).tlb, found e → (∀ f ∈ (s.core die core).tlb, found f → f = e) → goes e.bits e.frame e.perms.toNat) ∧
      ((∀ e ∈ (s.core die core).tlb, ¬ found e) → (∀ e ∈ (s.die die).dm.tlb, ¬ found e) → AtRest s → (∀ y ∈ (s.die die).dm.l2, y.own = true) → b.ops s = [] →
        (Walks s die va.toNat 4 x.root none → (translate s die core ctx ring need va b).1 = .error .page) ∧
        ∀ w f p, Walks s die va.toNat 4 x.root (some (w, f, p)) → goes w f p))) ∧
  (∀ s c g (d a : BitVec 7), Issuing s c g → subOpen s c.gid = false →
    let run := fun (i : Instr) (s0 : State) (lanes : List Nat) (addr : Nat → DWord) (n : Nat) (kind : Nat → AccKind) (needs : List Need) (ok : Nat → Prop)
        (writes : Bool) (again : Bool) (data : Nat → Nat) (goes : State → State → Group → Nat → Nat → Prop) (zeros : Nat → List (Dst × Reg)) =>
      (∀ l ∈ lanes, addrBad (addr l) n = false ∧ (writes = true → laneDet s g l = none)) →
      ∀ u, ∀ r : Nat → Except AErr Nat, Tries s0 g needs (lanes.map (fun l => (laneBy s c g l, addr l, r l))) u → (∀ l ∈ lanes, ∀ pa, r l = .ok pa → ok pa) →
      let denied := fun l x => l ∈ lanes ∧ (g.lane l).helper = false ∧ ((r l = .error .protect ∧ x = cProtect) ∨ (r l = .error .world ∧ x = cWorld))
      ((∃ l x, denied l x) → ∃ t l x, exec i s = .next t ∧ denied l x ∧ Traps u t c g x (addr l)) ∧
      ((∀ l x, ¬ denied l x) → ∃ t h, exec i s = .next t ∧ FMap.get? t.groups c.gid = some h ∧ regs h = regs g ∧ At c g h (fun _ => after c) ∧
        ∀ l ∈ lanes, match r l with
          | .ok pa => goes u t h l pa
          | .error e => if (g.lane l).helper then Owed h (some l) (zeros l)
            else (g.lane l).st = .ready → ∃ x, ((e = .page ∧ x = cPage) ∨ (e = .berth ∧ x = cBerth)) ∧
              ParkedBy t c g h l x (addr l) (kind l).size (data l) (if again then some (kind l) else none))
    let clean := fun k w => g.sPairTN k = false ∧ ∀ l, active c g l = true → g.vt a l = false ∧ ∀ j, j < w → (g.readV (d.toNat + j) l).tag = false
    let loads := fun (i : Instr) (addr : Nat → DWord) n form (ds : Nat → List Dst) =>
      run i s.fresh.2 (activeLanes c g) addr n (fun _ => .load n form) [.read] (fun _ => True) false true (fun _ => 0)
        (fun u t h l pa => t.mem = u.mem ∧ Awaited s u t c g h (some l) (ds l) (laneBy s c g l) (addr l) pa (.load n form) .plain)
        (fun l => (ds l).map (fun x => (x, ⟨0, false⟩)))
    let stores := fun (i : Instr) (addr : Nat → DWord) n (bytes : Nat → List Byte) =>
      run i s.fresh.2 (activeReal c g) addr n (fun l => .store (bytes l)) [.write] (fun _ => True) true false (fun l => ofBytes (bytes l))
        (fun u t _ l pa => t.mem = u.mem ∧ Travels t c (some l) (addr l) pa (.store (bytes l)) .plain) (fun _ => [])
    let at_ := fun k l => g.sPairN k + (g.vv a l).signExtend 64
    let v := fun j l => Dst.v (d.toNat + j) l
    let w := fun j l => (g.readV (d.toNat + j) l).val.toNat
    (∀ k : BitVec 5, let e := at_ (2 * k.toNat)
      (clean (2 * k.toNat) 0 → loads (.ldB32 d a k) e 4 .words (fun l => [v 0 l]) ∧ loads (.ldB64 d a k) e 8 .words (fun l => [v 0 l, v 1 l]) ∧
        loads (.ldB128 d a k) e 16 .words (fun l => [v 0 l, v 1 l, v 2 l, v 3 l])) ∧
      (clean (2 * k.toNat) 1 → stores (.stB32 d a k) e 4 (fun l => leBytes 4 (w 0 l))) ∧
      (clean (2 * k.toNat) 2 → stores (.stB64 d a k) e 8 (fun l => leBytes 4 (w 0 l) ++ leBytes 4 (w 1 l))) ∧
      (clean (2 * k.toNat) 4 → stores (.stB128 d a k) e 16 (fun l => leBytes 4 (w 0 l) ++ leBytes 4 (w 1 l) ++ leBytes 4 (w 2 l) ++ leBytes 4 (w 3 l)))) ∧
    (∀ k : BitVec 3, let e := at_ (2 * k.toNat)
      (clean (2 * k.toNat) 0 → loads (.ldN8 d a k) e 1 .n8 (fun l => [v 0 l]) ∧ loads (.ldS8 d a k) e 1 .s8 (fun l => [v 0 l]) ∧
        loads (.ldN16 d a k) e 2 .n16 (fun l => [v 0 l]) ∧ loads (.ldS16 d a k) e 2 .s16 (fun l => [v 0 l]) ∧
        (d.toNat < g.ndeep → loads (.dldB32 d a k) e 4 .words (fun l => [.deep d.toNat l])) ∧
        (inFlight s c.gid = false →
          run (.ldyB32 d a k) s (activeLanes c g) e 4 (fun _ => .load 4 .words) [.read] (fun _ => True) false true (fun _ => 0)
            (fun _ _ h l _ => ∃ p ∈ h.pend, p.lane = some l ∧ p.dsts = [some (v 0 l)]) (fun l => [(v 0 l, ⟨0, false⟩)]) ∧
          ((∀ l, active c g l = true → (g.vv a l).toNat % 256 < 32) → ∀ trap : Bool,
            run (if trap then .ldkvTrap d a k else .ldkv d a k) s (activeLanes c g) (fun l => g.sPairN (2 * k.toNat) + BitVec.ofNat 64 (16 * ((g.vv a l).toNat / 256 / 64)))
              16 (fun l => .kv ((g.vv a l).toNat / 256) ((g.vv a l).toNat % 256) trap) [.read] (fun _ => True) false true (fun _ => 0)
              (fun _ _ h l _ => ∃ p ∈ h.pend, p.lane = some l ∧ p.dsts = [some (v 0 l), some (v 1 l)]) (fun l => [(v 0 l, ⟨0, false⟩), (v 1 l, ⟨0, false⟩)])))) ∧
      (clean (2 * k.toNat) 1 → stores (.stB8 d a k) e 1 (fun l => leBytes 1 (w 0 l)) ∧ stores (.stB16 d a k) e 2 (fun l => leBytes 2 (w 0 l)))) ∧
    (∀ (z : BitVec 1) (p : BitVec 2), 2 ≤ p.toNat → (∀ l, active c g l = true → g.vPairT a l = false) →
      let n := if z = 1#1 then 8 else 4
      let m := if z = 1#1 then 2 else 1
      let val := fun j l => if z = 1#1 then pairVal (g.readV (d.toNat + j) l).val (g.readV (d.toNat + j + 1) l).val else (g.readV (d.toNat + j) l).val.setWidth 64
      let mp : MeetPt := if p = 3#2 then .sys else .ten
      let pure := fun k => ∀ l, active c g l = true → ∀ j, j < k → (g.readV (d.toNat + j) l).tag = false
      let atoms := fun (i : Instr) (lanes : List Nat) (kind : Nat → AccKind) needs (again : Bool) (data : Nat → Nat) =>
        run i s.fresh.2 lanes (g.vPair a) n kind needs (fun q => mpCheck s g.die q (p == 3#2) = none) true again data
          (fun u t h l pa => t.mem = u.mem ∧ if again then Awaited s u t c g h (some l) (vDsts d.toNat m l) (laneBy s c g l) (g.vPair a l) pa (kind l) mp
            else Travels t c (some l) (g.vPair a l) pa (kind l) mp) (fun l => (vDsts d.toNat m l).map (fun x => (x, ⟨0, false⟩)))
      (∀ o : BitVec 4, o.toNat ≤ 9 → pure m → ∀ pub : Bool,
        atoms (if pub then .atomPub d a o p z else .atom d a o p z) (activeReal c g) (fun l => .atomic (atomOf o.toNat) (z == 1#1) (val 0 l) 0 true pub pub) [.read, .write]
          true (fun l => (val 0 l).toNat) ∧
        atoms (.red d a o p z) (activeReal c g) (fun l => .atomic (atomOf o.toNat) (z == 1#1) (val 0 l) 0 false false false) [.write] false (fun l => (val 0 l).toNat)) ∧
      (pure (2 * m) → ∀ pub : Bool, atoms (if pub then .casPub d a p z else .cas d a p z) (activeReal c g)
        (fun l => .atomic .cas (z == 1#1) (val 0 l) (val m l) true pub pub) [.read, .write] true (fun l => (val 0 l).toNat + 2 ^ (8 * n) * (val m l).toNat)) ∧
      atoms (.ldSub d a p z) (activeLanes c g) (fun _ => .atomic .read (z == 1#1) 0 0 true false true) [.read] true (fun _ => 0))) ∧
  (∀ s k a g, s.flight[k]? = some a → firstOfGroup s k a = true → s.gen a.asid ≠ a.gen → inPackage s a.pa = true → FMap.get? s.groups a.gid = some g →
    g.wait ≠ .awaitPlace → batchOf s a = [a] → a.byHelper g = false → a.publishes = false →
    (s.model.ev = some (.homeSliceAccess k) ∧ a.isAtomic = false ∨ s.model.ev = some (.homeSliceAtomic k) ∧ a.isAtomic = true) →
    let i : Instr := if a.isAtomic then .homeSliceAtomic else .homeSliceAccess
    ∃ t h r, exec i s = .next t ∧ SameBytes s t ∧ a ∉ t.flight ∧ FMap.get? t.groups a.gid = some h ∧ regs h = regs g ∧ r.cause = cGen ∧ r.kind = 0 ∧ r.pc = a.pc ∧
      r.addr = a.va ∧ r.word = a.word ∧ r.gen = a.gen ∧
      (∀ id, a.pend = some id → h.pend = g.pend.map (fun p => if p.id = id then { p with st := .bad r } else p) ∧ h.rejects = g.rejects) ∧
      (a.pend = none → h.pend = g.pend ∧ h.rejects = g.rejects ++ [(r, a.mask)] ∧ ∀ bs, a.kind = .store bs → r.data = BitVec.ofNat 128 (ofBytes bs)))

/-- The writes of a deterministic child are held. A store goes on its way for the child while the lines fit the shadow area, and raises ADDR, nothing performed, when
they do not. At its place it changes no byte of memory but joins the child's held writes; a load of the child reads each byte as its last held store has it,
else as the home does; an atomic acts on what the child's writes make of its location, and joins them. When the frame closes, each byte in no
atomic's location takes that of the highest child that holds it, an atomic's location takes the children's writes in ascending index, each in order, and nothing else
changes; in an enclosing deterministic child the writes join its own, and where they do not fit the AWAIT raises ADDR, the frame open.
That lines on their way count against the area, and that held writes stay in the child's record with none written to the area, are the model's choice (log entry 83).
Rests on spec/10_visibility_graph.md, spec/06_memory_and_atomic_instructions.md. -/
def Obligations.ChildrenHoldTheirWrites : Prop :=
  (∀ s c g (d a : BitVec 7), Issuing s c g → ∀ (k w : Nat) (i : Instr) (n : Nat) (bytes : Nat → List Byte),
    let v := fun j l => leBytes 4 (g.readV (d.toNat + j) l).val.toNat
    ((∃ e : BitVec 5, k = 2 * e.toNat ∧ ((i = .stB32 d a e ∧ n = 4 ∧ w = 1 ∧ bytes = v 0) ∨ (i = .stB64 d a e ∧ n = 8 ∧ w = 2 ∧ bytes = fun l => v 0 l ++ v 1 l) ∨
        (i = .stB128 d a e ∧ n = 16 ∧ w = 4 ∧ bytes = fun l => v 0 l ++ v 1 l ++ v 2 l ++ v 3 l))) ∨
      ∃ e : BitVec 3, k = 2 * e.toNat ∧ ((i = .stB8 d a e ∧ n = 1 ∧ w = 1 ∧ bytes = fun l => (v 0 l).take 1) ∨ (i = .stB16 d a e ∧ n = 2 ∧ w = 1 ∧ bytes = fun l => (v 0 l).take 2))) →
    let addr := fun l => g.sPairN k + (g.vv a l).signExtend 64
    g.sPairTN k = false → (∀ l, active c g l = true → g.vt a l = false ∧ (∀ j, j < w → (g.readV (d.toNat + j) l).tag = false) ∧ addrBad (addr l) n = false) →
    ∀ (child : Nat → Nat) u (pa : Nat → Nat), (∀ l ∈ activeReal c g, laneDet s g l = some (child l) ∧ pa l % n = 0) →
    Translates s.fresh.2 g [.write] (fun _ => True) ((activeReal c g).map (fun l => (laneBy s c g l, addr l, pa l))) u →
    let new := (activeReal c g).map (fun l => (child l, pa l / 128))
    (Room s g.die g.ctx new → ∃ t, exec i s = .next t ∧ Passes t c g ∧ ∀ l ∈ activeReal c g, ∃ x ∈ t.flight,
      x.gid = c.gid ∧ x.lane = some l ∧ x.va = addr l ∧ x.pa = pa l ∧ x.kind = .store (bytes l) ∧ x.child = [child l]) ∧
    (¬ Room s g.die g.ctx new → ∃ t l, l ∈ activeReal c g ∧ exec i s = .next t ∧ Traps s t c g cAddr (addr l))) ∧
  (∀ s k a g cid ch, AtHomeFor [cid] s k a g → NoFailures s → FMap.get? s.children cid = some ch → ch.det = true → ch.owner = none → CleanHeld ch.held →
    poisonedLine s a.die a.pa = false →
    let joins := fun (t : State) (act : HeldDo → Prop) => ∃ x y, act x ∧ FMap.get? t.children cid = some y ∧
      y = { ch with held := ch.held ++ [⟨a.va.toNat / 128, a.pa, a.gen, x, a.cbit⟩] }
    let home := fun n => homeBytes s a.die a.pa n
    (∀ bs, s.model.ev = some (.homeSliceAccess k) → a.kind = .store bs → ∃ t, exec .homeSliceAccess s = .next t ∧ SameBytes s t ∧ Answered s t a [] ∧
      joins t (fun x => ∃ m, x = .store bs m)) ∧
    (∀ n form, s.model.ev = some (.homeSliceAccess k) → a.kind = .load n form →
      (NoAtomic ch.held a.pa n → ∃ t, exec .homeSliceAccess s = .next t ∧ SameBytes s t ∧
        Answered s t a (loadRegs form ((List.range n).map (fun j => (heldByte ch.held (a.pa + j)).getD ((home n).getD j 0))) false)) ∧
      (n = 4 ∨ n = 8 → Location ch.held a.pa n → ∃ t, exec .homeSliceAccess s = .next t ∧ SameBytes s t ∧
        Answered s t a (loadRegs form (replayed ch.held a.pa (home n)) false))) ∧
    (∀ op wide x y ret pub sub, s.model.ev = some (.homeSliceAtomic k) → a.kind = .atomic op wide x y ret pub sub → batchOf s a = [a] →
      Location ch.held a.pa (atomSize wide) → ∃ t, exec .homeSliceAtomic s = .next t ∧ SameBytes s t ∧
        Answered s t a (atomRegs wide (BitVec.ofNat 64 (ofBytes (replayed ch.held a.pa (home (atomSize wide)))))) ∧
        (op ≠ .read → joins t (fun z => z = .atomic op wide x y)))) ∧
  (∀ s g fid ks, (s.children.filter (fun e => e.2.frame == fid)).Perm ks → ks.Pairwise (fun e f => e.2.index < f.2.index) →
    let ops := ks.flatMap (fun e => e.2.held)
    (∀ o ∈ ops, o.gen = s.gen (s.ctx g.die g.ctx).asid ∧ placeErr s g.die o.pa = none) →
    (AtRest s → CleanHeld ops → groupDet s g = none → (∀ o ∈ ops, inPackage s o.pa = true ∧ (∀ d m, o.act = .store d m → o.pa % 128 + d.length ≤ 128) ∧
        ∀ op w x y, o.act = .atomic op w x y → o.pa % atomSize w = 0 ∧ poisonedLine s g.die o.pa = false) →
      ∃ t, mergeFrame s g fid = .done t ∧ t.mem.far = s.mem.far ∧ t.mem.berth = s.mem.berth ∧
        (∀ j, NoAtomic ops j 1 →
          (∀ e ∈ ks, ∀ b, heldByte e.2.held j = some b → (∀ f ∈ ks, e.2.index < f.2.index → heldByte f.2.held j = none) → memRead t.mem.bytes j = b) ∧
          ((∀ e ∈ ks, heldByte e.2.held j = none) → memRead t.mem.bytes j = memRead s.mem.bytes j)) ∧
        ∀ pa n, n = 4 ∨ n = 8 → Location ops pa n → ∀ j, j < n →
          memRead t.mem.bytes (pa + j) = (replayed ops pa ((List.range n).map (fun i => memRead s.mem.bytes (pa + i)))).getD j 0) ∧
    ∀ kk ch, groupDet s g = some kk → FMap.get? s.children kk = some ch →
      let new := (heldLines ops).map (fun l => (kk, l))
      (Room s ch.die ch.ctx new → ∃ t, mergeFrame s g fid = .done t ∧ t.mem = s.mem ∧ (FMap.get? t.children kk).map (·.held) = some (ch.held ++ ops)) ∧
      (¬ Room s ch.die ch.ctx new → ∀ c fs f, Issuing s c g → Guarded c g → Settled s c g → g.frames = fid :: fs → FMap.get? s.frames fid = some f → f.count = 0 →
        ∃ t, exec .await s = .next t ∧ Traps s t c g cAddr 0))

/-! ## Engine commands (spec/07) -/

/-- An engine command, when its queue has room, its address is aligned, its block reads and keeps its
limits, and MPOLICY allows it, is taken with the fields of its block, its group going on; a full queue parks the group, a tagged pair raises
POISON, a bad address or a malformed block ADDR, a poisoned block POISON. A CHAIN whose record is not owned takes nothing; one that is taken clears the
presence of exactly the scratchpad lines that its head record, unless malformed, is to write; an MCMD makes its tile busy; the reads that are made at the issue beside the block (an index list, layer groups, a team record, node records and a patch) are kept
with the operation.
Rests on spec/07_engine_commands.md. -/
def Obligations.EngineCommandsTaken : Prop :=
  ∀ s c g (a e : BitVec 6) (ch : BitVec 1), Issuing s c g → Guarded c g →
    let p := g.sPair a
    let core := fun (t : State) => t.core g.die g.core
    let asks := fun (i : Instr) (full : Bool) (al n : Nat) (tags : Bool) (body : Prop) =>
      (full = true → ∃ t, exec i s = .next t ∧ Waits s t c g .queue) ∧
      (full = false → tags = true → ∃ t, exec i s = .next t ∧ Poisoned s t c g) ∧
      (full = false → tags = false → inFlight s c.gid = false →
        (addrBad p al = true → ∃ t, exec i s = .next t ∧ Traps s t c g cAddr p) ∧
        (addrBad p al = false → (∀ b u, vRead s g.die g.core g.ctx g.ring (holdOf s g c.lanes) p n = (.ok (b, true), u) →
          ∃ t, exec i s = .next t ∧ Traps u t c g cPoison 0) ∧ body))
    let refused := fun (i : Instr) (u : State) => ∃ t, exec i s = .next t ∧ Traps u t c g cAddr p
    asks (.chain ch a) (decide (8 ≤ ((core s).chan ch.toNat).chains.length)) 128 128 (g.sPairT a)
      (∀ b u, ReadsAt s c g p 128 b u →
        (rOwn b = false → ∃ t, exec (.chain ch a) s = .next t ∧ Passes t c g ∧ t.ops = u.ops) ∧
        let takes := fun (l : List Byte) (v : State) =>
          EngineTakes s c g (.chain ch a) (.chain ch.toNat) p b l (rCnt b) (rInc b) (rCsys b) 0 (fun t => ((core t).chan ch.toNat).chains) ∧
          ∀ t, exec (.chain ch a) s = .next t →
            let x := { newOp v c g (.chain ch.toNat) p b (rCnt b) (rInc b) (rCsys b) 0 with extra := l }
            ∀ k ln, ln ∈ (FMap.getD t.blocks k {}).absent ↔ ln ∈ (FMap.getD v.blocks k {}).absent ∨
              (recBad v x b (wordsOf l) = false ∧ rDstSpad b = true ∧ ∃ n off len, n < rRows b ∧ 0 < len ∧
                rowSpad v x b n ((wordsOf l).getD n 0).toNat = some (k, off, len) ∧ off < 64 * ln + 64 ∧ 64 * ln < off + len)
        (rOwn b = true → (rEarly b = false ∨ listOk b = false ∨ rExt b 1 = 0) → takes [] u) ∧
        (rOwn b = true → rEarly b = true → listOk b = true → rExt b 1 ≠ 0 → ∀ l v,
          ReadsAt u c g (BitVec.ofNat 64 (rAux b)) (4 * rExt b 1) l v → takes l v)) ∧
    asks (.mcmd a) (decide (4 ≤ (core s).mq.length)) 64 64 (g.sPairT a)
      (∀ b u, ReadsAt s c g p 64 b u →
        let blk := FMap.getD u.blocks g.block {}
        let tile := blk.tiles.getD (mTile b) 0
        (mcmdBad b g.nregs blk.tiles.length = true → refused (.mcmd a) u) ∧
        (mcmdBad b g.nregs blk.tiles.length = false → csysRefused u g (bit (mFlags b) 2) (field b 32 8) = false →
          ((dbgWin u g.die g.ctx).prc = false ∨ scalesPending g b = false) →
          (scaleTag g b = none →
            EngineTakes s c g (.mcmd a) .mcmd p b [] (field b 32 8) (field b 40 4) (bit (mFlags b) 2) (field b 48 8) (fun t => (core t).mq) ∧
            ∀ t, exec (.mcmd a) s = .next t → (core t).tiles = (core s).tiles.modify tile (fun x => { x with busy := x.busy + 1 })) ∧
          (scaleTag g b ≠ none → ∃ t, exec (.mcmd a) s = .next t ∧ Poisoned u t c g))) ∧
    asks (.attn a) (!(g.sPairT a) && mauFull s c g p) 64 128 (g.sPairT a)
      (∀ b u, ReadsAt s c g p 128 b u →
        (attnBad u g.die b = true → refused (.attn a) u) ∧
        (attnBad u g.die b = false → csysRefused u g (bit (aFlags b) 1) (field b 72 8) = false →
          EngineTakes s c g (.attn a) .attn p b [] (field b 72 8) (field b 80 4) (bit (aFlags b) 1) (field b 88 8)
            (fun t => mauQueue (t.die (aDie b)) (aStack b)))) ∧
    asks (.unmask a) (decide (8 ≤ (s.die g.die).umx.length)) 64 128 (g.sPairT a)
      (∀ b u, ReadsAt s c g p 128 b u →
        let takes := fun (l : List Byte) (v : State) =>
          (unmaskBad b = true ∨ (layersOf l).any layerBad = true → refused (.unmask a) v) ∧
          (unmaskBad b = false → (layersOf l).any layerBad = false → csysRefused v g (bit (uFlags b) 1) (field b 64 8) = false →
            EngineTakes s c g (.unmask a) .unmask p b l (field b 64 8) (field b 72 4) (bit (uFlags b) 1) (field b 80 8) (fun t => (t.die g.die).umx))
        (uNlg b = 0 → takes [] u) ∧
        (uNlg b ≠ 0 → ∀ l v, ReadsAt u c g (BitVec.ofNat 64 (field b 48 8)) (32 * uNlg b) l v → takes l v)) ∧
    asks (.coll a) (decide (16 ≤ (s.die g.die).coll.length)) 64 64 (g.sPairT a)
      (∀ b u, ReadsAt s c g p 64 b u →
        (collBad b = true → refused (.coll a) u) ∧
        (collBad b = false → ∀ h v, ReadsAt u c g (BitVec.ofNat 64 (field b 8 8)) 64 h v →
          (tNm h = 0 ∨ 1024 < tNm h → refused (.coll a) v) ∧
          (1 ≤ tNm h → tNm h ≤ 1024 → ∀ m w, ReadsAt v c g (BitVec.ofNat 64 (field b 8 8)) (64 + 4 * tNm h) m w →
            let ill := teamBad m g.die = true ∨ (s.fit = .m ∧ tRemote m ≠ [])
            (ill → refused (.coll a) w) ∧
            (¬ ill → (tRemote m ≠ [] ∧ (w.die g.die).mpolicy.getLsbD 2 = false) →
              ∃ t, exec (.coll a) s = .next t ∧ Traps w t c g cProtect p) ∧
            (¬ ill → (tRemote m = [] ∨ (w.die g.die).mpolicy.getLsbD 2 = true) →
              csysRefused w g (bit (cFlags b) 0) (field b 32 8) = false →
              EngineTakes s c g (.coll a) .coll p b m (field b 32 8) (field b 40 4) (bit (cFlags b) 0) (field b 48 8) (fun t => (t.die g.die).coll))))) ∧
    asks (.ship a) (decide (16 ≤ (s.die g.die).helm.length)) 64 128 (g.sPairT a)
      (∀ b u, ReadsAt s c g p 128 b u →
        ((manifestBad b = true ∨ p.toNat % 128 ≠ 0) → refused (.ship a) u) ∧
        (manifestBad b = false → p.toNat % 128 = 0 → (u.die g.die).mpolicy.getLsbD 3 = false → ∃ t, exec (.ship a) s = .next t ∧ Traps u t c g cProtect p) ∧
        (manifestBad b = false → p.toNat % 128 = 0 → (u.die g.die).mpolicy.getLsbD 3 = true →
          EngineTakes s c g (.ship a) .ship p b [] (field b 32 8) (field b 28 4) false (field b 40 8) (fun t => (t.die g.die).helm))) ∧
    asks (.replay a e) (decide (16 ≤ (s.die g.die).lunit.length)) 64 64 (g.sPairT a || g.sPairT e)
      (∀ b u, ReadsAt s c g p 64 b u →
        (graphBad b = true → refused (.replay a e) u) ∧
        (graphBad b = false → ∀ l v, ReadsAt u c g (p + 64) (128 * gNnode b + 8 * gNpatch b) l v →
          (nodesBad b l = true → refused (.replay a e) v) ∧
          (nodesBad b l = false → ∀ q w, (if gPatchlen b = 0 then q = [] ∧ w = v else ReadsAt v c g (g.sPair e) (gPatchlen b) q w) →
            EngineTakes s c g (.replay a e) .replay p b q (field b 32 8) (field b 40 4) false 0 (fun t => (t.die g.die).lunit))))

/-- The forms of a context switch. At the user ring PROTECT, with a tagged operand POISON, with an operand or at a step that is not legal
ADDR. A stop of a running context stops it and its groups and waits for its units; with the units at rest and the frames spilled it writes the
header, with its version, state, counts, names and CSRs; the pieces of a part saved hold the registers, lanes, blocks, scratchpads, tiles and slips of its
record, and a part loaded makes them what the pieces hold; with every part saved the release leaves the context SAVED; a place whose header will do takes
cores; a resume lets the context run.
Rests on spec/18_preemption_and_save.md. -/
def Obligations.SwitchForms : Prop :=
  ∀ s c g (a b : BitVec 6) (k : BitVec 3), Issuing s c g → Guarded c g →
    let bad := fun (i : Instr) va => ∃ t, exec i s = .next t ∧ Traps s t c g cAddr va
    let passes := fun (i : Instr) (f : State → Prop) => ∃ t, exec i s = .next t ∧ Passes t c g ∧ f t
    (g.ring = 0 → ∀ i, (i = .ctxsvStop a b ∨ i = .ctxsvPart b k ∨ i = .ctxsvRelease ∨ i = .ctxldPlace a b ∨ i = .ctxldPart b k ∨ i = .ctxldResume) →
      ∃ t, exec i s = .next t ∧ Traps s t c g cProtect 0) ∧
    (g.ring ≠ 0 → g.st b = true → ∀ i, (i = .ctxsvStop a b ∨ i = .ctxsvPart b k ∨ i = .ctxldPlace a b ∨ i = .ctxldPart b k) →
      ∃ t, exec i s = .next t ∧ Poisoned s t c g) ∧
    (g.ring ≠ 0 → inFlight s c.gid = false →
      (g.st b = false → g.sPairT a = false →
        let va := g.sPair a
        (baseBad va.toNat 4096 = true → bad (.ctxsvStop a b) va ∧ bad (.ctxldPlace a b) va) ∧
        (baseBad va.toNat 4096 = false → formCtx s g (g.sv b) = none → bad (.ctxsvStop a b) 0 ∧ bad (.ctxldPlace a b) 0) ∧
        (baseBad va.toNat 4096 = false → ∀ n x, formCtx s g (g.sv b) = some (n, x) →
          let ctx := fun (t : State) => t.ctx g.die n
          (x.sw = .run → x.switch = none →
            (∃ t h, exec (.ctxsvStop a b) s = .next t ∧ t.mem = s.mem ∧ FMap.get? t.groups c.gid = some h ∧ regs h = regs g ∧ h.lanes = g.lanes ∧
              h.wait = (if (unitsOf s g.die n).isEmpty then .run else .ctxForm) ∧ (ctx t).sw = .stopped ∧
              (ctx t).switch = some { owner := some c.gid, engine := false, image := va, units := unitsOf s g.die n } ∧
              ∀ j ∈ groupsOf s g.die n, ∀ y, FMap.get? t.groups j = some y → y.holds.switch = true) ∧
            bad (.ctxldPlace a b) 0) ∧
          (∀ w, x.sw = .saved → x.switch = some w →
            passes (.ctxsvStop a b) (fun t => (ctx t).sw = .saved ∧ (ctx t).switch = some { w with owner := some c.gid, engine := false }) ∧
            (w.owner ≠ some c.gid → bad (.ctxldPlace a b) 0) ∧
            (w.owner = some c.gid → ∀ ps u, getPieces (groupRd s c g) s va [(0, 4096)] [] false = (.ok (ps, false), u) →
              (headerOk g.die n (pick ps 0 4096) = false → ∃ t, exec (.ctxldPlace a b) s = .next t ∧ Traps u t c g cAddr va) ∧
              (headerOk g.die n (pick ps 0 4096) = true → ∀ es v,
                getPieces (groupRd u c g) u va [(4096, 256 * w.engs.length)] [] false = (.ok (es, false), v) →
                (engsOk v w.engs (pick es 4096 (256 * w.engs.length)) = false → ∃ t, exec (.ctxldPlace a b) s = .next t ∧ Traps v t c g cAddr va) ∧
                (engsOk v w.engs (pick es 4096 (256 * w.engs.length)) = true → findCores v g.die (w.recs.map (·.core)) = none → ∃ t, exec (.ctxldPlace a b) s = .next t ∧ Waits v t c g .ctxForm) ∧
                (engsOk v w.engs (pick es 4096 (256 * w.engs.length)) = true → ∀ cores, findCores v g.die (w.recs.map (·.core)) = some cores →
                  passes (.ctxldPlace a b) (fun t => t.mem = v.mem ∧ (ctx t).sw = .placed ∧ (ctx t).switch =
                    some { w with image := va, parts := [], recs := (w.recs.zip cores).map (fun e => { e.1 with target := some e.2 }) }))))) ∧
          (∀ w, x.sw = .stopped → x.switch = some w →
            bad (.ctxldPlace a b) 0 ∧
            ((w.owner ≠ some c.gid ∨ w.headerOwed = false) → bad (.ctxsvStop a b) 0) ∧
            (w.owner = some c.gid → w.headerOwed = true → w.units ≠ [] → ∃ t, exec (.ctxsvStop a b) s = .next t ∧ Waits s t c g .ctxForm) ∧
            (w.owner = some c.gid → w.headerOwed = true → w.units = [] → ∀ u v, spillAll s g.die n (s.frames.map (·.1)) = (true, u) →
              let y : Switch := { w.filled u g.die n with image := va }
              putPieces (groupWr u c g) u va (y.front u g.die n) = (.ok (), v) →
              let f := pick (y.front u g.die n) 0 4096
              passes (.ctxsvStop a b) (fun t => t.mem = v.mem ∧ (ctx t).sw = .stopped ∧ (ctx t).switch = some { y with headerOwed := false }) ∧
              field f 0 1 = 1 ∧ field f 1 1 = (if y.recs = [] then 1 else 0) ∧ field f 2 2 = y.recs.length % 2 ^ 16 ∧ field f 4 2 = y.engs.length % 2 ^ 16 ∧
              field f 6 1 = g.die % 256 ∧ field f 7 1 = n % 256 ∧
              ∀ i e, imageCsrs[i]? = some e → field f (0x10 + 8 * i) 8 = (csrRead u { die := g.die, ctx := n } e).toNat)) ∧
          (x.sw = .placed → bad (.ctxsvStop a b) 0 ∧ bad (.ctxldPlace a b) 0))) ∧
      (ownedCtx s c g = none → bad .ctxsvRelease 0 ∧ bad .ctxldResume 0 ∧ (g.st b = false → bad (.ctxsvPart b k) 0 ∧ bad (.ctxldPart b k) 0)) ∧
      (∀ n x w, ownedCtx s c g = some (n, x, w) →
        let i := (g.sv b).toNat
        let ctx := fun (t : State) => t.ctx g.die n
        let done := if w.parts.contains (i, k.toNat) then w.parts else w.parts ++ [(i, k.toNat)]
        (g.st b = false → w.recs.length ≤ i → bad (.ctxsvPart b k) 0 ∧ bad (.ctxldPart b k) 0) ∧
        (g.st b = false → (x.sw ≠ .stopped ∨ w.headerOwed = true) → bad (.ctxsvPart b k) 0) ∧
        (g.st b = false → x.sw ≠ .placed → bad (.ctxldPart b k) 0) ∧
        (g.st b = false → ∀ r, w.recs[i]? = some r →
          (x.sw = .stopped → w.headerOwed = false → ∀ u v, putPieces (groupWr s c g) s (w.recAt s i) (r.part s k.toNat) = (.ok (), u) →
            (if ({ w with parts := done } : Switch).complete then putPieces (groupWr u c g) u (w.image + 1) [(0, [1])] = (.ok (), v) else v = u) →
            passes (.ctxsvPart b k) (fun t => t.mem = v.mem ∧ (ctx t).sw = .stopped ∧ (ctx t).switch = some { w with parts := done }) ∧
            (r.slipA.bytes.length ≤ 65536 → r.slipB.bytes.length ≤ 65536 →
              PartIn s s r r.slipA r.slipB (fun n => (r.tiles.getD n (0, {})).2) k.toNat (r.part s k.toNat))) ∧
          (x.sw = .placed → c.gid ∉ r.groups → CoreRec.Sound r s g.die → ∀ ps u v, getPieces (groupRd s c g) s (w.recAt s i) (r.spans s k.toNat) [] false = (.ok (ps, false), u) →
            loadPart u g.die r k.toNat ps = some v →
            passes (.ctxldPart b k) (fun t => t.mem = u.mem ∧ (ctx t).sw = .placed ∧ (ctx t).switch = some { w with parts := done } ∧
              PartAt s t g.die r k.toNat ps))) ∧
        ((x.sw ≠ .stopped ∨ w.headerOwed = true ∨ w.complete = false) → bad .ctxsvRelease 0) ∧
        (x.sw = .stopped → w.headerOwed = false → w.complete = true → passes .ctxsvRelease (fun t => (ctx t).sw = .saved)) ∧
        (((x.sw = .stopped ∧ w.units = []) ∨ (x.sw = .placed ∧ w.complete = true)) → passes .ctxldResume (fun t => (ctx t).sw = .run ∧ (ctx t).switch = none)) ∧
        ((x.sw = .saved ∨ x.sw = .run ∨ (x.sw = .stopped ∧ w.units ≠ []) ∨ (x.sw = .placed ∧ w.complete = false)) → bad .ctxldResume 0)))

/-! ## Events of memory (spec/11-spec/14) -/

/-- An access whose turn has come, at the die's own memory, with nothing in its way. A load makes its outstanding result the bytes there, tagged if the
line is poisoned; a store changes its own bytes and no other; an atomic gives the old value and leaves the new one. A result written back sets
its registers, and makes lanes ready whose access was executed again; one that faulted parks nothing before the wait that covers it; a rejected
store parks its lanes where they are.
Rests on spec/06_memory_and_atomic_instructions.md, spec/08_groups_and_issue.md, spec/09_core_memory.md. -/
def Obligations.AccessesPerformed : Prop :=
  (∀ s k a g, AtItsHome s k a g → NoFailures s →
    (∀ n form, s.model.ev = some (.homeSliceAccess k) → a.kind = .load n form → ∃ t, exec .homeSliceAccess s = .next t ∧ SameBytes s t ∧
      Answered s t a (loadRegs form (homeBytes s a.die a.pa n) (poisonedLine s a.die a.pa))) ∧
    (∀ bs, s.model.ev = some (.homeSliceAccess k) → a.kind = .store bs → ∃ t, exec .homeSliceAccess s = .next t ∧ Stored s t a.pa bs ∧
      Answered s t a []) ∧
    (∀ op wide x y ret sub, s.model.ev = some (.homeSliceAtomic k) → a.kind = .atomic op wide x y ret false sub → batchOf s a = [a] →
      poisonedLine s a.die a.pa = false →
      let old := BitVec.ofNat 64 (ofBytes (homeBytes s a.die a.pa (atomSize wide)))
      ∃ t, exec .homeSliceAtomic s = .next t ∧ Answered s t a (atomRegs wide old) ∧
        Stored s t a.pa (if op = .read then [] else leBytes (atomSize wide) (atomNew op wide old x y).toNat))) ∧
  (∀ s gid k g p, FMap.get? s.groups gid = some g → g.pend[k]? = some p → g.wait ≠ .awaitPlace → s.model.ev = some (.varResultWriteback gid k) →
    (∀ vals, p.st = .ready vals →
      let ws := (p.dsts.zip vals).filterMap (fun e => e.1.map (fun d => (d, e.2)))
      let rest := (g.pend.take k).map (fun q => q.drop (ws.map (·.1))) ++ g.pend.drop (k + 1)
      ∃ t h, exec .varResultWriteback s = .next t ∧ t.mem = s.mem ∧ FMap.get? t.groups gid = some h ∧ regs h = regs (g.setAll ws) ∧
        (g.wait ≠ .smark → g.holds.line = false → h.pend = rest ∧ ∀ l, l < 32 → l < g.lanes.length → p.wake = true → p.parks.getLsbD l = true →
          (g.lane l).st = .parked → (g.lane l).redo = [] → (∀ q ∈ rest, q.wake = true → q.parks.getLsbD l = false) →
          (∀ e ∈ s.traps, e.2.lanes.getLsbD l = true → ∀ m, e.2.party ≠ .lanes gid m) → (h.lane l).st = .ready)) ∧
    (∀ r, p.st = .bad r → p.wake = false →
      ∃ t h, exec .varResultWriteback s = .next t ∧ t.mem = s.mem ∧ FMap.get? t.groups gid = some h ∧ regs h = regs g ∧
        (g.wait ≠ .smark → g.holds.line = false → h.lanes = g.lanes ∧ h.pend = g.pend.set k { p with st := .failed r }))) ∧
  (∀ s gid k g r mask, FMap.get? s.groups gid = some g → g.rejects[k]? = some (r, mask) → g.wait ≠ .awaitPlace → s.model.ev = some (.storeRejection gid k) →
    ∃ t h, exec .storeRejection s = .next t ∧ t.mem = s.mem ∧ FMap.get? t.groups gid = some h ∧ regs h = regs g ∧ h.pend = g.pend ∧
      h.rejects = g.rejects.take k ++ g.rejects.drop (k + 1) ∧
      ∀ l, l < 32 → l < g.lanes.length → (h.lane l).pc = (g.lane l).pc ∧ (mask.getLsbD l = true → (g.lane l).live = true →
        (h.lane l).st = .parked ∧ ((g.lane l).st ≠ .parked → (h.lane l).fault.cause = r.cause ∧ (h.lane l).fault.addr = r.addr)))

/-- A notice that no earlier notice of another owner of its object holds up has its die record the new owner; a claim leaves the object CLEAN on every die and
ends its notices that travel; in either case what the other owners held dirty of the object is clean there and its bytes are at their home. An error
that has come over a line or over a page's counters is found when the line is next fetched: the line is poisoned, or every line of the page that
is not fresh; a home slice's fetch or write-back through its bridge changes no byte as the home holds it. Up to three flit failures are sent
again; the fourth, which the next request of its kind for the line meets, completes a read with poisoned data, or drops a write and poisons its line, is logged,
and the second of a link raises REPLACE. A row begins to fail. An access to a berth that is neither ACTIVE nor DRAINING, with no copy of the line to serve it, is refused with BERTH_REVOKED, and a
C-bit load of one that is, its station enabled and its metadata whole, reads the lender's bytes.
Where the fourth failure is met, and that the second of a link is what raises REPLACE, are the model's reading (log entry 23); that owners of an object are taken in one
order is its choice (log entry 79), as what a disabled station refuses is (log entry 81).
Rests on spec/10_visibility_graph.md, spec/16_memory_system_and_fittings.md. -/
def Obligations.OwnershipAndLinks : Prop :=
  let named := fun (s : State) (die key : Nat) (e : ObjEnt) (d : Nat) =>
    d ∈ vfDies s die ∧ (e.pull = true ∨ ∃ k ∈ vfDies s die, ∃ o, FMap.get? (s.die k).dm.objs key = some o ∧ o.owner = some d)
  let cleaned := fun (s t : State) (e : ObjEnt) (d : Nat) => (∀ x ∈ (t.die d).dm.l2, objHolds s d e x = true → x.dirty = []) ∧
    (CopiesLocal s → ∀ x, LoneDirty s d x → objHolds s d e x = true → HomeHas t x)
  (∀ s k n e, s.model.ev = some (.ownershipNotice k) → s.pkg.notices[k]? = some n → FMap.get? (s.die n.dst).dm.objs (objKey n.ctx n.obj) = some e →
    noticeWaits s k n = false → ∃ t, exec .ownershipNotice s = .next t ∧ t.flight = s.flight ∧
      t.pkg.notices = s.pkg.notices.take k ++ s.pkg.notices.drop (k + 1) ∧
      FMap.get? (t.die n.dst).dm.objs (objKey n.ctx n.obj) = some { e with owner := some n.owner, pull := false } ∧
      ((e.pull = true ∨ ∃ o, e.owner = some o ∧ o ≠ n.owner) → ∀ d, d ≠ n.owner → named s n.dst (objKey n.ctx n.obj) e d → cleaned s t e d)) ∧
  (∀ s die ctx obj e, s.model.ev = some (.ownershipClaim die ctx obj) →
    let key := objKey (objCtx s die ctx) obj
    FMap.get? (s.die die).dm.objs key = some e → (e.pull = true ∨ ∃ o, e.owner = some o ∧ o ≠ die) →
    ∃ t, exec .ownershipClaim s = .next t ∧ t.flight = s.flight ∧ (∀ d, named s die key e d → cleaned s t e d) ∧
      t.pkg.notices = s.pkg.notices.filter (fun n => objKey n.ctx n.obj != key) ∧
      ∀ d ∈ vfDies s die, FMap.get? (t.die d).dm.objs key =
        (FMap.get? (s.die d).dm.objs key).map (fun o => { o with owner := none, pull := false })) ∧
  (∀ s pa op die b off, s.model.ev = some (.bridgeAccess pa op) → regionOf s.fit pa = .package die b off → pa < 2 ^ 52 →
    let line := lineOf pa
    let lineAt := fun (i : Nat) => pa / 4096 * 4096 + 128 * i
    (op = .sectorFail → freshLine s pa = false → ∃ t, exec .bridgeAccess s = .next t ∧ SameBytes s t ∧ line ∈ t.mem.damaged) ∧
    (op = .counterFail → ∃ t, exec .bridgeAccess s = .next t ∧ SameBytes s t ∧ pa / 4096 ∈ t.mem.badPages ∧
      (t.br die).hasCounters b (pa / 4096) = false) ∧
    (op = .repair → ∃ t, exec .bridgeAccess s = .next t ∧ t.mem = s.mem ∧
      (t.die die).mg.repairs = ((s.die die).cycle :: (s.die die).mg.repairs).take 1001) ∧
    (∀ row, op = .rowFail row → ∃ t, exec .bridgeAccess s = .next t ∧ t.mem = s.mem ∧ t.groups = s.groups ∧
      (t.die die).mg = { (s.die die).mg with failingRows := (s.die die).mg.failingRows.filter (· != (b, row)) ++ [(b, row)] }) ∧
    (op = .fill → HasWay s die pa → s.mem.linkFails = [] → ∃ t, exec .bridgeAccess s = .next t ∧ SameBytes s t ∧ t.groups = s.groups ∧
      (NoFailures s → t.mem.poison = s.mem.poison) ∧
      (ownFind (s.die die) line = none → (s.br die).mscSectors b line = 0 →
        (line ∈ s.mem.damaged → freshLine s pa = false → poisonedLine t die pa = true) ∧
        (pa / 4096 ∈ s.mem.badPages → (s.br die).hasCounters b (pa / 4096) = false →
          ∀ i, i < 32 → freshLine s (lineAt i) = false → poisonedLine t die (lineAt i) = true))) ∧
    (∀ x, op = .writeBack → ownFind (s.die die) line = some x → x.dirty ≠ [] → ∃ t, exec .bridgeAccess s = .next t ∧ t.groups = s.groups ∧
      (∀ y, ownFind (t.die die) line = some y → y.dirty = []) ∧
      ((line, true) ∉ s.mem.linkFails → SameBytes s t) ∧
      ((line, true) ∈ s.mem.linkFails → t.mem.bytes = memPut s.mem.bytes (line * 128) x.bytes ∧ poisonedLine t die pa = true ∧
        (t.die die).mg.linkErrs = (s.die die).mg.linkErrs.modify b (· + 1) ∧ LogEnt.link die b ∈ t.pkg.log ∧
        (1 ≤ (s.die die).mg.linkErrs.getD b 0 → (t.die die).mg.replace = true)))) ∧
  (∀ s pa wr count die b off, s.model.ev = some (.linkFlitFailure pa wr count) → regionOf s.fit pa = .package die b off →
    (1 ≤ count → count ≤ 3 → ∃ t, exec .linkFlitFailure s = .next t ∧ t.mem = s.mem ∧ t.groups = s.groups ∧ t.flight = s.flight) ∧
    (count = 4 → ∃ t, exec .linkFlitFailure s = .next t ∧ SameBytes s t ∧ t.groups = s.groups ∧ t.flight = s.flight ∧
      (lineOf pa, wr) ∈ t.mem.linkFails)) ∧
  (∀ s k a g n form, AtItsHome s k a g → s.mem.damaged = [] → s.mem.badPages = [] → (lineOf a.pa, false) ∈ s.mem.linkFails →
    ownFind (s.die a.die) (lineOf a.pa) = none → 0 < a.span.2 → s.model.ev = some (.homeSliceAccess k) → a.kind = .load n form →
    ∃ t, exec .homeSliceAccess s = .next t ∧ SameBytes s t ∧ Answered s t a (loadRegs form (homeBytes s a.die a.pa n) true)) ∧
  (∀ s k a g i off n form id, s.model.ev = some (.berthAccess k) → s.flight[k]? = some a → firstOfGroup s k a = true →
    regionOf s.fit a.pa = .berth i off → a.kind = .load n form → a.pend = some id → FMap.get? s.groups a.gid = some g → g.wait ≠ .awaitPlace →
    s.gen a.asid = a.gen → a.child = [] → copyFind s a.die (lineOf a.pa) = none →
    (berthState s a.die i ≠ 1 → berthState s a.die i ≠ 2 → a.byHelper g = false →
      ∃ t h, exec .berthAccess s = .next t ∧ t.mem = s.mem ∧ a ∉ t.flight ∧ FMap.get? t.groups a.gid = some h ∧ regs h = regs g ∧
        h.pend = g.pend.map (fun p => if p.id = id then { p with st := .bad (a.record cBerth false) } else p)) ∧
    (placeErr s a.die a.pa = none → metaBad s a.die i a.pa = false → a.cbit = true → objOf s a.die a.ctx (a.va.toNat / 128) = none → NoDirtyCopy s a.pa →
      a.span.1 < 128 → NoFailures s → ∃ t, exec .berthAccess s = .next t ∧ t.mem = s.mem ∧
        Answered s t a (loadRegs form (homeBytes s a.die a.pa n) (poisonedLine s a.die a.pa))))

/-! ## Events of groups and children (spec/09, spec/10) -/

/-- The aging exchange brings a group into its quarter's active set for the one that has been there longest; a back-off
that is over lets its group go on; a load limit follows its window. A held strand pack, group child or block child is placed with its
arguments in its registers, its entry in its lanes, and its children placed. A frame whose children have ended closes and its group goes on past
its AWAIT, in place or from its continuation slot on the core that is its turn; one whose merge is refused has its AWAIT issued again.
Rests on spec/05_uniform_and_control.md, spec/06_memory_and_atomic_instructions.md, spec/08_groups_and_issue.md, spec/10_visibility_graph.md. -/
def Obligations.GroupsComeForward : Prop :=
  (∀ s gid g k x, s.model.ev = some (.pendingAgingExchange gid) → FMap.get? s.groups gid = some g → g.active = false → g.couldIssue = true →
    let now := (s.die g.die).cycle
    let act := (quarterGroups s g.die g.core g.quarter).filter (fun e => e.2.active)
    act.find? (fun e => act.all (fun f => decide (e.2.entered ≤ f.2.entered))) = some (k, x) → k ≠ gid →
    g.readySince + 1024 ≤ now → (s.core g.die g.core).swap.getD g.quarter 0 + 64 ≤ now →
    ∃ t h, exec .pendingAgingExchange s = .next t ∧ t.mem = s.mem ∧ FMap.get? t.groups gid = some h ∧ regs h = regs g ∧ h.active = true ∧ h.entered = now ∧
      ∀ y, FMap.get? t.groups k = some y → y.active = false ∧ y.readySince = now) ∧
  (∀ s gid g n sm, s.model.ev = some (.ldyBackoffExpiry gid) → FMap.get? s.groups gid = some g → g.wait = .ldy n sm → n ≤ (s.die g.die).cycle →
    ∃ t h, exec .ldyBackoffExpiry s = .next t ∧ t.mem = s.mem ∧ FMap.get? t.groups gid = some h ∧ regs h = regs g ∧
      (sm = false → h.wait = .run) ∧ (sm = true → settled g = false → h.wait = .smark)) ∧
  (∀ s die core, s.model.ev = some (.loadLimitWindow die core) → core < 192 → die < s.fit.dies → (s.core die core).window + 1024 ≤ (s.die die).cycle →
    let c := s.core die core
    ∃ t, exec .loadLimitWindow s = .next t ∧ t.mem = s.mem ∧ t.groups = s.groups ∧
      t.core die core = { c with lambda := c.lambda.map (nextLimit c), lostHits := 0, misses := 0, window := (s.die die).cycle }) ∧
  (∀ s cids core cid c rest, s.model.ev = some (.childPlace cids core) → cids = cid :: rest → cids.Nodup → FMap.get? s.children cid = some c →
    mayPlace s c.die c.ctx = true → (∀ i ∈ cids, ∃ y, FMap.get? s.children i = some y ∧ y.st = .held) →
    let cs := cids.filterMap (fun i => (FMap.get? s.children i).map (fun y => (i, y)))
    let placed := fun (t : State) => t.mem = s.mem ∧ ∀ i ∈ cids, ∀ y, FMap.get? t.children i = some y → y.st = .placed
    let pack := namesWhere s.children (fun _ y => y.kind == .strand && y.st == .held && y.launch == c.launch && y.record == c.record)
    (c.kind = .strand → groupRoom s c.die core 0 c.ctx c.kernel = true → (strandQuads cs).length ≤ 8 → (∀ i ∈ cids, i ∈ pack) →
      pack.length = cids.length →
      ∃ t gid h, exec .childPlace s = .next t ∧ placed t ∧ FMap.get? t.groups gid = some h ∧ h.die = c.die ∧ h.core = core ∧ h.ctx = c.ctx ∧ h.kind = .strand ∧
        h.lanes = strandLanes c.entry (strandQuads cs) ∧ h.v = strandRegs (strandQuads cs)) ∧
    (c.kind = .group → rest = [] → groupRoom s c.die core 0 c.ctx c.kernel = true →
      ∃ t gid h, exec .childPlace s = .next t ∧ placed t ∧ FMap.get? t.groups gid = some h ∧ h.die = c.die ∧ h.core = core ∧ h.ctx = c.ctx ∧ h.kind = .child ∧
        h.child = some cid ∧ h.readS 0 = c.arg0 ∧ h.readS 1 = c.arg1 ∧
        ∀ l, l < 32 → (h.lane l).st = .ready ∧ (h.lane l).pc = c.entry ∧ (h.lane l).strand = BitVec.ofNat 32 c.index) ∧
    (c.kind = .block → rest = [] → ∀ l, headLaunch s c.die = some (c.launch, l) → l.owes c.die = false → restoreFirst s c.die l.prio = false →
      (heldBlocks s c.die c.launch).head? = some cid → coreRoom s c.die core c.ctx c.kernel = true →
      ∃ t bid b, exec .childPlace s = .next t ∧ placed t ∧ FMap.get? t.blocks bid = some b ∧ b.die = c.die ∧ b.core = core ∧ b.child = some cid ∧
        b.groups.length = c.kernel.groups ∧ ∀ gid ∈ b.groups, ∃ h, FMap.get? t.groups gid = some h ∧ h.block = bid ∧ h.core = core ∧
          h.readS 0 = c.arg0 ∧ h.readS 1 = c.arg1 ∧ ∀ j, j < 32 → (h.lane j).st = .ready ∧ (h.lane j).pc = c.entry)) ∧
  (∀ s gid core g fid fs u y, s.model.ev = some (.continuationResume gid core) → FMap.get? s.groups gid = some g → g.frames = fid :: fs →
    (FMap.getD s.frames fid {}).count = 0 → mayPlace s g.die g.ctx = true → g.holds.trap = none → (g.wait = .await ∨ g.wait = .awaitPlace) →
    unitHeld s g.die g.ctx (.slot gid) = false → closeFrame s gid g fid = .done u → FMap.get? u.groups gid = some y →
    let f := FMap.getD s.frames fid {}
    let past := fun (y h : Group) => regs h = regs y ∧ h.wait = .run ∧ ∀ l, l < 32 → l < y.lanes.length → (h.lane l).pc =
      if y.mask.getLsbD l = true ∧ (y.lane l).pc = f.cont - 4 ∧ (y.lane l).st = .ready then f.cont else (y.lane l).pc
    (g.loc = .resident → ∃ t h, exec .continuationResume s = .next t ∧ t.mem = u.mem ∧ FMap.get? t.groups gid = some h ∧ past y h ∧
      h.b = if y.b = f.cont - 4 then f.cont else y.b) ∧
    (∀ k b p v z, g.loc = .cont k → contCore s g f = some core →
      unitRead u g.die g.ctx k (glen g.nregs g.ndeep) = (.ok (b, p), v) → loadGroup (FMap.getD v.groups gid g) b = some z → (∀ x ∈ z.lanes, x.redo = []) →
      ∃ t h, exec .continuationResume s = .next t ∧ FMap.get? t.groups gid = some h ∧ past z h ∧ h.b = f.cont ∧ h.loc = .resident ∧ h.core = core)) ∧
  (∀ s gid core g fid fs cause va u y, s.model.ev = some (.continuationResume gid core) → FMap.get? s.groups gid = some g → g.frames = fid :: fs →
    (FMap.getD s.frames fid {}).count = 0 → mayPlace s g.die g.ctx = true → g.holds.trap = none → g.wait = .awaitPlace → g.loc = .resident →
    unitHeld s g.die g.ctx (.slot gid) = false → closeFrame s gid g fid = .refused cause va u → FMap.get? u.groups gid = some y →
    ∃ t h, exec .continuationResume s = .next t ∧ t.mem = u.mem ∧ FMap.get? t.groups gid = some h ∧ regs h = regs y ∧ h.wait = .run ∧ h.lanes = y.lanes)

/-! ## Events of the matrix and barge engines (spec/07, spec/16) -/

/-- The command at the head of a core's queue starts, emptying its tile under ZERO. A K-block whose operands are in the slips is drained into staging
with the poison of what it drained, its scales taken; then it is formed from what is staged and applied to the tile as a whole, and the last one
ends the command with its progress and its tile's exponent.
Rests on spec/07_engine_commands.md, spec/11_matrix_attention_unmasking.md. -/
def Obligations.MatrixEngineWorks : Prop :=
  ∀ s die core o x, matrixAt s die core = some (o, x) → opFrozen s x = false → x.die = die → x.core = core →
    let c := s.core die core
    let p := x.params
    (s.model.ev = some (.mcmdStart die core) → x.st = .queued → ∃ t, exec .mcmdStart s = .next t ∧ t.mem = s.mem ∧ t.groups = s.groups ∧
      FMap.get? t.ops o = some { x with st := .running } ∧ (t.core die core).tiles =
        if mZero p then c.tiles.modify x.tile (fun w => { w with elems := [], exp := 0 }) else c.tiles) ∧
    (s.model.ev = some (.kblockApply die core) → x.st = .running → x.flags.getLsbD 4 = false → x.staged = none →
      let na := mM p * rowBytes (mFmtA p)
      let nb := mN p * rowBytes (mFmtB p)
      let raw := c.slipA.bytes.take na ++ c.slipB.bytes.take nb
      let pois := c.slipA.drainsPoison na || c.slipB.drainsPoison nb
      na ≤ c.slipA.bytes.length → nb ≤ c.slipB.bytes.length →
      ∃ t y, exec .kblockApply s = .next t ∧ (t.core die core).slipA = c.slipA.drain na ∧ (t.core die core).slipB = c.slipB.drain nb ∧
        FMap.get? t.ops o = some y ∧ y.staged = some raw ∧ y.kb = x.kb ∧
        (scalesHere x = true → t.mem = s.mem ∧ t.groups = s.groups ∧ y = { x with staged := some raw, flags := if pois then x.flags ||| 8#32 else x.flags } ∧
          (t.core die core).tiles = if pois then c.tiles.modify x.tile (fun w => { w with poison := true }) else c.tiles) ∧
        (scalesHere x = false → ∃ u, u.mem = s.mem ∧ u.dies = s.dies ∧ u.ctxs = s.ctxs ∧ ∀ ws bad v,
          memScales u { x with staged := some raw } x.kb (List.range (mM p + 1)) [] false = (.ok (ws, bad), v) →
          t.mem = v.mem ∧ y.scales = (List.range (mM p)).map (fun i => (stripKey x.kb i, ws.getD i 0)) ++ [(squareKey x.kb, ws.getD (mM p) 0)] ∧
            (bad = true → y.flags.getLsbD 3 = true))) ∧
    (∀ raw, s.model.ev = some (.kblockApply die core) → x.st = .running → x.flags.getLsbD 4 = false → x.staged = some raw → scalesHere x = true →
      x.recAddr = 0 →
      let f := formKblock p x.kb raw (fun i => FMap.getD x.scales (stripKey x.kb i) 0) (FMap.getD x.scales (squareKey x.kb) 0)
      ∃ t y, exec .kblockApply s = .next t ∧ t.mem = s.mem ∧ t.groups = s.groups ∧
        (t.core die core).tiles = c.tiles.modify x.tile (fun w => applyKblock w f.1) ∧
        (t.core die core).slipA = c.slipA ∧ (t.core die core).slipB = c.slipB ∧
        FMap.get? t.ops o = some y ∧ y.staged = none ∧ y.kb = x.kb + 1 ∧ y.progress = x.kb + 1 ∧
        y.flags.getLsbD 2 = (x.flags.getLsbD 2 || f.2) ∧ y.flags.getLsbD 3 = x.flags.getLsbD 3 ∧
        (if mKb p ≤ x.kb + 1 then y.st = .adding ∧ y.flags.getLsbD 0 = true ∧ y.detail = BitVec.ofInt 64 ((t.core die core).tiles.getD x.tile {}).exp
          else y.st = .running))

/-- Accumulator tiles. A K-block is applied to a whole tile: an empty one takes its exponent from the leading place of the largest contribution; the
mantissas and the contributions are each rounded once to the nearest whole number, under the least shift that keeps every element below 2^47, and
added. A contribution is the exact sum of the products of a row's and a column's elements, times both scales for E2M1X, rounded once to 38 bits for the
floating-point formats; zero where a scale is zero or bad, or TRI leaves the element out. An element is read out rounded once, a zero as +0; a value
written in replaces the element, and enters as a K-block of its own. A mantissa of −2^47, which an edited image can give, is taken (log entry 21).
Rests on spec/03_number_formats.md. -/
def Obligations.TileArithmetic : Prop :=
  let mant := fun (t : Tile) (i : Nat) => FMap.getD t.elems i 0
  let part := fun (cs : FMap Contrib) (i : Nat) => worth (FMap.getD cs i ⟨0, 0⟩)
  let fits := fun (t : Tile) (e : Int) (cs : FMap Contrib) (k : Nat) (i : Nat) (n : Int) => ∃ a b : Int, IsRint a (mant t i / (2 : ℚ) ^ k) ∧
    IsRint b (part cs i / (2 : ℚ) ^ (e + k)) ∧ n = a + b
  (∀ (t : Tile) (cs : FMap Contrib), FMap.sorted t.elems = true → FMap.sorted cs = true → (∀ e ∈ t.elems, e.2 ≠ 0 ∧ e.2.natAbs ≤ 2 ^ 47) →
    (∀ e ∈ cs, -10000 ≤ e.2.ce) →
    let u := applyKblock t cs
    ((∀ i, mant t i = 0) → (∀ i, part cs i = 0) → u = t) ∧
    ((∃ i, mant t i ≠ 0 ∨ part cs i ≠ 0) → u.poison = t.poison ∧ u.owner = t.owner ∧ ∃ (e : Int) (k : Nat), u.exp = e + k ∧
      ((∃ i, mant t i ≠ 0) → e = t.exp) ∧
      ((∀ i, mant t i = 0) → (∃ i, LeadAt (e + 45) (part cs i)) ∧ ∀ i n, LeadAt n (part cs i) → n ≤ e + 45) ∧
      (∀ i, (mant u i).natAbs < 2 ^ 47 ∧ fits t e cs k i (mant u i)) ∧
      ∀ j, j < k → ∃ i n, fits t e cs j i n ∧ 2 ^ 47 ≤ n.natAbs)) ∧
  (∀ (p : List Byte) (b : Nat) (raw : List Byte) strip square, mPairOk (mFmtA p) (mFmtB p) = true → mM p ≤ 128 → mN p ≤ 128 →
    raw.length = rowBytes (mFmtA p) * mM p + rowBytes (mFmtB p) * mN p →
    let f := formKblock p b raw strip square
    let row := fun (i k : Nat) => elemAt (mFmtA p) raw (rowBytes (mFmtA p) * i) (scaleX (strip i)) k
    let col := fun (j k : Nat) => elemAt (mFmtB p) raw (rowBytes (mFmtA p) * mM p + rowBytes (mFmtB p) * j) (scaleX square) k
    (f.2 = true ↔ ∃ k, k < kSteps p b ∧ ((∃ i, i < mM p ∧ row i k = none) ∨ ∃ j, j < mN p ∧ col j k = none)) ∧
    ∀ i j, i < mM p → j < mN p →
      let c := FMap.getD f.1 (128 * i + j) ⟨0, 0⟩
      let x := ((List.range (kSteps p b)).map (fun k => (row i k).getD 0 * (col j k).getD 0)).sum
      let bad := fun (w : Word) => scaleE w = 0 ∨ scaleE w = 255
      (triKeeps p i j = false → c.sig = 0) ∧
      (triKeeps p i j = true →
        (mFmtA p = 0 → bad (strip i) ∨ bad square → c.sig = 0) ∧
        (mFmtA p = 0 → ¬ bad (strip i) → ¬ bad square → (c.sig : ℚ) = x * (256 + scaleM (strip i)) * (256 + scaleM square) ∧
          c.ce = scaleE (strip i) + scaleE square - 274) ∧
        (mFmtA p = 3 ∨ mFmtA p = 4 → (c.sig : ℚ) = x ∧ c.ce = 0) ∧
        (mFmtA p ≠ 0 → mFmtA p ≠ 3 → mFmtA p ≠ 4 → (x = 0 → c.sig = 0) ∧
          (x ≠ 0 → ∃ (n m : Int), LeadAt (n + 37) x ∧ IsRint m (x / (2 : ℚ) ^ n) ∧
            c = if m.natAbs < 2 ^ 38 then ⟨m, n⟩ else ⟨m / 2, n + 1⟩)))) ∧
  (∀ (t : Tile) (i n : Nat) (mode : Rnd) f, [fp32, bf16, fp16, e4m3][n]? = some f →
    accTo t i n mode = if mant t i = 0 then 0 else BitVec.ofNat 32 (f.round mode (.fin (decide (mant t i < 0)) (mant t i).natAbs t.exp))) ∧
  (∀ (t : Tile) (i : Nat) (v : Word), FMap.sorted t.elems = true → (∀ e ∈ t.elems, e.2 ≠ 0 ∧ e.2.natAbs ≤ 2 ^ 47) →
    let o : Tile := { t with elems := FMap.erase t.elems i }
    let u := accFrom t i v
    (∀ j, j ≠ i → mant o j = mant t j) ∧ mant o i = 0 ∧
    ((∀ n m e, fv32 v ≠ .fin n m e) → u = o) ∧
    (∀ n m e, fv32 v = .fin n m e → u = applyKblock o [(i, ⟨if n then -(m : Int) else m, e⟩)] ∧
      ((∀ j, j ≠ i → mant t j = 0) →
        (m = 0 → u = o) ∧ (m ≠ 0 → LeadAt (u.exp + 45) (num (fv32 v)) ∧ mant u i * (2 : ℚ) ^ u.exp = num (fv32 v)))))

/-- A channel takes its chain's record, or ends the chain at one that is not owned, and is held by one that is poisoned; a landing moves bytes of its
walk on, ends a malformed record with its code, or waits for its slip, which goes on when there is room and the claim is its own; of a record whose
walk is over the claim ends, and its CTL with OWN 0 and its STATUS, UNDELIV and PROG are written back; a write that fails holds it, but in a lost range, where it is done.
Rests on spec/07_engine_commands.md. -/
def Obligations.BargeEngineWorks : Prop :=
  ∀ s die core ch,
    let h := (s.core die core).chan ch
    let cur := fun (t : State) => ((t.core die core).chan ch).cur
    (∀ o x, s.model.ev = some (.bargeRecordTake die core ch) → h.chains.head? = some o → FMap.get? s.ops o = some x → h.cur = none → opFrozen s x = false →
      (x.st = .queued → ∃ t r, exec .bargeRecordTake s = .next t ∧ t.mem = s.mem ∧ t.groups = s.groups ∧ FMap.get? t.ops o = some { x with st := .running } ∧
        cur t = some r ∧ r.addr = x.addr ∧ r.bytes = x.params ∧ r.status = (if x.bad then 3 else 0) ∧ (x.bad = false → r.done = 0)) ∧
      (∀ a b bad u, x.st = .running → h.next = some a → x.flags.getLsbD 4 = false → aheadCopy s x h a = none → opRead s x a 128 = (.ok (b, bad), u) →
        x.die = die → x.core = core → x.kind = .chain ch →
        (bad = true → ∃ t y id z, exec .bargeRecordTake s = .next t ∧ FMap.get? t.ops o = some y ∧ y.st = .held id ∧ FMap.get? t.traps id = some z ∧
          z.fault.cause = cPoison ∧ z.fault.addr = a ∧ z.party = .engine o) ∧
        (bad = false → rOwn b = false → ∃ t, exec .bargeRecordTake s = .next t ∧ FMap.get? t.ops o = none ∧ cur t = none) ∧
        (bad = false → rOwn b = true → rEarly b = false → ∃ t r, exec .bargeRecordTake s = .next t ∧ cur t = some r ∧ r.addr = a ∧ r.bytes = b ∧
          r.status = (if recBad u.fresh.2 x b [] then 3 else 0) ∧ (recBad u.fresh.2 x b [] = false → r.done = 0)))) ∧
    (∀ o x r, chanAt s die core ch = some (o, x, r) → opFrozen s x = false →
      (∀ l idx sour v, s.model.ev = some (.bargeDataLand die core ch false) → r.finished = false → r.cancelled = false → r.waiting = false →
        landPiece s x ch r = (l, idx, sour, v) →
        (∀ n k bad u, l = .moved n k bad u → ∃ t y, exec .bargeDataLand s = .next t ∧ t.mem = v.mem ∧ cur t = some y ∧ y.done = r.done + n ∧
          y.moved = r.moved + k ∧ y.undeliv = r.undeliv ||| u ∧ y.poisoned = (r.poisoned || bad) ∧ y.bytes = r.bytes ∧
          y.finished = decide (rTotal r.bytes ≤ r.done + n)) ∧
        (l = .malformed → ∃ t, exec .bargeDataLand s = .next t ∧ t.mem = v.mem ∧ cur t = some { r with status := 3, finished := true }) ∧
        (l = .wait → ∃ t, exec .bargeDataLand s = .next t ∧ t.mem = v.mem ∧ cur t = some { r with waiting := true })) ∧
      (s.model.ev = some (.slipfillRoom die core ch) → r.waiting = true → ((s.core die core).slip (rSlip r.bytes)).bytes.length < 65536 →
        mayClaim s die core ch (rSlip r.bytes) = true →
        ∃ t, exec .slipfillRoom s = .next t ∧ t.mem = s.mem ∧ t.groups = s.groups ∧ cur t = some { r with waiting := false }) ∧
      (s.model.ev = some (.bargeWriteback die core ch) → r.wrote = false → (r.finished = true ∨ r.cancelled = true) → x.die = die → x.core = core →
        x.kind = .chain ch →
        let w := recDone s die core ch x r
        let code := if r.cancelled then 4 else if r.status = 3 then 3 else if r.poisoned then 5 else if r.undeliv ≠ 0 then 2 else 1
        let ctl := rCtl r.bytes - bits (rCtl r.bytes) 15 8 * 256 - bits (rCtl r.bytes) 0 0 + code * 256
        w.mem = s.mem ∧ w.dies = s.dies ∧ w.ctxs = s.ctxs ∧ (rMode r.bytes = 5 → ((w.core die core).slip (rSlip r.bytes)).claim ≠ some ch) ∧
        ∀ res v, opWrites w x [(r.addr, leBytes 4 ctl ++ leBytes 4 r.undeliv, false), (r.addr + 124, leBytes 4 (min r.moved (2 ^ 32 - 1)), false)] = (res, v) →
          ∃ t y, exec .bargeWriteback s = .next t ∧ cur t = some y ∧ y.bytes = r.bytes ∧ y.moved = r.moved ∧ y.addr = r.addr ∧
            ((res = .ok () ∨ ∃ va, res = .error (.lost, va)) → t.mem = v.mem ∧ y.wrote = true ∧ y.held = none) ∧
            (∀ e va, res = .error (e, va) → e ≠ .lost → y.wrote = false ∧ ∃ id z, y.held = some id ∧ FMap.get? t.traps id = some z ∧
              z.fault.cause = e.cause ∧ z.fault.addr = va ∧ z.party = .engine o)))

/-! ## Events of the units of a die (spec/07, spec/09, spec/18) -/

/-- A sweep starts with its query vectors; a tile enters its positions where its entry is OK and its status in any
case, and the segment's last tile writes the results and counts the positions; a round ranks the masked positions and makes its writes one by
one; an operation whose work is done writes its record, adds INC to the word at CNT, and ends.
Rests on spec/07_engine_commands.md, spec/11_matrix_attention_unmasking.md. -/
def Obligations.SweepsAndRounds : Prop :=
  (∀ s o x, FMap.get? s.ops o = some x → x.kind = .attn → opFrozen s x = false → x.flags.getLsbD 4 = false →
    (∀ bs bad u, s.model.ev = some (.attnSweepStart o) → x.st = .queued → (mauQueue (s.die (aDie x.params)) (aStack x.params)).contains o = true →
      inTurn s (mauQueue (s.die (aDie x.params)) (aStack x.params)) o = true → readHeads s x (List.range (aQh x.params)) [] [] = (.ok (bs, bad), u) →
      ∃ t, exec .attnSweepStart s = .next t ∧ t.mem = u.mem ∧ t.groups = u.groups ∧ FMap.get? t.ops o =
        some { x with st := .running, extra := bs, queryBad := bad, curTile := x.segTile, entering := [], stats := [],
                      flags := if bad.isEmpty then x.flags else x.flags ||| 8#32 }) ∧
    (∀ e bad base u, s.model.ev = some (.attnTile o) → x.st = .running → x.extra ≠ [] → x.curTile < aSegEnd x.params x.segTile →
      tileEntry s x x.curTile = (.ok (e, bad, base), u) →
      let ts := tileStatus u x e bad
      let y := { x with curTile := x.curTile + 1, stats := x.stats ++ [ts.1],
                        entering := x.entering ++ (if ts.1 = 0 then tileEntrants x.params x.curTile base e ts.2.1 else []) }
      (x.curTile + 1 < aSegEnd x.params x.segTile → ∃ t, exec .attnTile s = .next t ∧ t.mem = ts.2.2.mem ∧ FMap.get? t.ops o = some y) ∧
      (∀ v, aSegEnd x.params x.segTile ≤ x.curTile + 1 → opWrites (ts.2.2.putOp o y) y (segWrites y) = (.ok (), v) → x.recAddr = 0 →
        ∃ t z, exec .attnTile s = .next t ∧ t.mem = v.mem ∧ FMap.get? t.ops o = some z ∧ z.progress = x.progress + y.entering.length ∧
          z.segTile = aSegEnd x.params x.segTile ∧ z.entering = [] ∧ z.stats = [] ∧
          z.st = if aTiles x.params ≤ z.segTile then .adding else .running))) ∧
  (∀ s die o x, s.model.ev = some (.unmaskRound die) → (s.die die).umx.head? = some o → FMap.get? s.ops o = some x → opFrozen s x = false →
    let b := x.params
    (∀ mask cs ts u v w, x.st = .queued → opRead s x (BitVec.ofNat 64 (field b 8 8)) (ceilDiv (uNpos b) 8) = (.ok (mask, false), u) →
      let ps := maskedOf mask (uNpos b)
      readWords (u.updOp o (fun x => { x with lost := ps.length, entering := [(0, mask)] })) x (field b 0 8) ps [] false = (.ok (cs, false), v) →
      let ranked := (ps.zip cs).foldr rankIn []
      let chosen := (ranked.take (commits b ranked)).map (·.1)
      readWords v x (field b 16 8) chosen [] false = (.ok (ts, false), w) → chosen ≠ [] →
      ∃ t, exec .unmaskRound s = .next t ∧ t.mem = w.mem ∧ FMap.get? t.ops o =
        some { x with st := .running, lost := ranked.length, stats := chosen, staged := some (bytesOf ts), entering := [(0, mask)], kb := 0 }) ∧
    (∀ z u, x.st = .running → x.flags.getLsbD 4 = false → x.staged.isSome = true → (umxWrites x)[x.kb]? = some z → umxWrite s x z = (.ok (), u) →
      x.entering ≠ [] → x.recAddr = 0 →
      ∃ t y, exec .unmaskRound s = .next t ∧ t.mem = u.mem ∧ FMap.get? t.ops o = some y ∧ y.kb = x.kb + 1 ∧
        (x.kb + 1 < (umxWrites x).length → y.st = .running) ∧
        ((umxWrites x).length ≤ x.kb + 1 → y.st = .adding ∧ y.progress = x.lost - x.stats.length ∧ y.detail = BitVec.ofNat 64 x.stats.length))) ∧
  (∀ s o x, s.model.ev = some (.engineCompletion o) → FMap.get? s.ops o = some x → addHeldUp s x = false →
    let gone := fun (t : State) => FMap.get? t.ops o = none ∧ ∀ h, FMap.get? t.groups x.gid = some h → o ∉ h.ops
    ((∀ ch, x.kind ≠ .chain ch) → x.st = .adding →
      (∀ u, x.recAddr ≠ 0 → opWrite s x false x.recAddr x.record = (.ok (), u) →
        ∃ t, exec .engineCompletion s = .next t ∧ t.mem = u.mem ∧ FMap.get? t.ops o = some { x with recAddr := 0 }) ∧
      (x.recAddr = 0 → x.cnt = 0 → ∃ t, exec .engineCompletion s = .next t ∧ t.mem = s.mem ∧ gone t) ∧
      (∀ u, x.recAddr = 0 → x.cnt ≠ 0 → counterAdd s x x.cnt x.inc x.csys x.owed (x.flags.getLsbD 4) = (.ok (), u) →
        ∃ t, exec .engineCompletion s = .next t ∧ t.mem = u.mem ∧ gone t)) ∧
    (∀ ch y r, x.kind = .chain ch → chanAt s x.die x.core ch = some (o, y, r) → r.wrote = true → rCnt r.bytes = 0 →
      ((r.cancelled = true ∨ rNext r.bytes = 0) → ∃ t, exec .engineCompletion s = .next t ∧ t.mem = s.mem ∧ gone t) ∧
      (r.cancelled = false → rNext r.bytes ≠ 0 → baseBad (rNext r.bytes) 128 = false →
        ∃ t, exec .engineCompletion s = .next t ∧ t.mem = s.mem ∧ FMap.get? t.ops o = some x ∧
          ((t.core x.die x.core).chan ch).cur = none ∧ ((t.core x.die x.core).chan ch).next = some (BitVec.ofNat 64 (rNext r.bytes))))) ∧
  (∀ s x va inc sys owed past p u, x.child = none → xlNeeds s x.die x.tlbCore x.ctx x.ring va [.write] { child := none } = (.ok p, u) →
    mpCheck u x.die p.pa sys = none → isLocal u x.die p.pa = true → p.pa % 8 = 0 →
    let v := producerNow (homeRead (claimLine u x.die x.ctx (va.toNat / 128)) x.die p.pa 8).2 x.die x.ctx sys
    poisonedLine v x.die p.pa = false → (v.die x.die).dm.expSnoop = [] → NoDirtyCopy v p.pa → HasWay v x.die p.pa → NoFailures v →
    ∃ t, counterAdd s x va inc sys owed past = (.ok (), t) ∧
      (∀ j, ¬ (p.pa ≤ j ∧ j < p.pa + 8) → memRead t.mem.bytes j = memRead v.mem.bytes j) ∧
      BitVec.ofNat 64 (ofBytes (homeBytes t x.die p.pa 8)) = BitVec.ofNat 64 (ofBytes (homeBytes v x.die p.pa 8)) + BitVec.ofNat 64 inc)

/-- A collective whose members' sources are in writes its result and ends with the elements counted; one that detects a difference ends with
MISMATCH, and one that lost a member with PEERLOST and the count of the lost. Helm sends a manifest signed under its session's key with the next
number, and its answer, the status beside the number, ends the SHIP; a received manifest is answered by the first of the checks that fails, and
one that passes them all is written to a slot and taken as a launch. A packet whose tag has verified and that a unit fault held is no repeat of itself
(log entry 72).
Rests on spec/07_engine_commands.md, spec/17_host_peers_manifests.md. -/
def Obligations.CollectivesAndManifests : Prop :=
  (∀ s o x, FMap.get? s.ops o = some x → x.kind = .coll → x.st = .running → opFrozen s x = false → x.flags.getLsbD 4 = false → x.recAddr = 0 →
    (∀ remote, s.model.ev = some (.collEnd o true remote) → detects s x = true → ∃ t y, exec .collEnd s = .next t ∧ t.mem = s.mem ∧ t.groups = s.groups ∧
      FMap.get? t.ops o = some y ∧ y.st = .adding ∧ y.flags.getLsbD 0 = true ∧ y.flags.getLsbD 8 = true) ∧
    (∀ remote v y u, s.model.ev = some (.collEnd o false remote) → x.flags.getLsbD 8 = false → x.lost = 0 → collReady s o x remote = some v → FMap.get? v.ops o = some y → y.st = .running →
      y.staged.isSome = true → y.recAddr = 0 → collPut v o (collWrites v y (fun _ => true)) = (none, u) →
      ∃ t z, exec .collEnd s = .next t ∧ t.mem = u.mem ∧ FMap.get? t.ops o = some z ∧ z.st = .adding ∧ z.flags.getLsbD 0 = true ∧
        (let n := elemBytes y.params (dstCount y.params y.extra)
         (y.staged.getD []).length = n → 0 < elemBits (cFmt y.params) → field y.params 24 8 + n ≤ 2 ^ 64 →
          z.progress = dstCount y.params y.extra)) ∧
    (∀ n remote, s.model.ev = some (.collMemberLost o n remote []) → 1 ≤ n → n ≤ (tRemote x.extra).length + lostLocal s x →
      ∃ t y, exec .collMemberLost s = .next t ∧ t.mem = s.mem ∧ t.groups = s.groups ∧ FMap.get? t.ops o = some y ∧ y.st = .adding ∧
        y.flags.getLsbD 0 = true ∧ y.flags.getLsbD 7 = true ∧ y.lost = n ∧ y.progress = collWritten x)) ∧
  (∀ s die o x, s.model.ev = some (.helmManifestSend die) →
    (s.die die).helm.find? (fun k => match FMap.get? s.ops k with | some x => x.st == .queued && !opFrozen s x | none => false) = some o → FMap.get? s.ops o = some x →
    let sess := s.pkg.sessions.find? (fun e => e.2.live && e.2.spec.sender && e.2.spec.peer.isNone && e.2.spec.die == die && e.2.spec.tport == mTport x.params)
    (∀ k y, sess = some (k, y) → y.lost = true → x.recAddr = 0 → x.cnt = 0 → ∃ t, exec .helmManifestSend s = .next t ∧ t.mem = s.mem ∧
      FMap.get? t.ops o = none ∧ t.pkg.packets = s.pkg.packets) ∧
    (∀ k y, sess = some (k, y) → y.lost = false → ∃ t, exec .helmManifestSend s = .next t ∧ t.mem = s.mem ∧ t.groups = s.groups ∧
      FMap.get? t.ops o = some { x with st := .running } ∧ FMap.get? t.pkg.sessions k = some { y with seq := y.seq + 1 } ∧
      t.pkg.packets = s.pkg.packets ++ [⟨o, k, y.seq, x.params, Config.hmacSha384 y.manifestKey (leBytes 8 y.seq.toNat ++ x.params)⟩]) ∧
    (sess = none → x.recAddr = 0 → x.cnt = 0 → ∃ t, exec .helmManifestSend s = .next t ∧ t.mem = s.mem ∧ FMap.get? t.ops o = none)) ∧
  (∀ s o x p (st : Byte), s.model.ev = some (.manifestAnswer o st) → s.pkg.packets.find? (fun p => p.op == o) = some p → 1 ≤ st.toNat → st.toNat ≤ 9 →
    FMap.get? s.ops o = some x → x.kind = .ship → x.cnt = 0 →
    let y := { x with progress := st.toNat + 256 * bits p.seq.toNat 55 0, flags := x.flags ||| 1#32, st := .adding }
    let v := ({ s with pkg := { s.pkg with packets := s.pkg.packets.filter (fun q => q.op != o) } }).putOp o y
    ∀ u, (if x.recAddr = 0 then u = v else opWrite v y false x.recAddr (leBytes 8 (st.toNat + 256 * bits p.seq.toNat 55 0)) = (.ok (), u)) →
      ∃ t, exec .manifestAnswer s = .next t ∧ t.mem = u.mem ∧ FMap.get? t.ops o = none ∧ ∀ q ∈ t.pkg.packets, q.op ≠ o) ∧
  (∀ s die k seq b tag, s.model.ev = some (.manifestCheck die k seq b tag) → b.length = 128 →
    let fresh := fun (x : Session) => x.verified.toNat < seq.toNat ∨ x.checked.contains seq.toNat = true
    let replies := fun (n : Byte) => ∃ t, exec .manifestCheck s = .next t ∧ t.pkg.reply = [n]
    let quietly := fun (n : Byte) => ∃ t, exec .manifestCheck s = .next t ∧ t.pkg.reply = [n] ∧ t.mem = s.mem ∧ t.launches = s.launches
    (FMap.get? s.pkg.sessions k = none → quietly 2) ∧
    (∀ x, FMap.get? s.pkg.sessions k = some x →
      let ctx := x.spec.ctx
      ((x.spec.sender = true ∨ x.spec.peer.isSome = true ∨ x.spec.die ≠ die ∨ x.live = false) → quietly 2) ∧
      (x.spec.sender = false → x.spec.peer = none → x.spec.die = die → x.live = true →
        (tag ≠ Config.hmacSha384 x.manifestKey (leBytes 8 seq.toNat ++ b) → quietly 3) ∧
        (tag = Config.hmacSha384 x.manifestKey (leBytes 8 seq.toNat ++ b) → unitHeld s die ctx (.manifest k seq.toNat) = false →
          (seq.toNat ≤ x.verified.toNat → x.checked.contains seq.toNat = false → quietly 4) ∧
          (fresh x → (x.refuse.contains seq.toNat = true ∨ s.ctx? die ctx = none ∨
            gridOk (field b 8 4) (field b 12 2) (field b 14 2) = false) → quietly 5) ∧
          (fresh x → x.refuse.contains seq.toNat = false → (s.ctx? die ctx).isSome = true →
            gridOk (field b 8 4) (field b 12 2) (field b 14 2) = true → ∀ kn u, readKernel (noteVerified s k seq) die ctx (field b 2 2) = (.ok kn, u) →
            let code := kernelCode u die ctx kn (field b 4 1) [die] (field b 8 4 * field b 12 2 * field b 14 2)
            (code = 2 → replies 5) ∧ (code ≠ 2 → rangesOk u die ctx b = false → replies 6) ∧
            (code ≠ 2 → code ≠ 0 → rangesOk u die ctx b = true → replies 9) ∧
            (code = 0 → rangesOk u die ctx b = true → x.slots.findIdx? (·.isNone) = none → replies 7) ∧
            (∀ i v, code = 0 → rangesOk u die ctx b = true → x.slots.findIdx? (·.isNone) = some i →
              unitWrite u die ctx (x.spec.slots + BitVec.ofNat 64 (128 * i)) b = (.ok (), v) →
              ∃ t n l, exec .manifestCheck s = .next t ∧ t.mem = v.mem ∧ t.pkg.reply = [1] ∧ FMap.get? t.launches n = some l ∧ l.src = .manifest k i ∧
                l.ctx = ctx ∧ l.die = die ∧ l.st = .taken ∧ l.gx = field b 8 4 ∧ l.gy = field b 12 2 ∧ l.gz = field b 14 2 ∧
                l.cnt = BitVec.ofNat 64 (field b 16 8) ∧ l.inc = field b 24 4 ∧
                ∀ y, FMap.get? t.pkg.sessions k = some y → y.verified.toNat = max x.verified.toNat seq.toNat ∧ y.slots = x.slots.set i (some n)))))))

/-- A watched line that is READY is taken, its STATE and its code written, and its launch made or, refused, ended with its counter's add (code 7
without one; log entries 46, 47); the frame records of a taken launch are reserved;
a launch whose blocks have all ended leaves, with every write of its grid at its home and after its counter's add, its node ended or its manifest slot free. A launch has its number on each
of its dies (log entry 74). A replay's instance is written to its slot, nodes, arguments and patches, before its roots launch; a node that is ready launches,
or is refused, STATE and code written, with everything below it ended; and an instance whose nodes have all ended ends its replay.
Rests on spec/15_launches_contexts_translation.md, spec/17_host_peers_manifests.md. -/
def Obligations.GraphsAndLaunches : Prop :=
  let ends := fun (s : State) (n : Nat) (l : Launch) (u : State) =>
    let w := foldNames (s.putLaunch n l) l.dies (fun s d => producerNow s d l.ctx true)
    if l.cnt = 0 then u = w else counterAdd w { kind := .replay, die := l.die, ctx := l.ctx, ring := 1 } l.cnt l.inc true false false = (.ok (), u)
  let refusedAdd := fun (w : State) (l : Launch) (code : Nat) (u : State) =>
    ends w.fresh.2 w.fresh.1 { l with st := .ended, cnt := if code = 7 then 0 else l.cnt, src := .line l.die 0 } u
  (∀ s die ctx line x b p u, s.model.ev = some (.launchTake die ctx line) → s.ctx? die ctx = some x → x.dies.head? = some die → line < 8 →
    x.llen.getLsbD line = true → x.rewatch.contains line = false → unitHeld s die ctx (.take line) = false →
    let va := x.llines + BitVec.ofNat 64 (128 * line)
    unitRead s die ctx va 128 = (.ok (b, p), u) → lState b = 1 → ∀ code k v w, judge u die ctx b none (lDies b x.dies) = (.ok (code, k), v) →
    unitWrite v die ctx va [if code = 0 then 2 else 3, b8 code] = (.ok (), w) →
    (code = 0 → ∃ t n, exec .launchTake s = .next t ∧ t.mem = w.mem ∧ t.groups = w.groups ∧
      FMap.get? t.launches n = some (launchOf die ctx line b k (lDies b x.dies) (lArg b) (.line die line))) ∧
    (code ≠ 0 → ∀ y, refusedAdd w (launchOf die ctx line b k (lDies b x.dies) (lArg b) (.line die line)) code y →
      ∃ t, exec .launchTake s = .next t ∧ t.mem = y.mem ∧ t.groups = y.groups ∧ t.launches = FMap.erase y.launches w.fresh.1)) ∧
  (∀ s n l rs, s.model.ev = some (.launchFrameReserve n) → FMap.get? s.launches n = some l → l.st = .taken → poolTake s l.die l.ctx l.kernel.frames = some rs →
    ∃ t, exec .launchFrameReserve s = .next t ∧ t.mem = s.mem ∧ t.groups = s.groups ∧
      FMap.get? t.launches n = some { l with st := .placing, free := rs, seqs := l.dies.map (fun d => (d, (s.die d).launched)) } ∧
      (l.dies.Nodup → ∀ d ∈ l.dies, (t.die d).launched = (s.die d).launched + 1)) ∧
  (∀ s n l, FMap.get? s.launches n = some l → (l.st = .ended ∨ (l.st = .placing ∧ l.live = 0 ∧ ∀ d ∈ l.dies, l.owes d = false)) →
    unitHeld s l.die l.ctx (.launchAdd n) = false →
    ∀ u, ends s n { l with st := .ended, free := [] } u →
    (∀ d i, l.src = .line d i → s.model.ev = some (.launchEnd n) → ∃ t, exec .launchEnd s = .next t ∧ t.mem = u.mem ∧ FMap.get? t.launches n = none) ∧
    (∀ i m, l.src = .node i m → s.model.ev = some (.launchEnd n) → ∃ t, exec .launchEnd s = .next t ∧ t.mem = u.mem ∧ FMap.get? t.launches n = none ∧
      FMap.get? t.insts i = (FMap.get? s.insts i).map (fun y => { y with nodes := y.nodes.set m .ended })) ∧
    (∀ k i, l.src = .manifest k i → s.model.ev = some (.manifestGridEnd n) → ∃ t, exec .manifestGridEnd s = .next t ∧ t.mem = u.mem ∧
      FMap.get? t.launches n = none ∧
      FMap.get? t.pkg.sessions k = (FMap.get? s.pkg.sessions k).map (fun y => { y with slots := y.slots.set i none }))) ∧
  (∀ s o x slot q b p as u v w, s.model.ev = some (.replayStart o) → FMap.get? s.ops o = some x → x.kind = .replay → x.inst = none → x.st = .queued →
    opFrozen s x = false → x.flags.getLsbD 4 = false →
    (s.die x.die).lunit.find? (fun k => match FMap.get? s.ops k with | some y => y.inst.isNone | none => false) = some o →
    let h := x.params
    graphSlot s x = some slot → opRead s x (x.addr + 64) (128 * gNnode h + 8 * gNpatch h) = (.ok (b, p), u) →
    opRead u x (BitVec.ofNat 64 (gArga h)) (gArglen h) = (.ok (as, q), v) →
    let base := BitVec.ofNat 64 (gInst h + gSz h * slot)
    let nodes := b.take (128 * gNnode h)
    opWrites v x ((base, nodes ++ as, false) ::
      (patchWrites h (b.drop (128 * gNnode h)) x.extra).map (fun e => (base + BitVec.ofNat 64 e.1, e.2, false))) = (.ok (), w) →
    let n := w.fresh.1
    ∃ t y, exec .replayStart s = .next t ∧ y.slot = slot ∧ y.base = base ∧ y.graph = x.addr ∧ y.nnode = gNnode h ∧ y.op = o ∧ y.die = x.die ∧ y.ctx = x.ctx ∧
      y.nodes = List.replicate (gNnode h) .waiting ∧
      let z := (w.fresh.2.putInst n y).updOp o (fun x => { x with st := .running, inst := some n })
      z.mem = w.mem ∧ t = foldNames z ((List.range (gNnode h)).filter (nodeReady y)) (fun u m => launchNode u n m)) ∧
  (∀ s i n x b p u, s.model.ev = some (.graphNodeLaunch i n) → FMap.get? s.insts i = some x → nodeReady x n = true →
    unitHeld s x.die x.ctx (.node i n) = false → x.nodes[n]? = some .waiting →
    let va := x.base + BitVec.ofNat 64 (128 * n)
    let kid := (FMap.get? s.ops x.op).bind EngOp.child
    unitRead s x.die x.ctx va 128 kid = (.ok (b, p), u) → ∀ code k v w, judge u x.die x.ctx b (some n) (lDies b [x.die]) kid = (.ok (code, k), v) →
    unitWrite v x.die x.ctx va [if code = 0 then 2 else 3, b8 code] kid = (.ok (), w) →
    let arg := if bit (lFlags b) 0 then x.base + BitVec.ofNat 64 (128 * x.nnode) + lArg b else lArg b
    (code = 0 → ∃ t m, exec .graphNodeLaunch s = .next t ∧ t.mem = w.mem ∧
      FMap.get? t.launches m = some (launchOf x.die x.ctx x.prio b k (lDies b [x.die]) arg (.node i n)) ∧
      FMap.get? t.insts i = some { x with nodes := x.nodes.set n (.launched m) }) ∧
    (code ≠ 0 → ∀ y, refusedAdd w (launchOf x.die x.ctx x.prio b k (lDies b [x.die]) arg (.node i n)) code y → FMap.get? y.insts i = some x →
      ∃ t, exec .graphNodeLaunch s = .next t ∧ t.mem = y.mem ∧ t.groups = y.groups ∧ t.launches = FMap.erase y.launches w.fresh.1 ∧
        FMap.get? t.insts i = some (endSubtree x n))) ∧
  (∀ s i y x, s.model.ev = some (.graphInstanceEnd i) → FMap.get? s.insts i = some y → FMap.get? s.ops y.op = some x → (∀ n ∈ y.nodes, n = .ended) →
    opFrozen s x = false → addHeldUp s x = false → unitHeld s y.die y.ctx (.instAdd i) = false →
    ∀ u, (if x.cnt = 0 then u = s else counterAdd s x x.cnt x.inc false false (x.flags.getLsbD 4) = (.ok (), u)) →
    ∃ t, exec .graphInstanceEnd s = .next t ∧ t.mem = u.mem ∧ FMap.get? t.insts i = none ∧ FMap.get? t.ops y.op = none)

/-- The next cluster of the head launch is placed on cores of one hardware cluster that have room, block by block, its groups ready at the
entry with the launch's argument; a gang's shares are placed at once on every die; a head that has waited 8,192 cycles without room has a context of
lower priority stopped, and waits anew from then on (log entry 22).
Rests on spec/08_groups_and_issue.md, spec/15_launches_contexts_translation.md. -/
def Obligations.BlocksPlaced : Prop :=
  (∀ s die cores n l h, s.model.ev = some (.blockPlace die cores) → headLaunch s die = some (n, l) → FMap.get? s.launches n = some l →
    l.kernel.gang = false → l.owes die = true → restoreFirst s die l.prio = false →
    let lins := clusterBlocks l (l.nextCluster die)
    cores.length = lins.length → cores ≠ [] → (∀ c ∈ cores, c / 8 = h) → cores.Nodup → (∀ c ∈ cores, coreRoom s die c l.ctx l.kernel = true) →
    ∃ t, exec .blockPlace s = .next t ∧ t.mem = s.mem ∧
      FMap.get? t.launches n = some { l with placed := FMap.upd l.placed die 0 (· + 1), live := l.live + lins.length } ∧
      ∀ e ∈ cores.zip lins, ∃ bid b, FMap.get? t.blocks bid = some b ∧ b.die = die ∧ b.core = e.1 ∧ b.ctx = l.ctx ∧ b.launch = n ∧
        b.bx = e.2 % l.gx ∧ b.by_ = e.2 / l.gx % l.gy ∧ b.bz = e.2 / (l.gx * l.gy) ∧ b.spad = [] ∧ b.absent = [] ∧ b.groups.length = l.kernel.groups ∧
        ∀ gid ∈ b.groups, ∃ g, FMap.get? t.groups gid = some g ∧ g.die = die ∧ g.core = e.1 ∧ g.ctx = l.ctx ∧ g.block = bid ∧
          g.readS 0 = ⟨loHalf l.arg, false⟩ ∧ g.readS 1 = ⟨hiHalf l.arg, false⟩ ∧
          ∀ j, j < 32 → (g.lane j).st = .ready ∧ (g.lane j).pc = l.entry) ∧
  (∀ s n cores l u, s.model.ev = some (.gangPlace n cores) → FMap.get? s.launches n = some l → l.st = .placing → l.kernel.gang = true →
    (∀ d ∈ l.dies, FMap.getD l.placed d 0 = 0) →
    let ds := l.dies.filter (fun d => decide (l.share d > 0))
    (∀ d ∈ ds, (headLaunch s d).map (·.1) = some n ∧ restoreFirst s d l.prio = false) →
    ds.foldl (fun (acc : Option (List Nat × State)) d =>
      acc.bind (fun p => (placeShare p.2 d n (l.share d) p.1).map (fun r => (r.1, placedOn r.2 d)))) (some (cores, s)) = some ([], u) →
    ∃ t y, exec .gangPlace s = .next t ∧ t.mem = s.mem ∧ t.blocks = u.blocks ∧ t.groups = u.groups ∧ t.clusters = u.clusters ∧ t.cores = u.cores ∧
      FMap.get? t.launches n = some y ∧ ∀ d ∈ l.dies, y.owes d = false) ∧
  (∀ s die n l c, s.model.ev = some (.distributorPreemptRequest die) → headLaunch s die = some (n, l) → (s.die die).headSince + 8192 ≤ (s.die die).cycle →
    headRoom s die n l = false → victimCtx s die l = some c →
    ∃ t w, exec .distributorPreemptRequest s = .next t ∧ t.mem = s.mem ∧ (t.ctx die c).sw = .stopped ∧ (t.ctx die c).switch = some w ∧ w.engine = true ∧
      w.owner = none ∧ (t.die die).headSince = (s.die die).cycle)

/-! ## Switches, stops and the debugger (spec/08, spec/20) -/

/-- PREEMPT stops a running context for the save engine, and is dropped and logged for one in a switch; a unit at its boundary
leaves the units awaited; the save engine writes an image that fits and releases the context, gives up one that does not and asks no sooner
than 8,192 cycles later, and restores one where there is room: the registers, lanes, blocks, scratchpads, tiles and slips of each core record stand at
the core that it takes as the image holds them, and the context runs on from there.
Rests on spec/18_preemption_and_save.md. -/
def Obligations.SwitchEvents : Prop :=
  ∀ s die ctx,
    let ctx' := fun (t : State) => t.ctx die ctx
    let x := s.ctx die ctx
    (∀ r, s.model.ev = some (.preempt die ctx r) → ctx < 64 → die < s.fit.dies → (s.die die).mg.retired = false → (s.ctx? die ctx).isSome = true →
      (mayWrite (s.die die).mg r = true → s.pkg.hstate = 4 → x.sw = .run → x.switch = none →
        ∃ t w, exec .preempt s = .next t ∧ t.mem = s.mem ∧ t.pkg.replyOk = true ∧ (ctx' t).sw = .stopped ∧ (ctx' t).switch = some w ∧ w.engine = true ∧
          w.owner = none ∧ w.units = unitsOf s die ctx ∧ ∀ k ∈ groupsOf s die ctx, ∀ g, FMap.get? t.groups k = some g → g.holds.switch = true) ∧
      (mayWrite (s.die die).mg r = true → s.pkg.hstate = 4 → (x.sw ≠ .run ∨ x.switch ≠ none) →
        ∃ t, exec .preempt s = .next t ∧ t.ctxs = s.ctxs ∧ t.groups = s.groups ∧ t.pkg.log = s.pkg.log ++ [.dropped die ctx]) ∧
      ((mayWrite (s.die die).mg r = false ∨ s.pkg.hstate ≠ 4) →
        ∃ t, exec .preempt s = .next t ∧ t.ctxs = s.ctxs ∧ t.groups = s.groups ∧ t.pkg.replyOk = false)) ∧
    (s.model.ev = some (.preemptBackoffExpiry die ctx) → x.backoff ≠ 0 → x.backoff ≤ (s.die die).cycle →
      ∃ t, exec .preemptBackoffExpiry s = .next t ∧ t.mem = s.mem ∧ t.groups = s.groups ∧ ctx' t = { x with backoff := 0 }) ∧
    (∀ u w, s.model.ev = some (.enginePreemptStop die ctx u) → x.switch = some w → w.units.contains u = true → unitAtRest s die ctx u = true →
      ∃ t, exec .enginePreemptStop s = .next t ∧ t.mem = s.mem ∧ (ctx' t).sw = x.sw ∧ (ctx' t).switch = some { w with units := w.units.filter (· != u) }) ∧
    (∀ w u, s.model.ev = some (.saveEngineSave die ctx) → x.switch = some w → x.sw = .stopped → x.line = none → w.engine = true → w.units = [] →
      unitHeld s die ctx (.image false) = false → spillAll s die ctx (s.frames.map (·.1)) = (true, u) →
      let y : Switch := { w.filled u die ctx with headerOwed := false }
      let recs := (y.recs.zip (y.layout u).1).flatMap (fun e => (List.range 6).flatMap (fun k => (e.1.part u k).map (fun p => (e.2 + p.1, p.2))))
      (∀ v, imageFits x (y.layout u).2 = true →
        putPieces (fun s va bs => unitWrite s die ctx va bs) u y.image (y.front u die ctx ++ recs ++ [(1, [1])]) = (.ok (), v) →
        ∃ t, exec .saveEngineSave s = .next t ∧ t.mem = v.mem ∧ (ctx' t).sw = .saved) ∧
      (imageFits x (y.layout u).2 = false →
        ∃ t, exec .saveEngineSave s = .next t ∧ t.mem = u.mem ∧ (ctx' t).sw = .run ∧ (ctx' t).switch = none ∧ (ctx' t).backoff = (u.die die).cycle + 8192)) ∧
    (∀ cores w ps pss bad u v, s.model.ev = some (.saveEngineRestore die ctx cores) → x.switch = some w → x.sw = .saved → x.line = none → w.engine = true →
      x.retryAt ≤ (s.die die).cycle → unitHeld s die ctx (.image true) = false → cores.length = w.recs.length → cores.Nodup → (∀ c ∈ cores, emptyCore s die c = true) →
      let at_ := w.recs.map (·.core)
      (at_.zip cores).all (fun e => e.1 % 8 == e.2 % 8 && (at_.zip cores).all (fun f => e.1 / 8 != f.1 / 8 || e.2 / 8 == f.2 / 8)) = true →
      getPieces (fun s va n => unitRead s die ctx va n) s w.image [(0, 4096), (4096, 256 * w.engs.length)] [] false = (.ok (ps, bad), u) →
      headerOk die ctx (pick ps 0 4096) = true → engsOk u w.engs (pick ps 4096 (256 * w.engs.length)) = true →
      getRecs (fun s va n => unitRead s die ctx va n) u w (w.recs.zip (List.range w.recs.length)) [] = (.ok pss, v) →
      let p := placeCtx v die ctx w cores (pick ps 0 4096) (pick ps 4096 (256 * w.engs.length))
      let y := ((p.ctx die ctx).switch).getD w
      ∀ z, (y.recs.zip pss).foldlM (fun q e => (List.range 6).foldlM (fun q k => loadPart q die e.1 k e.2) q) p = some z →
        (∃ t, exec .saveEngineRestore s = .next t ∧ t = resumeCtx z die ctx y ∧ (ctx' t).sw = .run ∧ (ctx' t).switch = none ∧
          (z.frames = [] → (∀ e ∈ z.groups, ∀ l ∈ e.2.lanes, l.redo = []) → ∀ r ∈ y.recs, ∀ k ∈ r.groups, ∀ g, FMap.get? z.groups k = some g →
            ∃ h, FMap.get? t.groups k = some h ∧ regs h = regs g ∧ h.loc = .resident)) ∧
        ((y.recs.flatMap (·.groups)).Nodup → (y.recs.flatMap (·.blocks)).Nodup →
          (y.recs.flatMap (fun r => r.mq ++ r.chan0.chains ++ r.chan1.chains)).Nodup → (∀ r ∈ y.recs, CoreRec.Sound r p die) →
          ∀ (n : Nat) r qs, y.recs[n]? = some r → pss[n]? = some qs → r.target = cores[n]? ∧ ∀ k, k < 6 → PartAt p z die r k qs))

/-- The all-stop line stops a die's groups from its arrival on; a stopped unit's record is written at its slot, and with
every die's records written the ALLSTOP slots may go out. A record's SKID is the event's own choice within the unit's bound, and its CYCLE the line's arrival
and SKID together (log entry 51). The debugger halts a context's groups, saved ones and handlers among them (log entry 35); its commands are refused with DENIED while host access is off or
to another than a host, turned away and logged for a host that HYPID does not name, refused where no group stands, which comes before its declaration (log entry 35),
and where the group runs; a stopped group's registers and program counters are read and written, a pending one giving PENDING; RESUME and STEP let it go.
Rests on spec/19_traps_and_containment.md. -/
def Obligations.StopsAndDebug : Prop :=
  ∀ s die ctx x, s.ctx? die ctx = some x →
    let ctx' := fun (t : State) => t.ctx die ctx
    let m := (s.die die).mg
    let w := dbgWin s die ctx
    let win := fun (t : State) => dbgWin t die ctx
    let reached := fun (r : Req) => (∃ pbr port, r = .host pbr port) ∧ m.hosten = true ∧ die < s.fit.dies ∧ m.retired = false
    let served := fun (r : Req) (reg : Nat) => reached r ∧ isHyp m r = true ∧ blockAnswers s (0xA0000 + 64 * ctx + reg) = true
    let turned := fun (r : Req) (reg : Nat) => reached r ∧ (isHyp m r = false ∨ blockAnswers s (0xA0000 + 64 * ctx + reg) = false)
    let denied := fun (r : Req) => m.hosten = false ∨ r = .helm ∨ r = .deck
    (∀ l, s.model.ev = some (.allstopArrival die ctx) → x.line = some l → l.since = none →
      ∃ t, exec .allstopArrival s = .next t ∧ t.mem = s.mem ∧ (ctx' t).line = some { l with since := some (s.die die).cycle } ∧
        ∀ k ∈ groupsOf s die ctx, ∀ g, FMap.get? t.groups k = some g → g.holds.line = true) ∧
    (∀ u skid l n area v, s.model.ev = some (.stopRecordWrite die ctx u skid) → x.line = some l → l.since = some n → stopArea s die ctx = some area →
      unitOk u = true → l.done.contains u = false → skid.toNat ≤ unitSkid u → n + skid.toNat ≤ (s.die die).cycle →
      stoppedFrom s die ctx u ≤ n + skid.toNat → areaTaken s die ctx = false →
      unitHeld s die area (.stopRec u) = false →
      unitWrite s die area (((s.ctx die area).stopbase &&& ~~~0x7FFFFF#64) + BitVec.ofNat 64 (65536 * die + 64 * unitSlot u))
        (stopBytes s die ctx u l.cause (n + skid.toNat) skid.toNat) = (.ok (), v) →
      ∃ t, exec .stopRecordWrite s = .next t ∧ t.mem = v.mem ∧ (ctx' t).line = some { l with done := u :: l.done }) ∧
    (∀ l, s.model.ev = some (.allstopDelivery die ctx) → x.line = some l → l.delivered = false → die ∈ x.dies → (∀ d ∈ x.dies, dieStopped s d ctx = true) →
      let norec := x.dies.any (fun d => (stopArea s d ctx).isNone || (match (s.ctx d ctx).line with | some l => l.norec | none => false))
      ∃ t, exec .allstopDelivery s = .next t ∧ t.mem = s.mem ∧ t.groups = s.groups ∧ (ctx' t).line = some { l with delivered := true, norec := norec } ∧
        ∀ k y, FMap.get? t.traps k = some y → y.ctx = ctx → y.die ∈ x.dies → y.allstop = true → y.norec = norec) ∧
    (∀ r, s.model.ev = some (.dbgctlHalt die ctx r) →
      (served r 0 → ∃ t, exec .dbgctlHalt s = .next t ∧ t.mem = s.mem ∧ t.pkg.replyOk = true ∧
        ∀ k, FMap.get? t.groups k = (FMap.get? s.groups k).map (fun g => if g.die = die ∧ g.ctx = ctx then { g with dbg := .stopped } else g)) ∧
      (denied r → ∃ t, exec .dbgctlHalt s = .next t ∧ t.groups = s.groups ∧ t.mem = s.mem ∧ win t = { w with status := 4 }) ∧
      (turned r 0 → ∃ t, exec .dbgctlHalt s = .next t ∧ t.groups = s.groups ∧ t.mem = s.mem ∧ win t = w ∧ t.pkg.replyOk = false ∧
        t.pkg.log = s.pkg.log ++ [.refusedWrite die (0xA0000 + 64 * ctx)])) ∧
    (∀ cmd r, s.model.ev = some (.dbgcmdInvalid die ctx cmd r) → cmd % 8 = 0 ∨ 5 ≤ cmd % 8 → served r 0x18 →
      ∃ t, exec .dbgcmdInvalid s = .next t ∧ t.groups = s.groups ∧ t.mem = s.mem ∧ win t = { w with status := 3 }) ∧
    (∀ r (i : Instr) (e : Ev), ((i = .dbgcmdRead ∧ e = .dbgcmdRead die ctx r) ∨ (i = .dbgcmdWrite ∧ e = .dbgcmdWrite die ctx r) ∨
        (i = .dbgcmdResume ∧ e = .dbgcmdResume die ctx r) ∨ (i = .dbgcmdStep ∧ e = .dbgcmdStep die ctx r) ∨
        ∃ cmd, (cmd % 8 = 0 ∨ 5 ≤ cmd % 8) ∧ i = .dbgcmdInvalid ∧ e = .dbgcmdInvalid die ctx cmd r) → s.model.ev = some e →
      let refuses := fun (n : Byte) => ∃ t, exec i s = .next t ∧ t.groups = s.groups ∧ t.mem = s.mem ∧ win t = { w with status := n }
      (denied r → refuses 4) ∧
      (turned r 0x18 → ∃ t, exec i s = .next t ∧ t.groups = s.groups ∧ t.mem = s.mem ∧ win t = w ∧ t.pkg.replyOk = false ∧
        t.pkg.log = s.pkg.log ++ [.refusedWrite die (0xA0000 + 64 * ctx + 0x18)]) ∧
      (served r 0x18 → dbgTarget s die ctx = none → refuses 3) ∧
      (∀ gid g, served r 0x18 → dbgTarget s die ctx = some (gid, g) → g.dbg ≠ .stopped → i ≠ .dbgcmdInvalid → refuses 1)) ∧
    (∀ r gid g, served r 0x18 → dbgTarget s die ctx = some (gid, g) → g.dbg = .stopped → FMap.get? s.groups gid = some g →
      (s.model.ev = some (.dbgcmdRead die ctx r) → ∃ t, exec .dbgcmdRead s = .next t ∧ t.groups = s.groups ∧ t.mem = s.mem ∧ t.pkg.replyOk = true ∧
        win t = match dbgSel w.sel.toNat g with
          | .reg d => { w with data := (g.readDst d).val.setWidth 64, status := if g.outstanding d then 2 else 0 }
          | .pc l => { w with data := (g.lane l).pc, status := 0 }
          | .bad => { w with status := 3 }) ∧
      (s.model.ev = some (.dbgcmdWrite die ctx r) → ∃ t h, exec .dbgcmdWrite s = .next t ∧ t.mem = s.mem ∧ FMap.get? t.groups gid = some h ∧
        (∀ k, k ≠ gid → FMap.get? t.groups k = FMap.get? s.groups k) ∧
        match dbgSel w.sel.toNat g with
        | .reg d =>
          if d.sink then h = g ∧ win t = { w with status := 3 }
          else if g.outstanding d = true ∧ w.sel.getLsbD 28 = false then h = g ∧ win t = { w with status := 2 }
          else regs h = regs (g.setAll [(d, ⟨loHalf w.data, false⟩)]) ∧ h.outstanding d = false ∧ win t = { w with status := 0 }
        | .pc l =>
          if w.data.toNat % 4 ≠ 0 then h = g ∧ win t = { w with status := 3 }
          else regs h = regs g ∧ win t = { w with status := 0 } ∧ (l < g.lanes.length → (h.lane l).pc = w.data) ∧
            ∀ j, j ≠ l → (h.lane j).pc = (g.lane j).pc
        | .bad => h = g ∧ win t = { w with status := 3 }) ∧
      (s.model.ev = some (.dbgcmdResume die ctx r) → ∃ t, exec .dbgcmdResume s = .next t ∧ t.mem = s.mem ∧ win t = { w with status := 0 } ∧
        FMap.get? t.groups gid = some { g with dbg := .run }) ∧
      (s.model.ev = some (.dbgcmdStep die ctx r) → ∃ t, exec .dbgcmdStep s = .next t ∧ t.mem = s.mem ∧ win t = { w with status := 0 } ∧
        FMap.get? t.groups gid = some { g with dbg := .step }))

/-! ## Ports, stations, expanders, leases (spec/14-spec/17) -/

/-- A host's read, write or atomic within one line of a die that lets it in is performed at the home and
answered, any other answered with all ones or nothing and logged; a line of the far side that is taken back leaves every L2, and a WAITGE.sys on it
tests its word again; a port that fails makes every entry that it carries lost, on every die, tells the contexts that have used it, with LOST or
VIRAL, and loses the sessions that it carries, and works no more where the link or the device has gone.
Rests on spec/05_uniform_and_control.md, spec/06_memory_and_atomic_instructions.md, spec/17_host_peers_manifests.md, spec/19_traps_and_containment.md. -/
def Obligations.PortEvents : Prop :=
  (∀ s pa n d, lineDie s pa n = some d → (s.die d).dm.expSnoop = [] → NoFailures s → NoDirtyCopy s pa → HasWay s d pa →
    (hostMay s d = true →
      (s.model.ev = some (.hostAccess pa n none) → ∃ t, exec .hostAccess s = .next t ∧ SameBytes s t ∧ t.groups = s.groups ∧ AnswersRead s t d pa n ∧
        lineOf pa ∈ (t.die d).dm.hostSnoop) ∧
      (∀ bs, s.model.ev = some (.hostAccess pa n (some bs)) → bs.length = n → ∃ t, exec .hostAccess s = .next t ∧ Stored s t pa bs ∧ t.groups = s.groups ∧
        t.pkg.replyOk = true ∧ lineOf pa ∉ (t.die d).dm.hostSnoop) ∧
      (∀ op wide v z, s.model.ev = some (.hostAtomicop op pa wide v z) → n = atomSize wide → pa % n = 0 →
        poisonedLine s d pa = false →
        let old := BitVec.ofNat 64 (ofBytes (homeBytes s d pa n))
        ∃ t, exec .hostAtomicop s = .next t ∧ Stored s t pa (leBytes n (atomNew (hostOp op) wide old (if op = .cas then z else v) v).toNat) ∧
          t.pkg.reply = leBytes n old.toNat ∧ t.pkg.replyOk = true)) ∧
    (hostMay s d = false →
      (s.model.ev = some (.hostAccess pa n none) → ∃ t, exec .hostAccess s = .next t ∧ t.mem = s.mem ∧ t.pkg.reply = List.replicate n 0xFF ∧
        t.pkg.replyOk = false ∧ t.pkg.log = s.pkg.log ++ [.hostRefused pa]) ∧
      (∀ bs, s.model.ev = some (.hostAccess pa n (some bs)) → bs.length = n → ∃ t, exec .hostAccess s = .next t ∧ t.mem = s.mem ∧ t.pkg.reply = [] ∧
        t.pkg.replyOk = false ∧ t.pkg.log = s.pkg.log ++ [.hostRefused pa]))) ∧
  (∀ s port code, s.model.ev = some (.cxlUnsupportedRequest port code) → port < s.fit.ports.length →
    ∃ t, exec .cxlUnsupportedRequest s = .next t ∧ t.mem = s.mem ∧ t.groups = s.groups ∧ t.dies = s.dies ∧ t.pkg.replyOk = false ∧
      t.pkg.log = s.pkg.log ++ [.unsupported port code]) ∧
  (∀ s die pa off k (i : Instr), ((i = .bisnpReceived ∧ s.model.ev = some (.bisnpReceived die pa)) ∨ (i = .hostSnoop ∧ s.model.ev = some (.hostSnoop die pa))) →
    regionOf s.fit pa = .fabric off → homeKey s die pa = some k →
    ∃ t, exec i s = .next t ∧ t.mem.bytes = s.mem.bytes ∧ (∀ d, d < s.fit.dies → ∀ x ∈ (t.die d).dm.l2, farCopy s d k x = false) ∧
      ownFind (t.die k.1) k.2 = none ∧
      ∀ gid g, FMap.get? s.groups gid = some g → ∃ h, FMap.get? t.groups gid = some h ∧ regs h = regs g ∧
        ((∀ a v, g.wait = .waitge true a v → homeKey s g.die a ≠ some k) → h = g) ∧
        ∀ a v, g.wait = .waitge true a v → homeKey s g.die a = some k → h.wait = .run ∨ h = g ∧ waitValue t g a < v.toNat) ∧
  (∀ s port (i : Instr) (cause : Byte), ((i = .linkLoss ∧ s.model.ev = some (.linkLoss port) ∧ cause = cLost) ∨
      (i = .surpriseRemoval ∧ s.model.ev = some (.surpriseRemoval port) ∧ cause = cLost) ∨
      (i = .viralIndication ∧ s.model.ev = some (.viralIndication port) ∧ cause = cViral)) → s.fit.ports.contains port = true → s.pkg.packets = [] →
    ∃ t, exec i s = .next t ∧ t.mem = s.mem ∧
      (∀ k x, FMap.get? s.pkg.sessions k = some x → x.spec.sender = true → x.spec.peer = none → x.spec.via = port →
        FMap.get? t.pkg.sessions k = some { x with lost := true }) ∧ (i ≠ .viralIndication → (t.die port).mg.portDown = true) ∧
      ∀ d k e, d < s.fit.dies → FMap.get? (s.die d).mg.fwin k = some e → bits e.lo.toNat 63 62 = 1 → bits e.hi.toNat 19 16 = port →
        FMap.get? (t.die d).mg.fwin k = some { e with lost := true, viral := decide (cause = cViral) } ∧
        ∀ c, e.lost = false → c < 64 → e.mask.getLsbD c = true → (s.ctx? d c).isSome = true →
          (∀ y ∈ s.groups, y.2.die = d → y.2.ctx = c → ∀ a v, y.2.wait ≠ .waitge true a v) →
          ∃ id z, FMap.get? t.traps id = some z ∧ z.die = d ∧ z.ctx = c ∧ z.fault.cause = cause ∧ z.fault.code = BitVec.ofNat 32 k)

/-- An extent granted to the die's tenant reads zero, with no line of it in a cache, and is gone when it is released; a requester that an extent
names reads it, and where it may write it writes it, owns its lines and performs atomics on it, any other is refused; a station serves what an
admission entry admits, atomics on shared memory only, and refuses the rest, at a die of world 0 everything (log entry 39); a refused read is answered
with all ones beside its error (log entry 27), and a read of a poisoned line as poisoned; a session begins with
fresh numbers, and its keys are gone at its end. A revocation starts the drain and sends the dirty lines home, their bytes to the berth, and the close of its window leaves the
berth REVOKED; a lease that is revoked goes when its window's close is reported or its time is over.
Rests on spec/16_memory_system_and_fittings.md, spec/17_host_peers_manifests.md, spec/20_trust_meters_and_service.md. -/
def Obligations.GrantsAndLeases : Prop :=
  (∀ s die ext tenant reqs c, s.model.ev = some (.extentGrant die ext tenant reqs c) → s.fit ≠ .c → helmUp s die = true → ext < 1152 →
    FMap.get? (s.die die).dm.extents ext = none →
    (tenant ≠ 0 → tenant = (s.die die).mg.world → reqs.length ≤ 32 → ∃ t, exec .extentGrant s = .next t ∧ t.pkg.replyOk = true ∧ t.groups = s.groups ∧
      FMap.get? (t.die die).dm.extents ext = some ⟨tenant, reqs, c⟩ ∧
      (∀ j, memRead t.mem.bytes j = if extBase die ext ≤ j ∧ j < extBase die ext + 2 ^ 30 then 0 else memRead s.mem.bytes j) ∧
      ∀ d, ∀ x ∈ (t.die d).dm.l2, x.line * 128 < extBase die ext ∨ extBase die ext + 2 ^ 30 ≤ x.line * 128) ∧
    ((tenant = 0 ∨ tenant ≠ (s.die die).mg.world ∨ 32 < reqs.length) → ∃ t, exec .extentGrant s = .next t ∧ t.pkg.replyOk = false ∧ t.mem = s.mem ∧
      t.dies = s.dies)) ∧
  (∀ s die ext e, s.model.ev = some (.extentRelease die ext) → FMap.get? (s.die die).dm.extents ext = some e →
    ∃ t, exec .extentRelease s = .next t ∧ t.groups = s.groups ∧ FMap.get? (t.die die).dm.extents ext = none ∧
      (∀ x ∈ (t.die die).dm.expSnoop, x.line < extBase die ext / 64 ∨ extBase die ext / 64 + 2 ^ 24 ≤ x.line) ∧
      ∀ k, k ≠ ext → FMap.get? (t.die die).dm.extents k = FMap.get? (s.die die).dm.extents k) ∧
  (∀ s die pbr pa n, s.fit ≠ .c → lineDie s pa n = some die → (s.die die).dm.expSnoop = [] → NoFailures s → NoDirtyCopy s pa → HasWay s die pa →
    (∀ e i, extOf s die pa = some e → reqIndex e pbr = some i →
      (s.model.ev = some (.expanderRequest die pbr pa n none) → ∃ t, exec .expanderRequest s = .next t ∧ SameBytes s t ∧
        AnswersRead s t die pa n) ∧
      (∀ r bs, e.reqs[i]? = some r → s.model.ev = some (.expanderRequest die pbr pa n (some bs)) → bs.length = n → bs ≠ [] →
        (r.2 = true → ∃ t, exec .expanderRequest s = .next t ∧ Stored s t pa bs ∧ t.pkg.replyOk = true) ∧
        (r.2 = false → ∃ t, exec .expanderRequest s = .next t ∧ t.mem = s.mem ∧ t.pkg.replyOk = false ∧ t.pkg.log = s.pkg.log ++ [.refusedRequest pbr pa])) ∧
      (∀ r, e.reqs[i]? = some r → r.2 = true → i < 32 → s.model.ev = some (.expanderRequest die pbr pa n (some [])) →
        ∃ t, exec .expanderRequest s = .next t ∧ SameBytes s t ∧ t.pkg.replyOk = true ∧
          (e.c = true → ∀ l ∈ halfLines pa n, ∃ x ∈ (t.die die).dm.expSnoop, x.line = l ∧ x.excl = true ∧ x.holders.getLsbD i = true)) ∧
      (∀ r op wide x y, e.reqs[i]? = some r → r.2 = true → s.model.ev = some (.expanderAtomic die pbr pa op wide x y) → n = atomSize wide → pa % n = 0 →
        poisonedLine s die pa = false → op ≠ .read →
        let old := BitVec.ofNat 64 (ofBytes (homeBytes s die pa n))
        ∃ t, exec .expanderRequest s = .next t ∧ Stored s t pa (leBytes n (atomNew op wide old x y).toNat) ∧ t.pkg.reply = leBytes n old.toNat ∧
          t.pkg.replyOk = true)) ∧
    ((extOf s die pa = none ∨ ∃ e, extOf s die pa = some e ∧ reqIndex e pbr = none) → s.model.ev = some (.expanderRequest die pbr pa n none) →
      ∃ t, exec .expanderRequest s = .next t ∧ t.mem = s.mem ∧ t.pkg.replyOk = false ∧ t.pkg.reply = List.replicate n 0xFF ∧
        t.pkg.log = s.pkg.log ++ [.refusedRequest pbr pa])) ∧
  (∀ s die stn pkg sdie pa n d, s.fit.stations.contains die = true → lineDie s pa n = some d → (s.die d).dm.expSnoop = [] → NoFailures s →
    NoDirtyCopy s pa → HasWay s d pa →
    let may := (s.die die).mg.world ≠ 0 ∧ (s.die die).mg.stnen.getLsbD stn = true ∧ gangwayOk s die d = true ∧ (admitted s die pkg sdie pa n).isSome = true
    (may → s.model.ev = some (.stationRequest die stn pkg sdie pa n none) → ∃ t, exec .stationRequest s = .next t ∧ SameBytes s t ∧ AnswersRead s t d pa n) ∧
    (∀ bs, may → s.model.ev = some (.stationRequest die stn pkg sdie pa n (some bs)) → bs.length = n → ∃ t, exec .stationRequest s = .next t ∧ t.pkg.replyOk = true ∧
      Stored s t pa bs) ∧
    (∀ e op wide x y, may → admitted s die pkg sdie pa n = some e → s.model.ev = some (.stationAtomic die stn pkg sdie pa op wide x y) → n = atomSize wide →
      pa % n = 0 → op ≠ .read →
      (e.spec.lease = false → poisonedLine s d pa = false →
        let old := BitVec.ofNat 64 (ofBytes (homeBytes s d pa n))
        ∃ t, exec .stationRequest s = .next t ∧ Stored s t pa (leBytes n (atomNew op wide old x y).toNat) ∧ t.pkg.reply = leBytes n old.toNat ∧
          t.pkg.replyOk = true) ∧
      (e.spec.lease = true → ∃ t, exec .stationRequest s = .next t ∧ t.mem = s.mem ∧ t.pkg.replyOk = false)) ∧
    (¬ may → s.model.ev = some (.stationRequest die stn pkg sdie pa n none) → ∃ t, exec .stationRequest s = .next t ∧ t.mem = s.mem ∧ t.pkg.replyOk = false ∧
      t.pkg.reply = List.replicate n 0xFF)) ∧
  (∀ s x, s.model.ev = some (.spdmSessionSetup x) → helmUp s x.die = true → x.prio ≤ 7 → x.ctx < 64 →
    ∃ t k y, exec .spdmSessionSetup s = .next t ∧ t.mem = s.mem ∧ t.groups = s.groups ∧ FMap.get? t.pkg.sessions k = some y ∧ y.spec = x ∧ y.live = true ∧
      y.seq = 1 ∧ y.verified = 0) ∧
  (∀ s k x, s.model.ev = some (.spdmSessionEnd k) → FMap.get? s.pkg.sessions k = some x → x.live = true →
    ∃ t, exec .spdmSessionEnd s = .next t ∧ t.mem = s.mem ∧ t.groups = s.groups ∧
      FMap.get? t.pkg.sessions k = some { x with live := false, manifestKey := 0, stationKey := 0 }) ∧
  (∀ s die b, s.model.ev = some (.revocationNotice die b) → die < s.fit.dies → b < 256 →
    (berthState s die b ≠ 1 → exec .revocationNotice s = .next s) ∧
    (berthState s die b = 1 → NoFailures s → ∃ t, exec .revocationNotice s = .next t ∧ berthState t die b = 2 ∧ t.pkg.log = s.pkg.log ++ [.revoked die b] ∧
      (FMap.getD (t.die die).mg.moor b {}).drainEnd = some ((s.die die).cycle + 134217728) ∧
      (∃ k z, FMap.get? t.traps k = some z ∧ z.party = .notice ∧ z.fault.cause = cBerth ∧ z.fault.code = BitVec.ofNat 32 b) ∧
      (∀ x ∈ (t.die die).dm.l2, x.own = false → ofBerth s.fit b x = true → x.dirty = []) ∧
      ∀ x ∈ (s.die die).dm.l2, x.own = false → ofBerth s.fit b x = true → placeErr t die (x.line * 128) = none →
        (∀ y ∈ (s.die die).dm.l2, y.own = false → y.line = x.line → y = x) → ∀ o ∈ x.dirty, o < 128 →
          homeByte t die (x.line * 128 + o) = FMap.getD x.bytes o 0)) ∧
  (∀ s die b n, s.model.ev = some (.drainWindowClose die b) → (FMap.getD (s.die die).mg.moor b {}).drainEnd = some n → n ≤ (s.die die).cycle →
    ∃ t, exec .drainWindowClose s = .next t ∧ t.mem = s.mem ∧ t.groups = s.groups ∧ berthState t die b = 3 ∧
      (∀ x ∈ (t.die die).dm.l2, x.own = false → ofBerth s.fit b x = false) ∧
      let e := FMap.getD (t.die die).mg.moor b {}
      e.dataKey = 0 ∧ e.tagKey = 0 ∧ e.drainEnd = none) ∧
  (∀ s die k e, FMap.get? (s.die die).mg.adm k = some e →
    (s.model.ev = some (.leaseRevoke die k) → e.spec.lease = true → e.revoking = false →
      ∃ t, exec .leaseRevoke s = .next t ∧ t.mem = s.mem ∧ t.groups = s.groups ∧
        FMap.get? (t.die die).mg.adm k = some { e with revoking := true, since := (s.die die).cycle }) ∧
    (∀ reported, s.model.ev = some (.lenderServiceEnd die k reported) → e.revoking = true →
      (reported = true ∨ e.since + 150000000 ≤ (s.die die).cycle) →
      ∃ t, exec .lenderServiceEnd s = .next t ∧ t.mem = s.mem ∧ t.groups = s.groups ∧ FMap.get? (t.die die).mg.adm k = none))

/-! ## The management block (spec/17, spec/18, spec/21) -/

/-- A management write from a requester that may make it, in a state that takes it, has its
effect: a register's field, a context bound on the dies of its descriptor or refused, a context gone with its groups, the next configuration state,
HYPID, the power cap, a table entry; an admission entry needs a session that has attested its source. PLIMIT takes the nearer end of its range (log
entry 25); a descriptor that cannot be read, and a destroy of nothing, give RESULT 3 (log entry 26); STATE 2 and 3 are refused (log entry 28); who writes
which register, and what answers in BOOTFAIL, are log entries 33 and 34. A world latch leaves the die, in one step (log entry 36), in its world, with no context, its memory reading zero, its counters zero. Any other
write changes no register: it is logged and answered with an error. A read, and a narrow write, are events of their own (log entry 77). A read answers with the register; one that a debug window does not serve answers zero
and sets STATUS, and Deck reads zero in the tables that are Helm's alone.
Rests on spec/15_launches_contexts_translation.md, spec/16_memory_system_and_fittings.md, spec/17_host_peers_manifests.md,
spec/19_traps_and_containment.md, spec/20_trust_meters_and_service.md. -/
def Obligations.ManagementWrites : Prop :=
  ∀ s die v r, die < s.fit.dies → (s.die die).mg.retired = false →
    let m := (s.die die).mg
    let n := v.toNat
    let refused := fun (i : Instr) off => ∃ t, exec i s = .next t ∧ t.pkg.replyOk = false ∧ t.pkg.log = s.pkg.log ++ [.refusedWrite die off] ∧ t.mem = s.mem ∧
      t.dies = s.dies ∧ t.ctxs = s.ctxs ∧ t.groups = s.groups ∧ t.pkg.hstate = s.pkg.hstate ∧ t.pkg.asidmap = s.pkg.asidmap
    let done := fun (i : Instr) (f : State → Prop) => ∃ t, exec i s = .next t ∧ t.pkg.replyOk = true ∧ f t
    let still := fun (t : State) => t.mem = s.mem ∧ t.ctxs = s.ctxs ∧ t.groups = s.groups
    let tables := isHyp m r = true ∧ tablesOpen s = true
    (∀ off, s.model.ev = some (.mgmtRegWrite die off v r) → off < 0x1000000 → ownEvent off n = false → (off < 0xA0000 ∨ 0xA1000 ≤ off) →
      (mayWrite m r = true → stateOk s off = true → done .mgmtRegWrite (fun t => still t ∧
        (off = 0xF00020 → (t.die die).mg = { m with hosten := n % 2 = 1 }) ∧ (off = 0xF00028 → (t.die die).mg.stnen.toNat = n / 4 % 16 ∧ (t.die die).mg.cxlw.toNat = n % 4) ∧
        (off = 0xF00030 → (t.die die).mg = { m with plimit := max 1000 (min 4500 (n % 65536)) }) ∧
        (off = 0 → (t.die die).mg = { m with replace := m.replace || n % 2 = 1 }) ∧
        (off ≠ 0xF00020 → off ≠ 0xF00028 → off ≠ 0xF00030 → off ≠ 0 → t.dies = s.dies))) ∧
      ((mayWrite m r = false ∨ stateOk s off = false) → refused .mgmtRegWrite off)) ∧
    (s.model.ev = some (.ctxbindBind die v r) → n / 2 ^ 62 = 1 →
      let ctx := n % 64
      let pa := n / 64 % 2 ^ 46 * 64
      let f := homeRead s die pa 64
      let u := f.2.carry die pa 64 false
      let b := homeBytes u die pa 64
      let q := linesInC u die ctx b
      (mayWrite m r = true → s.pkg.hstate = 4 →
        (placeErr s die pa ≠ none → done .ctxbindBind (fun t => still t ∧ (t.die die).mg = { m with resResult := 3, resCtx := ctx })) ∧
        (placeErr s die pa = none → f.1 = false → poisonedLine q.2 die pa = false → q.1 = true → bindOk q.2 die ctx b = true → done .ctxbindBind (fun t =>
          t.mem = q.2.mem ∧ t.groups = q.2.groups ∧ (∀ d ∈ descDies b, t.ctx? d ctx = some (boundCtx (q.2.die d).mg.vf b)) ∧
          (t.die die).mg.resResult = 2 ∧ (t.die die).mg.resCtx = ctx)) ∧
        (placeErr s die pa = none → (f.1 = true ∨ poisonedLine q.2 die pa = true ∨ q.1 = false ∨ bindOk q.2 die ctx b = false) → done .ctxbindBind (fun t =>
          t.mem = q.2.mem ∧ t.groups = q.2.groups ∧ t.ctxs = q.2.ctxs ∧ (t.die die).mg.resResult = 3 ∧ (t.die die).mg.resCtx = ctx))) ∧
      ((mayWrite m r = false ∨ s.pkg.hstate ≠ 4) → refused .ctxbindBind 0x10)) ∧
    (s.model.ev = some (.ctxbindDestroy die v r) → n / 2 ^ 62 = 2 →
      let ctx := n % 64
      (mayWrite m r = true → s.pkg.hstate = 4 →
        (∀ x, s.ctx? die ctx = some x → done .ctxbindDestroy (fun t => t.mem = s.mem ∧ (t.die die).mg.resResult = 2 ∧ (t.die die).mg.resCtx = ctx ∧
          ∀ d ∈ x.dies, t.ctx? d ctx = none ∧ ∀ k g, FMap.get? t.groups k = some g → ¬ (g.die = d ∧ g.ctx = ctx))) ∧
        (s.ctx? die ctx = none → done .ctxbindDestroy (fun t => still t ∧ (t.die die).mg.resResult = 3 ∧ (t.die die).mg.resCtx = ctx))) ∧
      ((mayWrite m r = false ∨ s.pkg.hstate ≠ 4) → refused .ctxbindDestroy 0x10)) ∧
    (s.model.ev = some (.hstateStep die r) →
      (die = 0 → isHyp m r = true → (s.pkg.hstate = 2 ∨ s.pkg.hstate = 3) → done .hstateStep (fun t => still t ∧ t.dies = s.dies ∧
        t.pkg.hstate = s.pkg.hstate + 1)) ∧
      ((die ≠ 0 ∨ isHyp m r = false ∨ (s.pkg.hstate ≠ 2 ∧ s.pkg.hstate ≠ 3)) → refused .hstateStep 0xF00000)) ∧
    (s.model.ev = some (.hypidWrite die v r) →
      (∀ pbr port, r = .host pbr port → s.pkg.hstate = 2 → ((die = 0 ∧ m.hypPbr = 0xFFF) ∨ isHyp m r = true) → done .hypidWrite (fun t => still t ∧
        ∀ d, d < s.fit.dies → (t.die d).mg = { (s.die d).mg with hypPbr := n % 4096, hypPort := port })) ∧
      ((s.pkg.hstate ≠ 2 ∨ r = .deck ∨ ∃ pbr port, r = .host pbr port ∧ isHyp m r = false ∧ (die ≠ 0 ∨ m.hypPbr ≠ 0xFFF)) → refused .hypidWrite 0xF00008)) ∧
    (s.model.ev = some (.worldLatch die v r) → v.getLsbD 63 = true →
      let vf := n / 256 % 256
      let world := n % 256
      (mayWrite m r = true → s.pkg.hstate = 4 → vf ≤ 11 → world ≤ 254 → (∀ k x, k < 64 → s.ctx? die k = some x → die ∈ x.dies) → done .worldLatch (fun t =>
        (t.die die).mg.world = world ∧ (world ≠ 0 → (t.die die).mg.vf = vf) ∧ (∀ k, k < 64 → t.ctx? die k = none) ∧
        (∀ j, onDie s.fit die j = true → memRead t.mem.bytes j = 0) ∧ (∀ j, onDie s.fit die j = false → memRead t.mem.bytes j = memRead s.mem.bytes j) ∧
        (t.die die).mg.tolls = List.replicate 16 0 ∧ (t.die die).mg.tollN = 0 ∧ (t.die die).mg.lseq = m.lseq + 1 ∧ (t.die die).mg.hosten = false ∧
        (t.die die).dm.l2 = [] ∧ (t.die die).dm.objs = [] ∧ (t.die die).mg.dbg = [] ∧ (t.die die).trapcfg = 0 ∧ (∀ e ∈ t.traps, e.2.die ≠ die) ∧
        (∀ e, m.failingRows = [e] →
          (t.die die).mg.failingRows = if m.rowsUsed.getD e.1 0 < Config.spareRows then [] else [e]) ∧ (∃ f, (t.die die).mg.final = some f ∧ f.world = m.tollWorld ∧ f.counters = m.tolls ∧ f.n = m.tollN + 1) ∧
        (∀ k x, FMap.get? t.pkg.sessions k = some x → x.spec.die = die → x.live = false))) ∧
      ((mayWrite m r = false ∨ s.pkg.hstate ≠ 4 ∨ 11 < vf ∨ world = 255) → refused .worldLatch 0xF00010)) ∧
    (s.model.ev = some (.pcapWrite die v r) →
      (mayWrite m r = true → s.pkg.hstate ≠ 7 → done .pcapWrite (fun t => still t ∧ (t.die die).mg = { m with pcap := max 100 (min 330 (n % 4096)) })) ∧
      ((mayWrite m r = false ∨ s.pkg.hstate = 7) → refused .pcapWrite 8)) ∧
    (∀ k, s.fit = .c → k < 256 →
      (s.model.ev = some (.mooringWrite die (0x80000 + 16 * k) v r) →
        (tables → n / 2 ^ 62 = 1 → v &&& ~~~moorLoMask = 0 → moorOk s die (FMap.getD m.moor k {}).hi.toNat = true → done .mooringWrite (fun t =>
          berthState t die k = 1 ∧ (FMap.getD (t.die die).mg.moor k {}).lo = v ∧ t.groups = s.groups ∧
          (let base := (FMap.getD m.moor k {}).metaBase
            ∀ j, memRead t.mem.bytes j = if base ≤ j ∧ j < base + 48 * 2 ^ 20 then 0 else memRead s.mem.bytes j) ∧
          (∀ x ∈ (t.die die).dm.l2, x.own = false → ofBerth s.fit k x = false) ∧ ∀ j, j < 2 ^ 30 → homeByte t die (2 ^ 48 + k * 2 ^ 30 + j) = 0)) ∧
        (tables → n / 2 ^ 62 = 0 → done .mooringWrite (fun t => t.mem = s.mem ∧ t.groups = s.groups ∧
          berthState t die k = if berthState s die k = 2 then 3 else 0)) ∧
        ((¬ tables ∨ n / 2 ^ 62 = 2 ∨ n / 2 ^ 62 = 3) → refused .mooringWrite (0x80000 + 16 * k))) ∧
      (s.model.ev = some (.mooringWrite die (0x80000 + 16 * k + 8) v r) →
        (tables → done .mooringWrite (fun t => still t ∧ FMap.getD (t.die die).mg.moor k {} = { FMap.getD m.moor k {} with hi := v &&& moorHiMask })) ∧
        (¬ tables → refused .mooringWrite (0x80000 + 16 * k + 8)))) ∧
    (∀ k, k < 64 →
      let old := FMap.getD m.fwin k {}
      (s.model.ev = some (.fwinWrite die (0x90000 + 16 * k) v r) →
        (tables → (n / 2 ^ 62 = 0 ∨ (v &&& ~~~fwinLoMask = 0 ∧ fwinBad s (v &&& fwinLoMask).toNat old.hi.toNat = false)) → done .fwinWrite (fun t => still t ∧
          FMap.get? (t.die die).mg.fwin k = some { old with lo := v &&& fwinLoMask, lost := false })) ∧
        (¬ tables → refused .fwinWrite (0x90000 + 16 * k))) ∧
      (s.model.ev = some (.fwinWrite die (0x90000 + 16 * k + 8) v r) →
        (tables → (old.lo.toNat / 2 ^ 62 = 0 ∨ (v &&& ~~~fwinHiMask = 0 ∧ fwinBad s old.lo.toNat (v &&& fwinHiMask).toNat = false)) → done .fwinWrite (fun t =>
          still t ∧ FMap.get? (t.die die).mg.fwin k = some { old with hi := v &&& fwinHiMask, lost := false })) ∧
        (¬ tables → refused .fwinWrite (0x90000 + 16 * k + 8)))) ∧
    (∀ asid, s.model.ev = some (.asidmapWrite die asid v r) → asid < 4096 →
      let new : AsidEnt := ⟨n / 256 % 2 = 1, n % 16⟩
      (tables → n < 512 → n / 16 % 16 = 0 → n % 16 ≤ 11 → (new = FMap.getD s.pkg.asidmap asid {} ∨ asidUsed s asid = false) → done .asidmapWrite (fun t =>
        still t ∧ t.dies = s.dies ∧ FMap.get? t.pkg.asidmap asid = some new)) ∧
      ((¬ tables ∨ 512 ≤ n ∨ n / 16 % 16 ≠ 0 ∨ 11 < n % 16 ∨ (new ≠ FMap.getD s.pkg.asidmap asid {} ∧ asidUsed s asid = true)) → refused .asidmapWrite (0xB0000 + 8 * asid))) ∧
    (∀ e d b o, s.model.ev = some (.admissionTableWrite die e) → tablesOpen s = true → regionOf s.fit (e.gib * 2 ^ 30) = .package d b o →
      (attested s die e.pkg e.sdie = true → ∃ t k, exec .admissionTableWrite s = .next t ∧ still t ∧ FMap.get? (t.die die).mg.adm k = some { spec := e }) ∧
      (attested s die e.pkg e.sdie = false → ∃ t, exec .admissionTableWrite s = .next t ∧ still t ∧ t.dies = s.dies)) ∧
    (∀ off k wr, s.model.ev = some (.mgmtRegAccess die off k wr r) → off < 0x1000000 → 0 < k → off % 8 + k ≤ 8 → s.pkg.hstate ≠ 7 →
      let window := 0xA0000 ≤ off ∧ off < 0xA1000
      let status := fun (t : State) (st : Byte) => t.pkg.replyOk = true ∧ t.mem = s.mem ∧ t.groups = s.groups ∧
        (wr = false → t.pkg.reply = List.replicate k 0) ∧ dbgWin t die ((off - 0xA0000) / 64) = { dbgWin s die ((off - 0xA0000) / 64) with status := st }
      (window → wr = false ∨ k ≠ 8 → (r = .helm ∨ r = .deck ∨ m.hosten = false) → ∃ t, exec .mgmtRegWrite s = .next t ∧ status t 4) ∧
      (∀ p q, window → r = .host p q → m.hosten = true → k ≠ 8 → ∃ t, exec .mgmtRegWrite s = .next t ∧ status t 3) ∧
      (∀ p q, (¬ window ∨ (k = 8 ∧ m.hosten = true)) → wr = false → r = .host p q → ∃ t, exec .mgmtRegWrite s = .next t ∧ still t ∧ t.dies = s.dies ∧
        t.pkg.replyOk = true ∧ t.pkg.reply = ((leBytes 8 (mgmtValue s die (off / 8 * 8)).toNat).drop (off % 8)).take k) ∧
      (¬ window → wr = false → r = .deck → 0x80000 ≤ off → off < 0x90400 → ∃ t, exec .mgmtRegWrite s = .next t ∧ still t ∧ t.pkg.reply = List.replicate k 0))

/-- A measurement answers with the chain advanced, or the last latch's record, signed; a boot whose steps pass
blows the fuses of its version and waits for configuration, and one that fails enters BOOTFAIL (its path is one event with what it finds, log entry 12); power lost while fuses are blown
leaves every earlier step blown; a reset, which keeps the counters and their chain for the boot's own latch to record (log entry 37), a loss of power and a thermal trip leave
nothing bound or running; a failed core is fenced and its contexts stopped by their line (log entry 29), and a failed die is retired, unless it holds the last working port.
Rests on spec/17_host_peers_manifests.md, spec/20_trust_meters_and_service.md. -/
def Obligations.PowerAndFailures : Prop :=
  let off := fun (s t : State) => t.pkg.hstate = 0 ∧ t.ctxs = [] ∧ t.groups = [] ∧ t.ops = [] ∧ t.mem.bytes = [] ∧ t.flight = [] ∧ t.pkg.sessions = [] ∧
    ∀ d, d < s.fit.dies → (t.die d).cycle = 0 ∧ (t.die d).mg.world = 0 ∧ (t.die d).mg.keys = none
  (∀ s die nonce, die < s.fit.dies → (s.die die).mg.retired = false → tablesOpen s = true →
    let m := (s.die die).mg
    let h := Config.sha384 (leBytes 48 m.tollH.toNat ++ leBytes 8 (m.tollN + 1) ++ m.tolls.flatMap (leBytes 8))
    (s.model.ev = some (.getMeasurementsCurrent die nonce) →
      let e : Measure := { bootid := s.pkg.bootid, lseq := m.lseq, world := m.world, n := m.tollN + 1, counters := m.tolls, h := h }
      ∃ t, exec .getMeasurementsCurrent s = .next t ∧ t.mem = s.mem ∧ t.groups = s.groups ∧ (t.die die).mg.tollN = m.tollN + 1 ∧ (t.die die).mg.tollH = h ∧
        t.pkg.measured = some { e with sig := Config.spdmSign (Config.identityKey die) nonce e.bytes }) ∧
    (∀ e, s.model.ev = some (.getMeasurementsFinal die nonce) → m.final = some e → ∃ t, exec .getMeasurementsFinal s = .next t ∧ t.mem = s.mem ∧
      t.groups = s.groups ∧ (t.die die).mg = { m with tollN := m.tollN + 1, tollH := h } ∧
      t.pkg.measured = some { e with sig := Config.spdmSign (Config.identityKey die) nonce e.bytes }) ∧
    (s.model.ev = some (.tollSnapshot die) → m.lastSnap + 2 ^ 30 ≤ (s.die die).cycle → ∃ t, exec .tollSnapshot s = .next t ∧ t.mem = s.mem ∧
      t.groups = s.groups ∧ (t.die die).mg = { m with tollN := m.tollN + 1, tollH := h, lastSnap := m.lastSnap + 2 ^ 30 })) ∧
  (∀ s b (i : Instr), ((i = .powerGood ∧ s.model.ev = some (.powerGood b) ∧ s.pkg.hstate = 0) ∨ (i = .packageReset ∧ s.model.ev = some (.packageReset b))) →
    let fs := completeFuses s.pkg.fuses
    (b.cut = none → b.failing = none → fuseCount fs ≤ b.version → ∃ t, exec i s = .next t ∧ t.pkg.hstate = 2 ∧ t.pkg.fuses.length = s.pkg.fuses.length ∧
      (∀ k, k < b.version → k < s.pkg.fuses.length → t.pkg.fuses[k]? = some (true, true)) ∧
      t.pkg.deckMeasure = (if b.deckOk then b.deckHash else Config.recoveryHash) ∧
      (i = .powerGood → ∀ d, d < s.fit.dies → (t.die d).cycle = 0) ∧
      (i = .packageReset → (∀ d, d < s.fit.dies → (s.die d).mg.retired = false → ∃ f, (t.die d).mg.final = some f ∧ f.counters = (s.die d).mg.tolls ∧
        f.n = (s.die d).mg.tollN + 1 ∧ f.world = (s.die d).mg.tollWorld) ∧ t.ctxs = [] ∧ t.groups = [] ∧ t.ops = [] ∧ t.launches = [] ∧ t.traps = [] ∧ ∀ d, d < s.fit.dies → (t.die d).cycle = (s.die d).cycle)) ∧
    (b.failing = none → b.version < fuseCount fs → ∃ t, exec i s = .next t ∧ t.pkg.hstate = 7) ∧
    (∀ k, 1 ≤ k → k ≤ 7 → b.cut = none → b.failing = some k → ∃ t, exec i s = .next t ∧ t.pkg.hstate = 7) ∧
    (∀ k half, b.cut = some (k, half) → b.failing = none → fuseCount fs ≤ b.version → fuseCount fs ≤ k → k < b.version → k < 64 →
      ∃ t, exec i s = .next t ∧ off s t ∧ t.pkg.fuses.length = s.pkg.fuses.length ∧ (∀ j, j < k → j < fs.length → t.pkg.fuses[j]? = some (true, true)) ∧
        ∀ j, k < j → t.pkg.fuses[j]? = fs[j]?)) ∧
  (∀ s,
    (s.model.ev = some .powerLoss → ∃ t, exec .powerLoss s = .next t ∧ off s t ∧ t.pkg.fuses = s.pkg.fuses ∧ t.pkg.log = s.pkg.log) ∧
    (∀ temp, s.model.ev = some (.thermalTrip temp) → 115 ≤ temp.toNat → ∃ t, exec .thermalTrip s = .next t ∧ off s t ∧ t.pkg.fuses = s.pkg.fuses ∧ t.pkg.log = s.pkg.log ++ [.trip temp])) ∧
  (∀ s die, die < s.fit.dies →
    let m := (s.die die).mg
    (∀ step, s.model.ev = some (.deckThrottle die step) → step ≤ 16 → s.pkg.hstate ≠ 0 → ∃ t temp, exec .deckThrottle s = .next t ∧ t.mem = s.mem ∧
      t.groups = s.groups ∧ (t.die die).mg = { m with throttle := step, temp := temp } ∧ temp.toNat < 115 ∧ (step = 0 → temp.toNat < 105)) ∧
    (∀ core, s.model.ev = some (.coreCheckFailure die core) → core < 192 → m.failedCores.contains core = false → m.retired = false →
      m.failedCores.length < m.spares → ∃ t, exec .coreCheckFailure s = .next t ∧ t.mem = s.mem ∧ (t.core die core).fenced = true ∧
        (t.die die).mg.failedCores = m.failedCores ++ [core] ∧
        ∀ c ∈ coreContexts s die core, ∀ x, s.ctx? die c = some x → die ∈ x.dies → (t.ctx die c).line ≠ none) ∧
    (s.model.ev = some (.dieLevelUnitFailure die) → m.retired = false →
      (lastPort s die = false → ∃ t, exec .dieLevelUnitFailure s = .next t ∧ (t.die die).mg.retired = true ∧ (t.die die).mg.world = 0 ∧
        ∀ d ∈ vfDies s die, d ≠ die → (t.die d).mg.latchNeeded = true) ∧
      (lastPort s die = true → ∃ t, exec .dieLevelUnitFailure s = .next t ∧ t.mem = s.mem ∧ (t.die die).mg.fenced = true ∧ (t.die die).mg.retired = false)))

/-! ## The machine as a whole (spec/01, spec/02, spec/08, spec/20) -/

/-- Right after reset nothing is bound or running, every register with a Reset column in its map holds that value on every
die, a context just bound holds it in its own registers, and the block of management registers reads so. That memory reads zero is the model's
choice (log entry 4); the spec's own words give it for a die that has been latched (spec/16_memory_system_and_fittings.md).
Rests on spec/01_registers_and_state.md, spec/09_core_memory.md, spec/10_visibility_graph.md, spec/16_memory_system_and_fittings.md,
spec/19_traps_and_containment.md, spec/20_trust_meters_and_service.md. -/
def Obligations.ResetState : Prop :=
  let s := State.reset
  (s.pkg.hstate = 0 ∧ s.ctxs = [] ∧ s.groups = [] ∧ s.blocks = [] ∧ s.ops = [] ∧ s.launches = [] ∧ s.insts = [] ∧ s.frames = [] ∧ s.children = [] ∧
    s.traps = [] ∧ s.flight = [] ∧ s.pkg.sessions = [] ∧ s.pkg.log = []) ∧
  (∀ die, die < s.fit.dies → (s.die die).cycle = 0 ∧ (s.die die).limit = 7 ∧ (s.die die).trapcfg = 0 ∧ (s.die die).mpolicy = 0 ∧ (s.die die).trapvecP = 0 ∧
    (s.die die).trapvecD = 0 ∧ (s.die die).traptmoP = 0x1000000 ∧ (s.die die).traptmoD = 0x1000000 ∧ mgmtValue s die 0 = 0x80 ∧ mgmtValue s die 8 = 300 ∧
    mgmtValue s die 0x18 = 0 ∧ mgmtValue s die 0xF00000 = 0 ∧ mgmtValue s die 0xF00008 = 0xFFF ∧ mgmtValue s die 0xF00018 = 0 ∧
    mgmtValue s die 0xF00020 = 0 ∧ mgmtValue s die 0xF00028 = 0x3C ∧ mgmtValue s die 0xF00030 = 4500 ∧ mgmtValue s die 0xF00038 = 0 ∧
    ∀ off, (0x80000 ≤ off ∧ off < 0x81000) ∨ (0x90000 ≤ off ∧ off < 0x90400) ∨ (0xB0000 ≤ off ∧ off < 0xB8000) → mgmtValue s die off = 0) ∧
  (∀ vf b, let x := boundCtx vf b
    x.carve = 0 ∧ x.determ = BitVec.ofNat 64 (0x0A * 2 ^ 57) ∧ x.framebase = 0 ∧ x.savebase = 0 ∧ x.stopbase = 0 ∧ x.trapvec = [0, 0, 0] ∧
    x.traptmo = [0x1000000, 0x1000000, 0x1000000] ∧ x.line = none) ∧
  Memory.wf s.mem.bytes = true ∧ Memory.wf s.mem.far = true ∧ ∀ a, memRead s.mem.bytes a = 0

/-- Words written out from the encoding tables decode to the instructions they stand for, with marker and guard: one of each body
format and of both sets, a SLIT with its literal, and the word of NOP. An unassigned major, a reserved field that is not
zero, a pair field that is odd, and a CSR address that is not assigned make no instruction.
Rests on spec/01_registers_and_state.md, spec/02_encoding_and_assembly.md. -/
def Obligations.DecodeWords : Prop :=
  decode 0x00E0C082 0 = .ok (⟨false, 7⟩, .addB32 3 1 2) ∧ decode 0x52051260 0 = .ok (⟨true, 0⟩, .absS32 20 36) ∧
  decode 0x13E51228 0 = .ok (⟨false, 7⟩, .lea 20 36 40) ∧ decode 0x16ECA245 0 = .ok (⟨false, 7⟩, .cmpi 3 20 36 5) ∧
  decode 0x5B25122C 0 = .ok (⟨true, 1⟩, .fmacF32 20 36 44) ∧ decode 0x6CC51213 0 = .ok (⟨true, 6⟩, .cvtEncE4m3 20 36 3) ∧
  decode 0x2EE51208 0 = .ok (⟨false, 7⟩, .tanh 20 36) ∧ decode 0x30E51249 0 = .ok (⟨false, 7⟩, .shflXor 20 36 9) ∧
  decode 0x74C51213 0 = .ok (⟨true, 6⟩, .ldB64 20 36 9) ∧ decode 0x3BE5122B 0 = .ok (⟨false, 7⟩, .accrd 20 36 1 1 3) ∧
  decode 0x3CE5122B 0 = .ok (⟨false, 7⟩, .atom 20 36 5 1 1) ∧ decode 0x80E62920 0 = .ok (⟨false, 7⟩, .sadd 12 20 36) ∧
  decode 0xD4DABCDE 0 = .ok (⟨true, 6⟩, .bra 0x1ABCDE) ∧ decode 0xBC060801 0 = .ok (⟨false, 0⟩, .csrr 12 0x801) ∧
  decode 0xB1E01800 0 = .ok (⟨false, 7⟩, .mcmd 12) ∧ decode 0xBDE00000 0 = .ok (⟨false, 7⟩, .nop) ∧ decode 0xBFE48063 0 = .ok (⟨false, 7⟩, .ctxldPart 12 3) ∧
  decode 0x88E28001 0x12345678 = .ok (⟨false, 7⟩, .slitAdd 5 0x12345678) ∧
  decode 0x29E0C082 0 = .error .unassignedMajor ∧ decode 0x8EE00000 0 = .error .unassignedMajor ∧ decode 0xBDE00001 0 = .error .unassignedSelector ∧
  decode 0x02E0C082 0 = .error .badField ∧ decode 0xBCE10001 0 = .error .badField

/-- An instruction decodes from its own words to itself, whatever bytes follow it, and a word that decodes is the word of its
instruction: no bit of a word is dropped. An instruction without words is an event.
Rests on spec/02_encoding_and_assembly.md. -/
def Obligations.EncodingRoundTrip : Prop :=
  (∀ h i rest, i.wf = true → (Instr.fields h i).isSome = true → decodeBytes ((encode h i).flatMap bytesOfWord ++ rest) = .ok ((h, i), rest)) ∧
  (∀ w lit h i, decode w lit = .ok (h, i) → i.wf = true ∧ encode h i = if wordIsSlit w then [w, lit] else [w]) ∧
  (∀ h i, Instr.fields h i = none ↔ ∃ e : Ev, e.instr = i)

/-- A step in which a group issues chooses an address, fetches the word there and decodes it, a SLIT's literal from the next word, and is that
instruction's own effect, with its lanes, address, header, word and length: when its turn at its pipe has come; a turn that has not come passes (log
entry 2). Time has passed before it (log entry 7); a diverged
lane's loop buffer has taken the words, and a handler has begun. A word that is no instruction takes the event of an unassigned word, one that
cannot be fetched the event of a fetch fault, a SLIT's literal being fetched before its word is found unassigned, from any address (log entry 66); a debug stop for a pending read comes first. The word is what the core's instruction cache holds, or
the four bytes at the translated address as the die sees them. A step in which an event happens is that event's effect.
Rests on spec/02_encoding_and_assembly.md, spec/08_groups_and_issue.md. -/
def Obligations.StepRunsDecoded : Prop :=
  (∀ s ts, let s0 : State := { tick s with model := { (tick s).model with agenda := ts } }
    (∀ e, s.model.agenda = .event e :: ts → ∀ t, exec e.instr (withEvent s0 e) = .next t → step s = .next (endEvent t)) ∧
    (∀ gid g0 a g, s.model.agenda = .issue gid :: ts → FMap.get? s0.groups gid = some g0 → canIssue s0 g0 = true →
      choose (enterActive s0 g0) = (a, g) →
      let lanes := g.readyAt a
      let f := fetchFor (s0.putGroup gid g) gid g a a
      let runs := fun (u : State) (h : Hdr) (i : Instr) (w : Word) =>
        let v := beginIssue u gid g w (interval i)
        let r := withIssueOf v gid a lanes h w i.len
        (itsTurn s0 gid g (.instr h i w) = false → step s = .next s0.pass) ∧
        (itsTurn s0 gid g (.instr h i w) = true → pendingRead v gid h i lanes = true → step s = .next (stopForDebugger v gid)) ∧
        (itsTurn s0 gid g (.instr h i w) = true → pendingRead v gid h i lanes = false →
          step s = exec i r ∧ ∃ k, Issuing r ⟨gid, a, lanes, h, w, i.len⟩ k ∧ regs k = regs g)
      (∀ w u h i, f = (.word w, u) → wordIsSlit w = false → decode w 0 = .ok (h, i) → i.regsOk g.nregs = true →
        runs (fillBuffers u gid g a [(a, w)]) h i w) ∧
      (∀ w u lit v h i, f = (.word w, u) → wordIsSlit w = true → fetchFor u gid g a (a + 4) = (.word lit, v) →
        decode w lit = .ok (h, i) → i.regsOk g.nregs = true → runs (fillBuffers v gid g a [(a, w), (a + 4, lit)]) h i w) ∧
      (∀ w u, f = (.word w, u) → wordIsSlit w = false → (∀ h i, decode w 0 = .ok (h, i) → i.regsOk g.nregs = false) →
        let v := fillBuffers u gid g a [(a, w)]
        itsTurn s0 gid g (.unassigned w) = true →
        step s = stepEvent (withIssueOf (beginIssue v gid g w 1) gid a lanes noHdr w 4) (.unassignedWord w)) ∧
      (∀ c va u, f = (.faulted c va, u) → step s = stepEvent (withIssueOf u gid a (fetchers u g a va) noHdr 0 4) (.fetchFault c va)))) ∧
  (∀ s gid g a,
    let asid := (s.ctx g.die g.ctx).asid
    (∀ at_, a = g.b → fetchFor s gid g a at_ = fetchWord s gid g (holdOf s g (fetchers s g a at_)) at_) ∧
    (∀ kid w, canonical a = true → icacheFind (s.core g.die g.core) asid (s.gen asid) g.ring a = some w → fetchWord s gid g kid a = (.word w, s)) ∧
    (∀ kid x u, canonical a = true → icacheFind (s.core g.die g.core) asid (s.gen asid) g.ring a = none →
      translate s g.die g.core g.ctx g.ring .fetch a { gid := some gid, child := kid } = (.ok x, u) →
      accessErr u g.die x.pa 4 false = none → asgenOpen u asid = false →
      let r := l2Read (holdC u g.die x.pa x.cbit false) g.die g.ctx (a.toNat / 128) x.pa 4
      (∃ v, fetchWord s gid g kid a = (.word (BitVec.ofNat 32 (ofBytes r.1)), v) ∧
        icacheFind (v.core g.die g.core) asid (s.gen asid) g.ring a = some (BitVec.ofNat 32 (ofBytes r.1))) ∧
      (isLocal u g.die x.pa = true → AtRest u → copyFind u g.die (lineOf x.pa) = none → r.1 = homeBytes u g.die x.pa 4)) ∧
    (∀ kid, canonical a = false → fetchWord s gid g kid a = (.range a, s)))

/-- Every step keeps the memory in its canonical form: the package's bytes and those of the far side are listed in rising order of address,
each once, and no zero byte is listed. That the form says which bytes are listed is the model's choice (log entry 5).
Rests on spec/16_memory_system_and_fittings.md. -/
def Obligations.MemoryFormKept : Prop :=
  ∀ s t, Memory.wf s.mem.bytes = true → Memory.wf s.mem.far = true → step s = .next t → Memory.wf t.mem.bytes = true ∧ Memory.wf t.mem.far = true
end

