-- ==== Sys2Proof/Laws/Arms.lean ====
section
/-! SUPPORT. What each arm of the dispatch calls: one equation a constructor, so that no later proof unfolds the dispatch. -/

namespace Sys2Proof.Machine

theorem exec_addB32 (d a b : BitVec 7) (st : State) : exec (.addB32 d a b) st = execAddB32 d a b st := rfl
theorem exec_subB32 (d a b : BitVec 7) (st : State) : exec (.subB32 d a b) st = execSubB32 d a b st := rfl
theorem exec_addB64 (d a b : BitVec 7) (st : State) : exec (.addB64 d a b) st = execAddB64 d a b st := rfl
theorem exec_mulB32 (d a b : BitVec 7) (st : State) : exec (.mulB32 d a b) st = execMulB32 d a b st := rfl
theorem exec_mulhS32 (d a b : BitVec 7) (st : State) : exec (.mulhS32 d a b) st = execMulhS32 d a b st := rfl
theorem exec_mulhN32 (d a b : BitVec 7) (st : State) : exec (.mulhN32 d a b) st = execMulhN32 d a b st := rfl
theorem exec_macB32 (d a b : BitVec 7) (st : State) : exec (.macB32 d a b) st = execMacB32 d a b st := rfl
theorem exec_minS32 (d a b : BitVec 7) (st : State) : exec (.minS32 d a b) st = execMinS32 d a b st := rfl
theorem exec_maxS32 (d a b : BitVec 7) (st : State) : exec (.maxS32 d a b) st = execMaxS32 d a b st := rfl
theorem exec_and (d a b : BitVec 7) (st : State) : exec (.and d a b) st = execAnd d a b st := rfl
theorem exec_or (d a b : BitVec 7) (st : State) : exec (.or d a b) st = execOr d a b st := rfl
theorem exec_xor (d a b : BitVec 7) (st : State) : exec (.xor d a b) st = execXor d a b st := rfl
theorem exec_shl (d a b : BitVec 7) (st : State) : exec (.shl d a b) st = execShl d a b st := rfl
theorem exec_shrN32 (d a b : BitVec 7) (st : State) : exec (.shrN32 d a b) st = execShrN32 d a b st := rfl
theorem exec_shrS32 (d a b : BitVec 7) (st : State) : exec (.shrS32 d a b) st = execShrS32 d a b st := rfl
theorem exec_fsh (d a b : BitVec 7) (st : State) : exec (.fsh d a b) st = execFsh d a b st := rfl
theorem exec_bfe (d a b : BitVec 7) (st : State) : exec (.bfe d a b) st = execBfe d a b st := rfl
theorem exec_bfi (d a b : BitVec 7) (st : State) : exec (.bfi d a b) st = execBfi d a b st := rfl
theorem exec_mov (d a : BitVec 7) (st : State) : exec (.mov d a) st = execMov d a st := rfl
theorem exec_shlImm (d a : BitVec 7) (n : BitVec 5) (st : State) : exec (.shlImm d a n) st = execShlImm d a n st := rfl
theorem exec_not (d a : BitVec 7) (st : State) : exec (.not d a) st = execNot d a st := rfl
theorem exec_shrN32Imm (d a : BitVec 7) (n : BitVec 5) (st : State) : exec (.shrN32Imm d a n) st = execShrN32Imm d a n st := rfl
theorem exec_neg (d a : BitVec 7) (st : State) : exec (.neg d a) st = execNeg d a st := rfl
theorem exec_shrS32Imm (d a : BitVec 7) (n : BitVec 5) (st : State) : exec (.shrS32Imm d a n) st = execShrS32Imm d a n st := rfl
theorem exec_absS32 (d a : BitVec 7) (st : State) : exec (.absS32 d a) st = execAbsS32 d a st := rfl
theorem exec_popc (d a : BitVec 7) (st : State) : exec (.popc d a) st = execPopc d a st := rfl
theorem exec_clz (d a : BitVec 7) (st : State) : exec (.clz d a) st = execClz d a st := rfl
theorem exec_brev (d a : BitVec 7) (st : State) : exec (.brev d a) st = execBrev d a st := rfl
theorem exec_movSpecial (d : BitVec 7) (i : BitVec 6) (st : State) : exec (.movSpecial d i) st = execMovSpecial d i st := rfl
theorem exec_rotImm (d a : BitVec 7) (k : BitVec 2) (st : State) : exec (.rotImm d a k) st = execRotImm d a k st := rfl
theorem exec_lea (d a : BitVec 7) (s : BitVec 6) (st : State) : exec (.lea d a s) st = execLea d a s st := rfl
theorem exec_leaX4 (d a : BitVec 7) (s : BitVec 6) (st : State) : exec (.leaX4 d a s) st = execLeaX4 d a s st := rfl
theorem exec_movi (d : BitVec 7) (i : BitVec 14) (st : State) : exec (.movi d i) st = execMovi d i st := rfl
theorem exec_addi (d : BitVec 7) (i : BitVec 14) (st : State) : exec (.addi d i) st = execAddi d i st := rfl
theorem exec_cmpi (e : BitVec 3) (a b : BitVec 7) (k : BitVec 4) (st : State) : exec (.cmpi e a b k) st = execCmpi e a b k st := rfl
theorem exec_plop (e f h : BitVec 3) (t : BitVec 4) (st : State) : exec (.plop e f h t) st = execPlop e f h t st := rfl
theorem exec_voteAny (e f : BitVec 3) (st : State) : exec (.voteAny e f) st = execVoteAny e f st := rfl
theorem exec_voteAll (e f : BitVec 3) (st : State) : exec (.voteAll e f) st = execVoteAll e f st := rfl
theorem exec_voteBallot (f : BitVec 3) (s : BitVec 6) (st : State) : exec (.voteBallot f s) st = execVoteBallot f s st := rfl
theorem exec_voteEq (e f : BitVec 3) (st : State) : exec (.voteEq e f) st = execVoteEq e f st := rfl
theorem exec_faddF32 (d a b : BitVec 7) (st : State) : exec (.faddF32 d a b) st = execFaddF32 d a b st := rfl
theorem exec_fsubF32 (d a b : BitVec 7) (st : State) : exec (.fsubF32 d a b) st = execFsubF32 d a b st := rfl
theorem exec_fmulF32 (d a b : BitVec 7) (st : State) : exec (.fmulF32 d a b) st = execFmulF32 d a b st := rfl
theorem exec_fmacF32 (d a b : BitVec 7) (st : State) : exec (.fmacF32 d a b) st = execFmacF32 d a b st := rfl
theorem exec_fmaF32 (d a : BitVec 7) (s : BitVec 6) (st : State) : exec (.fmaF32 d a s) st = execFmaF32 d a s st := rfl
theorem exec_fmaF32Neg (d a : BitVec 7) (s : BitVec 6) (st : State) : exec (.fmaF32Neg d a s) st = execFmaF32Neg d a s st := rfl
theorem exec_fminF32 (d a b : BitVec 7) (st : State) : exec (.fminF32 d a b) st = execFminF32 d a b st := rfl
theorem exec_fmaxF32 (d a b : BitVec 7) (st : State) : exec (.fmaxF32 d a b) st = execFmaxF32 d a b st := rfl
theorem exec_cmpf (e : BitVec 3) (a b : BitVec 7) (k : BitVec 4) (st : State) : exec (.cmpf e a b k) st = execCmpf e a b k st := rfl
theorem exec_fabsF32 (d a : BitVec 7) (st : State) : exec (.fabsF32 d a) st = execFabsF32 d a st := rfl
theorem exec_fnegF32 (d a : BitVec 7) (st : State) : exec (.fnegF32 d a) st = execFnegF32 d a st := rfl
theorem exec_fclassF32 (d a : BitVec 7) (st : State) : exec (.fclassF32 d a) st = execFclassF32 d a st := rfl
theorem exec_frndF32 (d a : BitVec 7) (r : BitVec 3) (st : State) : exec (.frndF32 d a r) st = execFrndF32 d a r st := rfl
theorem exec_hadd2Bf16 (d a b : BitVec 7) (st : State) : exec (.hadd2Bf16 d a b) st = execHadd2Bf16 d a b st := rfl
theorem exec_hmul2Bf16 (d a b : BitVec 7) (st : State) : exec (.hmul2Bf16 d a b) st = execHmul2Bf16 d a b st := rfl
theorem exec_hfma2Bf16 (d a b : BitVec 7) (st : State) : exec (.hfma2Bf16 d a b) st = execHfma2Bf16 d a b st := rfl
theorem exec_hadd2F16 (d a b : BitVec 7) (st : State) : exec (.hadd2F16 d a b) st = execHadd2F16 d a b st := rfl
theorem exec_hmul2F16 (d a b : BitVec 7) (st : State) : exec (.hmul2F16 d a b) st = execHmul2F16 d a b st := rfl
theorem exec_hfma2F16 (d a b : BitVec 7) (st : State) : exec (.hfma2F16 d a b) st = execHfma2F16 d a b st := rfl
theorem exec_dot4E4m3 (d a b : BitVec 7) (st : State) : exec (.dot4E4m3 d a b) st = execDot4E4m3 d a b st := rfl
theorem exec_faddF322a (d a : BitVec 7) (r : BitVec 3) (z : BitVec 1) (st : State) : exec (.faddF322a d a r z) st = execFaddF322a d a r z st := rfl
theorem exec_fsubF322a (d a : BitVec 7) (r : BitVec 3) (z : BitVec 1) (st : State) : exec (.fsubF322a d a r z) st = execFsubF322a d a r z st := rfl
theorem exec_fmulF322a (d a : BitVec 7) (r : BitVec 3) (z : BitVec 1) (st : State) : exec (.fmulF322a d a r z) st = execFmulF322a d a r z st := rfl
theorem exec_hadd2Bf162a (d a : BitVec 7) (r : BitVec 3) (z : BitVec 1) (st : State) : exec (.hadd2Bf162a d a r z) st = execHadd2Bf162a d a r z st := rfl
theorem exec_hmul2Bf162a (d a : BitVec 7) (r : BitVec 3) (z : BitVec 1) (st : State) : exec (.hmul2Bf162a d a r z) st = execHmul2Bf162a d a r z st := rfl
theorem exec_hadd2F162a (d a : BitVec 7) (r : BitVec 3) (z : BitVec 1) (st : State) : exec (.hadd2F162a d a r z) st = execHadd2F162a d a r z st := rfl
theorem exec_hmul2F162a (d a : BitVec 7) (r : BitVec 3) (z : BitVec 1) (st : State) : exec (.hmul2F162a d a r z) st = execHmul2F162a d a r z st := rfl
theorem exec_cvtEncF16 (d a : BitVec 7) (r : BitVec 3) (st : State) : exec (.cvtEncF16 d a r) st = execCvtEncF16 d a r st := rfl
theorem exec_cvtEncBf16 (d a : BitVec 7) (r : BitVec 3) (st : State) : exec (.cvtEncBf16 d a r) st = execCvtEncBf16 d a r st := rfl
theorem exec_cvtEncE4m3 (d a : BitVec 7) (r : BitVec 3) (st : State) : exec (.cvtEncE4m3 d a r) st = execCvtEncE4m3 d a r st := rfl
theorem exec_cvtEncE5m2 (d a : BitVec 7) (r : BitVec 3) (st : State) : exec (.cvtEncE5m2 d a r) st = execCvtEncE5m2 d a r st := rfl
theorem exec_cvtEncS32 (d a : BitVec 7) (r : BitVec 3) (st : State) : exec (.cvtEncS32 d a r) st = execCvtEncS32 d a r st := rfl
theorem exec_cvtEncN32 (d a : BitVec 7) (r : BitVec 3) (st : State) : exec (.cvtEncN32 d a r) st = execCvtEncN32 d a r st := rfl
theorem exec_cvtDecF16 (d a : BitVec 7) (st : State) : exec (.cvtDecF16 d a) st = execCvtDecF16 d a st := rfl
theorem exec_cvtDecBf16 (d a : BitVec 7) (st : State) : exec (.cvtDecBf16 d a) st = execCvtDecBf16 d a st := rfl
theorem exec_cvtDecE4m3 (d a : BitVec 7) (st : State) : exec (.cvtDecE4m3 d a) st = execCvtDecE4m3 d a st := rfl
theorem exec_cvtDecE5m2 (d a : BitVec 7) (st : State) : exec (.cvtDecE5m2 d a) st = execCvtDecE5m2 d a st := rfl
theorem exec_cvtDecS32 (d a : BitVec 7) (r : BitVec 3) (st : State) : exec (.cvtDecS32 d a r) st = execCvtDecS32 d a r st := rfl
theorem exec_cvtDecN32 (d a : BitVec 7) (r : BitVec 3) (st : State) : exec (.cvtDecN32 d a r) st = execCvtDecN32 d a r st := rfl
theorem exec_cvtPkBf16 (d a : BitVec 7) (r : BitVec 3) (st : State) : exec (.cvtPkBf16 d a r) st = execCvtPkBf16 d a r st := rfl
theorem exec_cvtPkF16 (d a : BitVec 7) (r : BitVec 3) (st : State) : exec (.cvtPkF16 d a r) st = execCvtPkF16 d a r st := rfl
theorem exec_cvtPk2E4m3 (d a : BitVec 7) (r : BitVec 3) (st : State) : exec (.cvtPk2E4m3 d a r) st = execCvtPk2E4m3 d a r st := rfl
theorem exec_cvtPk2E5m2 (d a : BitVec 7) (r : BitVec 3) (st : State) : exec (.cvtPk2E5m2 d a r) st = execCvtPk2E5m2 d a r st := rfl
theorem exec_cvtBlkPk (d a : BitVec 7) (r : BitVec 1) (st : State) : exec (.cvtBlkPk d a r) st = execCvtBlkPk d a r st := rfl
theorem exec_cvtBlkEnc (d a : BitVec 7) (r : BitVec 1) (st : State) : exec (.cvtBlkEnc d a r) st = execCvtBlkEnc d a r st := rfl
theorem exec_cvtBlkDec (d a : BitVec 7) (k : BitVec 2) (st : State) : exec (.cvtBlkDec d a k) st = execCvtBlkDec d a k st := rfl
theorem exec_bscale (d a : BitVec 7) (st : State) : exec (.bscale d a) st = execBscale d a st := rfl
theorem exec_bscaleKeepx (d a : BitVec 7) (st : State) : exec (.bscaleKeepx d a) st = execBscaleKeepx d a st := rfl
theorem exec_rcp (d a : BitVec 7) (st : State) : exec (.rcp d a) st = execRcp d a st := rfl
theorem exec_rsq (d a : BitVec 7) (st : State) : exec (.rsq d a) st = execRsq d a st := rfl
theorem exec_sqrt (d a : BitVec 7) (st : State) : exec (.sqrt d a) st = execSqrt d a st := rfl
theorem exec_exp2 (d a : BitVec 7) (st : State) : exec (.exp2 d a) st = execExp2 d a st := rfl
theorem exec_log2 (d a : BitVec 7) (st : State) : exec (.log2 d a) st = execLog2 d a st := rfl
theorem exec_sin (d a : BitVec 7) (st : State) : exec (.sin d a) st = execSin d a st := rfl
theorem exec_cos (d a : BitVec 7) (st : State) : exec (.cos d a) st = execCos d a st := rfl
theorem exec_sincos (d a : BitVec 7) (st : State) : exec (.sincos d a) st = execSincos d a st := rfl
theorem exec_tanh (d a : BitVec 7) (st : State) : exec (.tanh d a) st = execTanh d a st := rfl
theorem exec_qxchPair (d a : BitVec 7) (st : State) : exec (.qxchPair d a) st = execQxchPair d a st := rfl
theorem exec_qxchHalf (d a : BitVec 7) (st : State) : exec (.qxchHalf d a) st = execQxchHalf d a st := rfl
theorem exec_qxchDiag (d a : BitVec 7) (st : State) : exec (.qxchDiag d a) st = execQxchDiag d a st := rfl
theorem exec_qxchBc (d a : BitVec 7) (k : BitVec 2) (st : State) : exec (.qxchBc d a k) st = execQxchBc d a k st := rfl
theorem exec_qred (d a : BitVec 7) (o : BitVec 3) (st : State) : exec (.qred d a o) st = execQred d a o st := rfl
theorem exec_shflUp (d a : BitVec 7) (n : BitVec 5) (st : State) : exec (.shflUp d a n) st = execShflUp d a n st := rfl
theorem exec_shflDown (d a : BitVec 7) (n : BitVec 5) (st : State) : exec (.shflDown d a n) st = execShflDown d a n st := rfl
theorem exec_shflXor (d a : BitVec 7) (n : BitVec 5) (st : State) : exec (.shflXor d a n) st = execShflXor d a n st := rfl
theorem exec_perm (d a b : BitVec 7) (st : State) : exec (.perm d a b) st = execPerm d a b st := rfl
theorem exec_topkMax (d a : BitVec 7) (s : BitVec 6) (st : State) : exec (.topkMax d a s) st = execTopkMax d a s st := rfl
theorem exec_topkMin (d a : BitVec 7) (s : BitVec 6) (st : State) : exec (.topkMin d a s) st = execTopkMin d a s st := rfl
theorem exec_vx (d i : BitVec 7) (s : BitVec 6) (st : State) : exec (.vx d i s) st = execVx d i s st := rfl
theorem exec_vxw (d i : BitVec 7) (s : BitVec 6) (st : State) : exec (.vxw d i s) st = execVxw d i s st := rfl
theorem exec_ldB32 (d a : BitVec 7) (s : BitVec 5) (st : State) : exec (.ldB32 d a s) st = execLdB32 d a s st := rfl
theorem exec_ldB64 (d a : BitVec 7) (s : BitVec 5) (st : State) : exec (.ldB64 d a s) st = execLdB64 d a s st := rfl
theorem exec_stB32 (d a : BitVec 7) (s : BitVec 5) (st : State) : exec (.stB32 d a s) st = execStB32 d a s st := rfl
theorem exec_stB64 (d a : BitVec 7) (s : BitVec 5) (st : State) : exec (.stB64 d a s) st = execStB64 d a s st := rfl
theorem exec_ldsB32 (d a : BitVec 7) (s : BitVec 5) (st : State) : exec (.ldsB32 d a s) st = execLdsB32 d a s st := rfl
theorem exec_ldsB64 (d a : BitVec 7) (s : BitVec 5) (st : State) : exec (.ldsB64 d a s) st = execLdsB64 d a s st := rfl
theorem exec_stsB32 (d a : BitVec 7) (s : BitVec 5) (st : State) : exec (.stsB32 d a s) st = execStsB32 d a s st := rfl
theorem exec_stsB64 (d a : BitVec 7) (s : BitVec 5) (st : State) : exec (.stsB64 d a s) st = execStsB64 d a s st := rfl
theorem exec_ldB128 (d a : BitVec 7) (s : BitVec 5) (st : State) : exec (.ldB128 d a s) st = execLdB128 d a s st := rfl
theorem exec_ldsB128 (d a : BitVec 7) (s : BitVec 5) (st : State) : exec (.ldsB128 d a s) st = execLdsB128 d a s st := rfl
theorem exec_stB128 (d a : BitVec 7) (s : BitVec 5) (st : State) : exec (.stB128 d a s) st = execStB128 d a s st := rfl
theorem exec_stsB128 (d a : BitVec 7) (s : BitVec 5) (st : State) : exec (.stsB128 d a s) st = execStsB128 d a s st := rfl
theorem exec_ldN8 (d a : BitVec 7) (s : BitVec 3) (st : State) : exec (.ldN8 d a s) st = execLdN8 d a s st := rfl
theorem exec_ldS8 (d a : BitVec 7) (s : BitVec 3) (st : State) : exec (.ldS8 d a s) st = execLdS8 d a s st := rfl
theorem exec_ldN16 (d a : BitVec 7) (s : BitVec 3) (st : State) : exec (.ldN16 d a s) st = execLdN16 d a s st := rfl
theorem exec_ldS16 (d a : BitVec 7) (s : BitVec 3) (st : State) : exec (.ldS16 d a s) st = execLdS16 d a s st := rfl
theorem exec_stB8 (d a : BitVec 7) (s : BitVec 3) (st : State) : exec (.stB8 d a s) st = execStB8 d a s st := rfl
theorem exec_stB16 (d a : BitVec 7) (s : BitVec 3) (st : State) : exec (.stB16 d a s) st = execStB16 d a s st := rfl
theorem exec_ldsN8 (d a : BitVec 7) (s : BitVec 3) (st : State) : exec (.ldsN8 d a s) st = execLdsN8 d a s st := rfl
theorem exec_ldsN16 (d a : BitVec 7) (s : BitVec 3) (st : State) : exec (.ldsN16 d a s) st = execLdsN16 d a s st := rfl
theorem exec_stsB8 (d a : BitVec 7) (s : BitVec 3) (st : State) : exec (.stsB8 d a s) st = execStsB8 d a s st := rfl
theorem exec_stsB16 (d a : BitVec 7) (s : BitVec 3) (st : State) : exec (.stsB16 d a s) st = execStsB16 d a s st := rfl
theorem exec_ldyB32 (d a : BitVec 7) (s : BitVec 3) (st : State) : exec (.ldyB32 d a s) st = execLdyB32 d a s st := rfl
theorem exec_pref (l : BitVec 1) (a : BitVec 7) (s : BitVec 3) (st : State) : exec (.pref l a s) st = execPref l a s st := rfl
theorem exec_ldkv (d a : BitVec 7) (s : BitVec 3) (st : State) : exec (.ldkv d a s) st = execLdkv d a s st := rfl
theorem exec_ldkvTrap (d a : BitVec 7) (s : BitVec 3) (st : State) : exec (.ldkvTrap d a s) st = execLdkvTrap d a s st := rfl
theorem exec_dldB32 (n a : BitVec 7) (s : BitVec 3) (st : State) : exec (.dldB32 n a s) st = execDldB32 n a s st := rfl
theorem exec_dstB32 (n a : BitVec 7) (s : BitVec 3) (st : State) : exec (.dstB32 n a s) st = execDstB32 n a s st := rfl
theorem exec_accrd (d a : BitVec 7) (t f : BitVec 2) (r : BitVec 3) (st : State) : exec (.accrd d a t f r) st = execAccrd d a t f r st := rfl
theorem exec_accwr (d a : BitVec 7) (t : BitVec 2) (st : State) : exec (.accwr d a t) st = execAccwr d a t st := rfl
theorem exec_atom (d a : BitVec 7) (o : BitVec 4) (p : BitVec 2) (w : BitVec 1) (st : State) : exec (.atom d a o p w) st = execAtom d a o p w st := rfl
theorem exec_cas (d a : BitVec 7) (p : BitVec 2) (w : BitVec 1) (st : State) : exec (.cas d a p w) st = execCas d a p w st := rfl
theorem exec_atomPub (d a : BitVec 7) (o : BitVec 4) (p : BitVec 2) (w : BitVec 1) (st : State) : exec (.atomPub d a o p w) st = execAtomPub d a o p w st := rfl
theorem exec_casPub (d a : BitVec 7) (p : BitVec 2) (w : BitVec 1) (st : State) : exec (.casPub d a p w) st = execCasPub d a p w st := rfl
theorem exec_red (d a : BitVec 7) (o : BitVec 4) (p : BitVec 2) (w : BitVec 1) (st : State) : exec (.red d a o p w) st = execRed d a o p w st := rfl
theorem exec_ldSub (d a : BitVec 7) (p : BitVec 2) (w : BitVec 1) (st : State) : exec (.ldSub d a p w) st = execLdSub d a p w st := rfl
theorem exec_minN32 (d a : BitVec 7) (st : State) : exec (.minN32 d a) st = execMinN32 d a st := rfl
theorem exec_maxN32 (d a : BitVec 7) (st : State) : exec (.maxN32 d a) st = execMaxN32 d a st := rfl
theorem exec_rot (d a : BitVec 7) (st : State) : exec (.rot d a) st = execRot d a st := rfl
theorem exec_rotr (d a : BitVec 7) (st : State) : exec (.rotr d a) st = execRotr d a st := rfl
theorem exec_addS32Sat (d a : BitVec 7) (st : State) : exec (.addS32Sat d a) st = execAddS32Sat d a st := rfl
theorem exec_subS32Sat (d a : BitVec 7) (st : State) : exec (.subS32Sat d a) st = execSubS32Sat d a st := rfl
theorem exec_sel (d a : BitVec 7) (n : BitVec 3) (st : State) : exec (.sel d a n) st = execSel d a n st := rfl
theorem exec_selNot (d a : BitVec 7) (n : BitVec 3) (st : State) : exec (.selNot d a n) st = execSelNot d a n st := rfl
theorem exec_sadd (d a b : BitVec 6) (st : State) : exec (.sadd d a b) st = execSadd d a b st := rfl
theorem exec_ssub (d a b : BitVec 6) (st : State) : exec (.ssub d a b) st = execSsub d a b st := rfl
theorem exec_sand (d a b : BitVec 6) (st : State) : exec (.sand d a b) st = execSand d a b st := rfl
theorem exec_sor (d a b : BitVec 6) (st : State) : exec (.sor d a b) st = execSor d a b st := rfl
theorem exec_sxor (d a b : BitVec 6) (st : State) : exec (.sxor d a b) st = execSxor d a b st := rfl
theorem exec_sshl (d a b : BitVec 6) (st : State) : exec (.sshl d a b) st = execSshl d a b st := rfl
theorem exec_sshrN32 (d a b : BitVec 6) (st : State) : exec (.sshrN32 d a b) st = execSshrN32 d a b st := rfl
theorem exec_sshrS32 (d a b : BitVec 6) (st : State) : exec (.sshrS32 d a b) st = execSshrS32 d a b st := rfl
theorem exec_smul (d a b : BitVec 6) (st : State) : exec (.smul d a b) st = execSmul d a b st := rfl
theorem exec_smulhS32 (d a b : BitVec 6) (st : State) : exec (.smulhS32 d a b) st = execSmulhS32 d a b st := rfl
theorem exec_smulhN32 (d a b : BitVec 6) (st : State) : exec (.smulhN32 d a b) st = execSmulhN32 d a b st := rfl
theorem exec_sminS32 (d a b : BitVec 6) (st : State) : exec (.sminS32 d a b) st = execSminS32 d a b st := rfl
theorem exec_smaxS32 (d a b : BitVec 6) (st : State) : exec (.smaxS32 d a b) st = execSmaxS32 d a b st := rfl
theorem exec_sminN32 (d a b : BitVec 6) (st : State) : exec (.sminN32 d a b) st = execSminN32 d a b st := rfl
theorem exec_smaxN32 (d a b : BitVec 6) (st : State) : exec (.smaxN32 d a b) st = execSmaxN32 d a b st := rfl
theorem exec_srot (d a b : BitVec 6) (st : State) : exec (.srot d a b) st = execSrot d a b st := rfl
theorem exec_saddB64 (d a b : BitVec 6) (st : State) : exec (.saddB64 d a b) st = execSaddB64 d a b st := rfl
theorem exec_ssubB64 (d a b : BitVec 6) (st : State) : exec (.ssubB64 d a b) st = execSsubB64 d a b st := rfl
theorem exec_sandB64 (d a b : BitVec 6) (st : State) : exec (.sandB64 d a b) st = execSandB64 d a b st := rfl
theorem exec_sorB64 (d a b : BitVec 6) (st : State) : exec (.sorB64 d a b) st = execSorB64 d a b st := rfl
theorem exec_sxorB64 (d a b : BitVec 6) (st : State) : exec (.sxorB64 d a b) st = execSxorB64 d a b st := rfl
theorem exec_sshlB64 (d a b : BitVec 6) (st : State) : exec (.sshlB64 d a b) st = execSshlB64 d a b st := rfl
theorem exec_sshrN64 (d a b : BitVec 6) (st : State) : exec (.sshrN64 d a b) st = execSshrN64 d a b st := rfl
theorem exec_sshrS64 (d a b : BitVec 6) (st : State) : exec (.sshrS64 d a b) st = execSshrS64 d a b st := rfl
theorem exec_smov (d a : BitVec 6) (st : State) : exec (.smov d a) st = execSmov d a st := rfl
theorem exec_snot (d a : BitVec 6) (st : State) : exec (.snot d a) st = execSnot d a st := rfl
theorem exec_spopc (d a : BitVec 6) (st : State) : exec (.spopc d a) st = execSpopc d a st := rfl
theorem exec_sclz (d a : BitVec 6) (st : State) : exec (.sclz d a) st = execSclz d a st := rfl
theorem exec_sbrev (d a : BitVec 6) (st : State) : exec (.sbrev d a) st = execSbrev d a st := rfl
theorem exec_sbfeN32 (d a b : BitVec 6) (st : State) : exec (.sbfeN32 d a b) st = execSbfeN32 d a b st := rfl
theorem exec_sbfeS32 (d a b : BitVec 6) (st : State) : exec (.sbfeS32 d a b) st = execSbfeS32 d a b st := rfl
theorem exec_sbfi (d a b : BitVec 6) (st : State) : exec (.sbfi d a b) st = execSbfi d a b st := rfl
theorem exec_sset (e : BitVec 3) (a b : BitVec 6) (k : BitVec 3) (st : State) : exec (.sset e a b k) st = execSset e a b k st := rfl
theorem exec_ssel (d a b : BitVec 6) (n : BitVec 3) (st : State) : exec (.ssel d a b n) st = execSsel d a b n st := rfl
theorem exec_saddi (d : BitVec 6) (i : BitVec 15) (st : State) : exec (.saddi d i) st = execSaddi d i st := rfl
theorem exec_smovi (d : BitVec 6) (i : BitVec 15) (st : State) : exec (.smovi d i) st = execSmovi d i st := rfl
theorem exec_slit (d : BitVec 6) (lit : Word) (st : State) : exec (.slit d lit) st = execSlit d lit st := rfl
theorem exec_slitAdd (d : BitVec 6) (lit : Word) (st : State) : exec (.slitAdd d lit) st = execSlitAdd d lit st := rfl
theorem exec_slitAnd (d : BitVec 6) (lit : Word) (st : State) : exec (.slitAnd d lit) st = execSlitAnd d lit st := rfl
theorem exec_slitOr (d : BitVec 6) (lit : Word) (st : State) : exec (.slitOr d lit) st = execSlitOr d lit st := rfl
theorem exec_slitXor (d : BitVec 6) (lit : Word) (st : State) : exec (.slitXor d lit) st = execSlitXor d lit st := rfl
theorem exec_sreg (d i : BitVec 6) (st : State) : exec (.sreg d i) st = execSreg d i st := rfl
theorem exec_sandi (d : BitVec 6) (i : BitVec 15) (st : State) : exec (.sandi d i) st = execSandi d i st := rfl
theorem exec_sori (d : BitVec 6) (i : BitVec 15) (st : State) : exec (.sori d i) st = execSori d i st := rfl
theorem exec_sxori (d : BitVec 6) (i : BitVec 15) (st : State) : exec (.sxori d i) st = execSxori d i st := rfl
theorem exec_qlop (e f h : BitVec 3) (t : BitVec 4) (st : State) : exec (.qlop e f h t) st = execQlop e f h t st := rfl
theorem exec_bra (o : BitVec 21) (st : State) : exec (.bra o) st = execBra o st := rfl
theorem exec_call (o : BitVec 21) (st : State) : exec (.call o) st = execCall o st := rfl
theorem exec_jmp (a : BitVec 6) (st : State) : exec (.jmp a) st = execJmp a st := rfl
theorem exec_jmpCall (a : BitVec 6) (st : State) : exec (.jmpCall a) st = execJmpCall a st := rfl
theorem exec_jmpT (n : BitVec 3) (o : BitVec 15) (st : State) : exec (.jmpT n o) st = execJmpT n o st := rfl
theorem exec_jmpF (n : BitVec 3) (o : BitVec 15) (st : State) : exec (.jmpF n o) st = execJmpF n o st := rfl
theorem exec_conv (a : BitVec 6) (st : State) : exec (.conv a) st = execConv a st := rfl
theorem exec_loop (d : BitVec 6) (i : BitVec 15) (st : State) : exec (.loop d i) st = execLoop d i st := rfl
theorem exec_spawnL (a b : BitVec 6) (n : BitVec 3) (st : State) : exec (.spawnL a b n) st = execSpawnL a b n st := rfl
theorem exec_spawnG (a b : BitVec 6) (st : State) : exec (.spawnG a b) st = execSpawnG a b st := rfl
theorem exec_spawnB (a b : BitVec 6) (st : State) : exec (.spawnB a b) st = execSpawnB a b st := rfl
theorem exec_barArrive (i : BitVec 4) (a b : BitVec 6) (st : State) : exec (.barArrive i a b) st = execBarArrive i a b st := rfl
theorem exec_barWait (i : BitVec 4) (b : BitVec 6) (st : State) : exec (.barWait i b) st = execBarWait i b st := rfl
theorem exec_barSync (i : BitVec 4) (a : BitVec 6) (st : State) : exec (.barSync i a) st = execBarSync i a st := rfl
theorem exec_barArriveClu (i : BitVec 3) (a b : BitVec 6) (st : State) : exec (.barArriveClu i a b) st = execBarArriveClu i a b st := rfl
theorem exec_barWaitClu (i : BitVec 3) (b : BitVec 6) (st : State) : exec (.barWaitClu i b) st = execBarWaitClu i b st := rfl
theorem exec_barSyncClu (i : BitVec 3) (a : BitVec 6) (st : State) : exec (.barSyncClu i a) st = execBarSyncClu i a st := rfl
theorem exec_waitge (a b : BitVec 6) (st : State) : exec (.waitge a b) st = execWaitge a b st := rfl
theorem exec_waitgeSys (a b : BitVec 6) (st : State) : exec (.waitgeSys a b) st = execWaitgeSys a b st := rfl
theorem exec_sld (d a b : BitVec 6) (k : BitVec 3) (st : State) : exec (.sld d a b k) st = execSld d a b k st := rfl
theorem exec_sst (d a b : BitVec 6) (k : BitVec 3) (st : State) : exec (.sst d a b k) st = execSst d a b k st := rfl
theorem exec_satom (o : BitVec 4) (a b : BitVec 6) (p : BitVec 2) (w : BitVec 1) (st : State) : exec (.satom o a b p w) st = execSatom o a b p w st := rfl
theorem exec_satomPub (o : BitVec 4) (a b : BitVec 6) (p : BitVec 2) (w : BitVec 1) (st : State) : exec (.satomPub o a b p w) st = execSatomPub o a b p w st := rfl
theorem exec_chain (c : BitVec 1) (a : BitVec 6) (st : State) : exec (.chain c a) st = execChain c a st := rfl
theorem exec_mcmd (a : BitVec 6) (st : State) : exec (.mcmd a) st = execMcmd a st := rfl
theorem exec_attn (a : BitVec 6) (st : State) : exec (.attn a) st = execAttn a st := rfl
theorem exec_unmask (a : BitVec 6) (st : State) : exec (.unmask a) st = execUnmask a st := rfl
theorem exec_coll (a : BitVec 6) (st : State) : exec (.coll a) st = execColl a st := rfl
theorem exec_ship (a : BitVec 6) (st : State) : exec (.ship a) st = execShip a st := rfl
theorem exec_replay (a b : BitVec 6) (st : State) : exec (.replay a b) st = execReplay a b st := rfl
theorem exec_csrr (d : BitVec 6) (c : BitVec 12) (st : State) : exec (.csrr d c) st = execCsrr d c st := rfl
theorem exec_csrw (d : BitVec 6) (c : BitVec 12) (st : State) : exec (.csrw d c) st = execCsrw d c st := rfl
theorem exec_trap (a : BitVec 6) (r : BitVec 3) (st : State) : exec (.trap a r) st = execTrap a r st := rfl
theorem exec_asgen (a b : BitVec 6) (st : State) : exec (.asgen a b) st = execAsgen a b st := rfl
theorem exec_tlbiAsid (a : BitVec 6) (st : State) : exec (.tlbiAsid a) st = execTlbiAsid a st := rfl
theorem exec_tlbiPage (a b : BitVec 6) (st : State) : exec (.tlbiPage a b) st = execTlbiPage a b st := rfl
theorem exec_ctxsvStop (a b : BitVec 6) (st : State) : exec (.ctxsvStop a b) st = execCtxsvStop a b st := rfl
theorem exec_ctxsvPart (b : BitVec 6) (k : BitVec 3) (st : State) : exec (.ctxsvPart b k) st = execCtxsvPart b k st := rfl
theorem exec_ctxldPlace (a b : BitVec 6) (st : State) : exec (.ctxldPlace a b) st = execCtxldPlace a b st := rfl
theorem exec_ctxldPart (b : BitVec 6) (k : BitVec 3) (st : State) : exec (.ctxldPart b k) st = execCtxldPart b k st := rfl
theorem exec_ret (st : State) : exec .ret st = execRet st := rfl
theorem exec_convAll (st : State) : exec .convAll st = execConvAll st := rfl
theorem exec_exit (st : State) : exec .exit st = execExit st := rfl
theorem exec_frameOpen (st : State) : exec .frameOpen st = execFrameOpen st := rfl
theorem exec_await (st : State) : exec .await st = execAwait st := rfl
theorem exec_yield (st : State) : exec .yield st = execYield st := rfl
theorem exec_nop (st : State) : exec .nop st = execNop st := rfl
theorem exec_eret (st : State) : exec .eret st = execEret st := rfl
theorem exec_brk (st : State) : exec .brk st = execBrk st := rfl
theorem exec_tlbiAll (st : State) : exec .tlbiAll st = execTlbiAll st := rfl
theorem exec_ctxsvRelease (st : State) : exec .ctxsvRelease st = execCtxsvRelease st := rfl
theorem exec_ctxldResume (st : State) : exec .ctxldResume st = execCtxldResume st := rfl
theorem exec_unassignedWord (st : State) : exec .unassignedWord st = execUnassignedWord st := rfl
theorem exec_varResultWriteback (st : State) : exec .varResultWriteback st = execVarResultWriteback st := rfl
theorem exec_storeRejection (st : State) : exec .storeRejection st = execStoreRejection st := rfl
theorem exec_fetchFault (st : State) : exec .fetchFault st = execFetchFault st := rfl
theorem exec_endEvent (st : State) : exec .endEvent st = execEndEvent st := rfl
theorem exec_groupEnd (st : State) : exec .groupEnd st = execGroupEnd st := rfl
theorem exec_childPlace (st : State) : exec .childPlace st = execChildPlace st := rfl
theorem exec_continuationResume (st : State) : exec .continuationResume st = execContinuationResume st := rfl
theorem exec_pendingAgingExchange (st : State) : exec .pendingAgingExchange st = execPendingAgingExchange st := rfl
theorem exec_ldyBackoffExpiry (st : State) : exec .ldyBackoffExpiry st = execLdyBackoffExpiry st := rfl
theorem exec_loadLimitWindow (st : State) : exec .loadLimitWindow st = execLoadLimitWindow st := rfl
theorem exec_homeSliceAccess (st : State) : exec .homeSliceAccess st = execHomeSliceAccess st := rfl
theorem exec_homeSliceAtomic (st : State) : exec .homeSliceAtomic st = execHomeSliceAtomic st := rfl
theorem exec_ownershipNotice (st : State) : exec .ownershipNotice st = execOwnershipNotice st := rfl
theorem exec_ownershipClaim (st : State) : exec .ownershipClaim st = execOwnershipClaim st := rfl
theorem exec_asgenInForce (st : State) : exec .asgenInForce st = execAsgenInForce st := rfl
theorem exec_tlbiComplete (st : State) : exec .tlbiComplete st = execTlbiComplete st := rfl
theorem exec_bridgeAccess (st : State) : exec .bridgeAccess st = execBridgeAccess st := rfl
theorem exec_linkFlitFailure (st : State) : exec .linkFlitFailure st = execLinkFlitFailure st := rfl
theorem exec_engineCompletion (st : State) : exec .engineCompletion st = execEngineCompletion st := rfl
theorem exec_mcmdStart (st : State) : exec .mcmdStart st = execMcmdStart st := rfl
theorem exec_kblockApply (st : State) : exec .kblockApply st = execKblockApply st := rfl
theorem exec_bargeRecordTake (st : State) : exec .bargeRecordTake st = execBargeRecordTake st := rfl
theorem exec_bargeDataLand (st : State) : exec .bargeDataLand st = execBargeDataLand st := rfl
theorem exec_slipfillRoom (st : State) : exec .slipfillRoom st = execSlipfillRoom st := rfl
theorem exec_bargeWriteback (st : State) : exec .bargeWriteback st = execBargeWriteback st := rfl
theorem exec_attnSweepStart (st : State) : exec .attnSweepStart st = execAttnSweepStart st := rfl
theorem exec_attnTile (st : State) : exec .attnTile st = execAttnTile st := rfl
theorem exec_unmaskRound (st : State) : exec .unmaskRound st = execUnmaskRound st := rfl
theorem exec_collEnd (st : State) : exec .collEnd st = execCollEnd st := rfl
theorem exec_collMemberLost (st : State) : exec .collMemberLost st = execCollMemberLost st := rfl
theorem exec_helmManifestSend (st : State) : exec .helmManifestSend st = execHelmManifestSend st := rfl
theorem exec_manifestCheck (st : State) : exec .manifestCheck st = execManifestCheck st := rfl
theorem exec_manifestAnswer (st : State) : exec .manifestAnswer st = execManifestAnswer st := rfl
theorem exec_manifestGridEnd (st : State) : exec .manifestGridEnd st = execManifestGridEnd st := rfl
theorem exec_replayStart (st : State) : exec .replayStart st = execReplayStart st := rfl
theorem exec_graphNodeLaunch (st : State) : exec .graphNodeLaunch st = execGraphNodeLaunch st := rfl
theorem exec_graphInstanceEnd (st : State) : exec .graphInstanceEnd st = execGraphInstanceEnd st := rfl
theorem exec_launchTake (st : State) : exec .launchTake st = execLaunchTake st := rfl
theorem exec_launchFrameReserve (st : State) : exec .launchFrameReserve st = execLaunchFrameReserve st := rfl
theorem exec_launchEnd (st : State) : exec .launchEnd st = execLaunchEnd st := rfl
theorem exec_blockPlace (st : State) : exec .blockPlace st = execBlockPlace st := rfl
theorem exec_gangPlace (st : State) : exec .gangPlace st = execGangPlace st := rfl
theorem exec_distributorPreemptRequest (st : State) : exec .distributorPreemptRequest st = execDistributorPreemptRequest st := rfl
theorem exec_preempt (st : State) : exec .preempt st = execPreempt st := rfl
theorem exec_preemptBackoffExpiry (st : State) : exec .preemptBackoffExpiry st = execPreemptBackoffExpiry st := rfl
theorem exec_enginePreemptStop (st : State) : exec .enginePreemptStop st = execEnginePreemptStop st := rfl
theorem exec_saveEngineSave (st : State) : exec .saveEngineSave st = execSaveEngineSave st := rfl
theorem exec_saveEngineRestore (st : State) : exec .saveEngineRestore st = execSaveEngineRestore st := rfl
theorem exec_trapDelivery (st : State) : exec .trapDelivery st = execTrapDelivery st := rfl
theorem exec_handlerTimeout (st : State) : exec .handlerTimeout st = execHandlerTimeout st := rfl
theorem exec_allstopArrival (st : State) : exec .allstopArrival st = execAllstopArrival st := rfl
theorem exec_stopRecordWrite (st : State) : exec .stopRecordWrite st = execStopRecordWrite st := rfl
theorem exec_allstopDelivery (st : State) : exec .allstopDelivery st = execAllstopDelivery st := rfl
theorem exec_dbgctlHalt (st : State) : exec .dbgctlHalt st = execDbgctlHalt st := rfl
theorem exec_dbgcmdRead (st : State) : exec .dbgcmdRead st = execDbgcmdRead st := rfl
theorem exec_dbgcmdWrite (st : State) : exec .dbgcmdWrite st = execDbgcmdWrite st := rfl
theorem exec_dbgcmdResume (st : State) : exec .dbgcmdResume st = execDbgcmdResume st := rfl
theorem exec_dbgcmdStep (st : State) : exec .dbgcmdStep st = execDbgcmdStep st := rfl
theorem exec_dbgcmdInvalid (st : State) : exec .dbgcmdInvalid st = execDbgcmdInvalid st := rfl
theorem exec_hostAccess (st : State) : exec .hostAccess st = execHostAccess st := rfl
theorem exec_hostAtomicop (st : State) : exec .hostAtomicop st = execHostAtomicop st := rfl
theorem exec_cxlUnsupportedRequest (st : State) : exec .cxlUnsupportedRequest st = execCxlUnsupportedRequest st := rfl
theorem exec_bisnpReceived (st : State) : exec .bisnpReceived st = execBisnpReceived st := rfl
theorem exec_hostSnoop (st : State) : exec .hostSnoop st = execHostSnoop st := rfl
theorem exec_linkLoss (st : State) : exec .linkLoss st = execLinkLoss st := rfl
theorem exec_surpriseRemoval (st : State) : exec .surpriseRemoval st = execSurpriseRemoval st := rfl
theorem exec_viralIndication (st : State) : exec .viralIndication st = execViralIndication st := rfl
theorem exec_extentGrant (st : State) : exec .extentGrant st = execExtentGrant st := rfl
theorem exec_extentRelease (st : State) : exec .extentRelease st = execExtentRelease st := rfl
theorem exec_expanderRequest (st : State) : exec .expanderRequest st = execExpanderRequest st := rfl
theorem exec_stationRequest (st : State) : exec .stationRequest st = execStationRequest st := rfl
theorem exec_spdmSessionSetup (st : State) : exec .spdmSessionSetup st = execSpdmSessionSetup st := rfl
theorem exec_berthAccess (st : State) : exec .berthAccess st = execBerthAccess st := rfl
theorem exec_revocationNotice (st : State) : exec .revocationNotice st = execRevocationNotice st := rfl
theorem exec_drainWindowClose (st : State) : exec .drainWindowClose st = execDrainWindowClose st := rfl
theorem exec_leaseRevoke (st : State) : exec .leaseRevoke st = execLeaseRevoke st := rfl
theorem exec_lenderServiceEnd (st : State) : exec .lenderServiceEnd st = execLenderServiceEnd st := rfl
theorem exec_mgmtRegWrite (st : State) : exec .mgmtRegWrite st = execMgmtRegWrite st := rfl
theorem exec_ctxbindBind (st : State) : exec .ctxbindBind st = execCtxbindBind st := rfl
theorem exec_ctxbindDestroy (st : State) : exec .ctxbindDestroy st = execCtxbindDestroy st := rfl
theorem exec_hstateStep (st : State) : exec .hstateStep st = execHstateStep st := rfl
theorem exec_hypidWrite (st : State) : exec .hypidWrite st = execHypidWrite st := rfl
theorem exec_worldLatch (st : State) : exec .worldLatch st = execWorldLatch st := rfl
theorem exec_pcapWrite (st : State) : exec .pcapWrite st = execPcapWrite st := rfl
theorem exec_mooringWrite (st : State) : exec .mooringWrite st = execMooringWrite st := rfl
theorem exec_fwinWrite (st : State) : exec .fwinWrite st = execFwinWrite st := rfl
theorem exec_asidmapWrite (st : State) : exec .asidmapWrite st = execAsidmapWrite st := rfl
theorem exec_getMeasurementsCurrent (st : State) : exec .getMeasurementsCurrent st = execGetMeasurementsCurrent st := rfl
theorem exec_getMeasurementsFinal (st : State) : exec .getMeasurementsFinal st = execGetMeasurementsFinal st := rfl
theorem exec_tollSnapshot (st : State) : exec .tollSnapshot st = execTollSnapshot st := rfl
theorem exec_powerGood (st : State) : exec .powerGood st = execPowerGood st := rfl
theorem exec_packageReset (st : State) : exec .packageReset st = execPackageReset st := rfl
theorem exec_powerLoss (st : State) : exec .powerLoss st = execPowerLoss st := rfl
theorem exec_deckThrottle (st : State) : exec .deckThrottle st = execDeckThrottle st := rfl
theorem exec_thermalTrip (st : State) : exec .thermalTrip st = execThermalTrip st := rfl
theorem exec_coreCheckFailure (st : State) : exec .coreCheckFailure st = execCoreCheckFailure st := rfl
theorem exec_admissionTableWrite (st : State) : exec .admissionTableWrite st = execAdmissionTableWrite st := rfl
theorem exec_spdmSessionEnd (st : State) : exec .spdmSessionEnd st = execSpdmSessionEnd st := rfl
theorem exec_dieLevelUnitFailure (st : State) : exec .dieLevelUnitFailure st = execDieLevelUnitFailure st := rfl

end Sys2Proof.Machine
end

