-- ==== Sys2Proof/Laws/Bridge.lean ====
section
/-! SUPPORT. What a bridge does never changes a byte as its home holds it (R335-R344). -/

namespace Sys2Proof.Machine

/-- A bridge's work has left every byte at its home alone. -/
def Br.Keeps (r t : Br) : Prop := t.mem.bytes = r.mem.bytes ∧ t.mem.far = r.mem.far

theorem Br.keeps_rfl (r : Br) : r.Keeps r := ⟨rfl, rfl⟩

theorem Br.Keeps.trans {r t u : Br} (h : r.Keeps t) (k : t.Keeps u) : r.Keeps u := ⟨k.1.trans h.1, k.2.trans h.2⟩

theorem Br.keeps_foldl {α : Type} (f : Br → α → Br) (hf : ∀ (r : Br) (x : α), r.Keeps (f r x)) (xs : List α) (r : Br) : r.Keeps (xs.foldl f r) := by
  induction xs generalizing r with
  | nil => exact r.keeps_rfl
  | cons x xs ih => exact (hf r x).trans (ih _)

theorem Br.keeps_ite {r a b : Br} (c : Prop) [Decidable c] (ha : r.Keeps a) (hb : r.Keeps b) : r.Keeps (if c then a else b) := by
  split <;> assumption

theorem Br.keeps_updDm (r : Br) (f : DieMem → DieMem) : r.Keeps (r.updDm f) := ⟨rfl, rfl⟩
theorem Br.keeps_updMg (r : Br) (f : DieMgmt → DieMgmt) : r.Keeps (r.updMg f) := ⟨rfl, rfl⟩
theorem Br.keeps_toll (r : Br) (i n : Nat) : r.Keeps (r.toll i n) := by unfold Br.toll; split <;> exact ⟨rfl, rfl⟩
theorem Br.keeps_poison (r : Br) (line : Nat) : r.Keeps (r.poison line) := ⟨rfl, rfl⟩
theorem Br.keeps_counters (r : Br) (b page : Nat) : r.Keeps (r.counters b page) := ⟨rfl, rfl⟩
theorem Br.keeps_flits (r : Br) (b : Nat) : r.Keeps (r.flits b) := ⟨rfl, rfl⟩

theorem Br.keeps_repair (r : Br) (die : Nat) : r.Keeps (r.repair die) := by
  unfold Br.repair
  simp only
  split
  · split <;> exact ⟨rfl, rfl⟩
  · exact ⟨rfl, rfl⟩

theorem Br.keeps_request (r : Br) (die b line : Nat) (wr : Bool) : r.Keeps (r.request die b line wr) := by
  unfold Br.request
  simp only
  split
  · split <;> exact ⟨rfl, rfl⟩
  · exact ⟨rfl, rfl⟩

theorem Br.keeps_fetchCounters (r : Br) (b page : Nat) : r.Keeps (r.fetchCounters b page) := by
  unfold Br.fetchCounters
  simp only
  refine Br.keeps_ite _ ?_ (r.keeps_counters b page)
  exact Br.Keeps.trans (t := { r.counters b page with mem := { (r.counters b page).mem with
    badPages := (r.counters b page).mem.badPages.filter (· != page) } }) ⟨rfl, rfl⟩ (Br.keeps_foldl _ (fun r i => r.keeps_poison _) _ _)

theorem Br.keeps_dramWrite (r : Br) (b line : Nat) : r.Keeps (r.dramWrite b line) := by
  have h : ∀ n m, r.Keeps ((((r.fetchCounters b (line / 32)).toll 6 128).toll 5 n).toll 6 m) := fun n m =>
    (((r.keeps_fetchCounters b (line / 32)).trans (Br.keeps_toll _ 6 128)).trans (Br.keeps_toll _ 5 n)).trans (Br.keeps_toll _ 6 m)
  unfold Br.dramWrite
  exact ⟨(h _ _).1, (h _ _).2⟩

theorem Br.keeps_dramRead (r : Br) (b line n : Nat) : r.Keeps (r.dramRead b line n) := by
  have h := r.keeps_fetchCounters b (line / 32)
  unfold Br.dramRead
  refine Br.keeps_ite _ h (Br.keeps_ite _ ?_ (h.trans (Br.keeps_toll _ _ _)))
  exact (h.trans (Br.keeps_toll _ 5 (32 * n))).trans ⟨rfl, rfl⟩

theorem Br.keeps_mscEvict (r : Br) (b : Nat) (y : MscLine) : r.Keeps (r.mscEvict b y) :=
  (Br.keeps_ite _ (r.keeps_dramWrite b y.line) r.keeps_rfl).trans (Br.keeps_updDm _ _)

theorem Br.keeps_mscGrow (r : Br) (b : Nat) (x : MscLine) : r.Keeps (r.mscGrow b x) := by
  unfold Br.mscGrow
  simp only
  refine Br.Keeps.trans ?_ (Br.keeps_updDm _ _)
  split
  · exact (Br.keeps_foldl _ (fun r y => r.keeps_mscEvict b y) _ r).trans (Br.keeps_updDm _ _)
  · exact Br.keeps_foldl _ (fun r y => r.keeps_mscEvict b y) _ r

theorem Br.keeps_mscPut (r : Br) (b line : Nat) (secs : BitVec 4) (wr : Bool) : r.Keeps (r.mscPut b line secs wr) := by
  unfold Br.mscPut
  split
  · exact Br.keeps_mscGrow _ _ _
  · simp only
    refine Br.Keeps.trans ?_ (Br.keeps_mscGrow _ _ _)
    split
    · exact Br.keeps_mscEvict _ _ _
    · exact Br.keeps_rfl _

/-- A read by a bridge changes no byte. -/
theorem Br.keeps_read (r : Br) (die b line : Nat) (secs : BitVec 4) : r.Keeps (r.read die b line secs) := by
  unfold Br.read
  simp only
  refine Br.keeps_ite _ (r.keeps_request _ _ _ _) ?_
  refine ((r.keeps_request die b line false).trans ?_).trans (Br.keeps_mscPut _ _ _ _ _)
  exact Br.keeps_ite _ (Br.keeps_rfl _) (Br.keeps_dramRead _ _ _ _)

/-- A write-back through a bridge changes no byte of its own: what it writes stands at the home already. -/
theorem Br.keeps_write (r : Br) (die b line : Nat) (full : Bool) : r.Keeps (r.write die b line full) := by
  unfold Br.write
  simp only
  refine Br.keeps_ite _ ((r.keeps_request _ _ _ _).trans ⟨rfl, rfl⟩) ?_
  obtain ⟨t, ht⟩ : ∃ t, t = (if ~~~((r.request die b line true).mscSectors b line) = 0 then r.request die b line true
      else (r.request die b line true).dramRead b line (sectorCount (~~~((r.request die b line true).mscSectors b line)))) := ⟨_, rfl⟩
  rw [← ht]
  have h : r.Keeps (t.mscPut b line 0xF true) := by
    refine ((r.keeps_request die b line true).trans ?_).trans (t.keeps_mscPut b line 0xF true)
    rw [ht]
    exact Br.keeps_ite _ (Br.keeps_rfl _) (Br.keeps_dramRead _ _ _ _)
  exact Br.keeps_ite _ (h.trans ⟨rfl, rfl⟩) h

end Sys2Proof.Machine
end

