-- ==== Sys2Proof/Laws/Map.lean ====
section
/-! SUPPORT. What the finite maps do: reading after a write, after an erasure, after a change of every value; the sorted form is kept. -/

namespace Sys2Proof.Machine

variable {α : Type}

theorem FMap.get?_insert_self (m : FMap α) (k : Nat) (v : α) (h : FMap.get? m k = none) : FMap.get? (FMap.insert m k v) k = some v := by
  induction m with
  | nil => simp [FMap.insert, FMap.get?]
  | cons e m ih =>
    obtain ⟨k', v'⟩ := e
    simp only [FMap.get?] at h
    unfold FMap.insert
    split
    · simp [FMap.get?]
    · by_cases hk : k' = k
      · simp [hk] at h
      · simp [FMap.get?, hk]; exact ih (by simpa [hk] using h)

theorem FMap.get?_insert_ne (m : FMap α) (k j : Nat) (v : α) (h : j ≠ k) : FMap.get? (FMap.insert m k v) j = FMap.get? m j := by
  induction m with
  | nil => simp [FMap.insert, FMap.get?, h.symm]
  | cons e m ih =>
    obtain ⟨k', v'⟩ := e
    unfold FMap.insert
    split
    · simp [FMap.get?, h.symm]
    · simp [FMap.get?, ih]

@[simp] theorem FMap.get?_erase_self (m : FMap α) (k : Nat) : FMap.get? (FMap.erase m k) k = none := by
  induction m with
  | nil => rfl
  | cons e m ih =>
    obtain ⟨k', v'⟩ := e
    by_cases hk : k' = k
    · simpa [FMap.erase, hk] using ih
    · simp only [FMap.erase, ne_eq, decide_not] at ih ⊢
      simp [hk, FMap.get?, ih]

theorem FMap.get?_erase_ne (m : FMap α) (k j : Nat) (h : j ≠ k) : FMap.get? (FMap.erase m k) j = FMap.get? m j := by
  induction m with
  | nil => rfl
  | cons e m ih =>
    obtain ⟨k', v'⟩ := e
    simp only [FMap.erase, ne_eq, decide_not] at ih ⊢
    by_cases hk : k' = k
    · have : ¬ k = j := fun e => h e.symm
      simp [hk, FMap.get?, ih, this]
    · simp [hk, FMap.get?, ih]

/-- A key reads as it was set. -/
@[simp] theorem FMap.get?_put_self (m : FMap α) (k : Nat) (v : α) : FMap.get? (FMap.put m k v) k = some v :=
  FMap.get?_insert_self _ _ _ (FMap.get?_erase_self m k)

/-- Every other key reads as before. -/
theorem FMap.get?_put_ne (m : FMap α) (k j : Nat) (v : α) (h : j ≠ k) : FMap.get? (FMap.put m k v) j = FMap.get? m j := by
  rw [FMap.put, FMap.get?_insert_ne _ _ _ _ h, FMap.get?_erase_ne _ _ _ h]

theorem FMap.get?_put (m : FMap α) (k j : Nat) (v : α) : FMap.get? (FMap.put m k v) j = if j = k then some v else FMap.get? m j := by
  by_cases h : j = k
  · simp [h]
  · simp [h, FMap.get?_put_ne _ _ _ _ h]

@[simp] theorem FMap.getD_put_self (m : FMap α) (k : Nat) (v d : α) : FMap.getD (FMap.put m k v) k d = v := by simp [FMap.getD]

theorem FMap.getD_put_ne (m : FMap α) (k j : Nat) (v d : α) (h : j ≠ k) : FMap.getD (FMap.put m k v) j d = FMap.getD m j d := by
  simp [FMap.getD, FMap.get?_put_ne _ _ _ _ h]

theorem FMap.getD_put (m : FMap α) (k j : Nat) (v d : α) : FMap.getD (FMap.put m k v) j d = if j = k then v else FMap.getD m j d := by
  by_cases h : j = k
  · simp [h]
  · simp [h, FMap.getD_put_ne _ _ _ _ _ h]

theorem FMap.get?_mapV (m : FMap α) (f : Nat → α → α) (k : Nat) : FMap.get? (FMap.mapV m f) k = (FMap.get? m k).map (f k) := by
  induction m with
  | nil => rfl
  | cons e m ih =>
    obtain ⟨k', v'⟩ := e
    simp only [FMap.mapV, List.map_cons, FMap.get?] at ih ⊢
    by_cases hk : k' = k
    · simp [hk]
    · simp [hk, ih]

/-- A map over the values of a list of entries, the keys kept. -/
theorem FMap.get?_map (m : FMap α) (f : Nat × α → Nat × α) (hf : ∀ e, (f e).1 = e.1) (k : Nat) :
    FMap.get? (m.map f) k = (FMap.get? m k).map (fun v => (f (k, v)).2) := by
  induction m with
  | nil => rfl
  | cons e m ih =>
    obtain ⟨k', v'⟩ := e
    have h1 := hf (k', v')
    rcases hfe : f (k', v') with ⟨a, b⟩
    rw [hfe] at h1
    have h2 : a = k' := h1
    subst h2
    simp only [List.map_cons, FMap.get?, hfe]
    by_cases hk : a = k
    · subst hk; simp [hfe]
    · simp [hk, ih]

/-! ## The sorted form -/

theorem FMap.sorted_iff (m : FMap α) : FMap.sorted m = true ↔ (m.map (·.1)).Pairwise (· < ·) := by
  induction m with
  | nil => simp [FMap.sorted]
  | cons e m ih =>
    obtain ⟨k, v⟩ := e
    cases m with
    | nil => simp [FMap.sorted]
    | cons e' m =>
      obtain ⟨k', v'⟩ := e'
      simp only [FMap.sorted, Bool.and_eq_true, decide_eq_true_eq, ih, List.map_cons, List.pairwise_cons, List.mem_cons]
      constructor
      · rintro ⟨h, h1, h2⟩
        refine ⟨?_, h1, h2⟩
        rintro x (rfl | hx)
        · exact h
        · exact lt_trans h (h1 x hx)
      · rintro ⟨h, h1, h2⟩
        exact ⟨h k' (Or.inl rfl), h1, h2⟩

theorem FMap.sorted_erase (m : FMap α) (k : Nat) (h : FMap.sorted m = true) : FMap.sorted (FMap.erase m k) = true := by
  rw [FMap.sorted_iff] at h ⊢
  exact h.sublist ((List.filter_sublist).map _)

theorem FMap.mem_insert (m : FMap α) (k : Nat) (v : α) (e : Nat × α) : e ∈ FMap.insert m k v ↔ e = (k, v) ∨ e ∈ m := by
  induction m with
  | nil => simp [FMap.insert]
  | cons e' m ih =>
    obtain ⟨k', v'⟩ := e'
    unfold FMap.insert
    split
    · simp
    · simp [ih, or_left_comm]

theorem FMap.sorted_insert (m : FMap α) (k : Nat) (v : α) (h : FMap.sorted m = true) (hk : ∀ e ∈ m, e.1 ≠ k) :
    FMap.sorted (FMap.insert m k v) = true := by
  induction m with
  | nil => rfl
  | cons e m ih =>
    obtain ⟨k', v'⟩ := e
    rw [FMap.sorted_iff] at h
    simp only [List.map_cons, List.pairwise_cons, List.mem_map, forall_exists_index, and_imp, forall_apply_eq_imp_iff₂] at h
    obtain ⟨h1, h2⟩ := h
    have hm := ih ((FMap.sorted_iff m).2 h2) (fun e he => hk e (List.mem_cons_of_mem _ he))
    have hne : k' ≠ k := hk (k', v') List.mem_cons_self
    unfold FMap.insert
    split
    · rename_i hlt
      rw [FMap.sorted_iff]
      simp only [List.map_cons, List.pairwise_cons, List.mem_cons, List.mem_map, forall_eq_or_imp]
      refine ⟨⟨hlt, ?_⟩, ?_, h2⟩
      · rintro x ⟨e, he, rfl⟩; exact lt_trans hlt (h1 e he)
      · rintro x ⟨e, he, rfl⟩; exact h1 e he
    · rename_i hnl
      rw [FMap.sorted_iff] at hm ⊢
      simp only [List.map_cons, List.pairwise_cons, List.mem_map]
      refine ⟨?_, hm⟩
      rintro x ⟨e, he, rfl⟩
      rcases (FMap.mem_insert m k v e).1 he with rfl | he
      · exact lt_of_le_of_ne (not_lt.1 hnl) hne
      · exact h1 e he

/-- Setting a key keeps the sorted form. -/
theorem FMap.sorted_put (m : FMap α) (k : Nat) (v : α) (h : FMap.sorted m = true) : FMap.sorted (FMap.put m k v) = true :=
  FMap.sorted_insert _ _ _ (FMap.sorted_erase m k h) (fun e he => by simpa [FMap.erase] using (List.mem_filter.1 he).2)

end Sys2Proof.Machine
end

