-- ==== Sys2Proof/Laws/State.lean ====
section
/-! SUPPORT. What each update of the state leaves alone, field by field, and what a part of the state reads after it. -/

namespace Sys2Proof.Machine

/-! ## putDie -/

@[simp] theorem State.putDie_fit (s : State) (d : Nat) (x : Die) : (s.putDie d x).fit = s.fit := rfl
@[simp] theorem State.putDie_pkg (s : State) (d : Nat) (x : Die) : (s.putDie d x).pkg = s.pkg := rfl
@[simp] theorem State.putDie_mem (s : State) (d : Nat) (x : Die) : (s.putDie d x).mem = s.mem := rfl
@[simp] theorem State.putDie_cores (s : State) (d : Nat) (x : Die) : (s.putDie d x).cores = s.cores := rfl
@[simp] theorem State.putDie_ctxs (s : State) (d : Nat) (x : Die) : (s.putDie d x).ctxs = s.ctxs := rfl
@[simp] theorem State.putDie_blocks (s : State) (d : Nat) (x : Die) : (s.putDie d x).blocks = s.blocks := rfl
@[simp] theorem State.putDie_clusters (s : State) (d : Nat) (x : Die) : (s.putDie d x).clusters = s.clusters := rfl
@[simp] theorem State.putDie_groups (s : State) (d : Nat) (x : Die) : (s.putDie d x).groups = s.groups := rfl
@[simp] theorem State.putDie_ops (s : State) (d : Nat) (x : Die) : (s.putDie d x).ops = s.ops := rfl
@[simp] theorem State.putDie_launches (s : State) (d : Nat) (x : Die) : (s.putDie d x).launches = s.launches := rfl
@[simp] theorem State.putDie_insts (s : State) (d : Nat) (x : Die) : (s.putDie d x).insts = s.insts := rfl
@[simp] theorem State.putDie_frames (s : State) (d : Nat) (x : Die) : (s.putDie d x).frames = s.frames := rfl
@[simp] theorem State.putDie_children (s : State) (d : Nat) (x : Die) : (s.putDie d x).children = s.children := rfl
@[simp] theorem State.putDie_traps (s : State) (d : Nat) (x : Die) : (s.putDie d x).traps = s.traps := rfl
@[simp] theorem State.putDie_flight (s : State) (d : Nat) (x : Die) : (s.putDie d x).flight = s.flight := rfl
@[simp] theorem State.putDie_model (s : State) (d : Nat) (x : Die) : (s.putDie d x).model = s.model := rfl

/-! ## putCore -/

@[simp] theorem State.putCore_fit (s : State) (d c : Nat) (x : Core) : (s.putCore d c x).fit = s.fit := rfl
@[simp] theorem State.putCore_pkg (s : State) (d c : Nat) (x : Core) : (s.putCore d c x).pkg = s.pkg := rfl
@[simp] theorem State.putCore_mem (s : State) (d c : Nat) (x : Core) : (s.putCore d c x).mem = s.mem := rfl
@[simp] theorem State.putCore_dies (s : State) (d c : Nat) (x : Core) : (s.putCore d c x).dies = s.dies := rfl
@[simp] theorem State.putCore_ctxs (s : State) (d c : Nat) (x : Core) : (s.putCore d c x).ctxs = s.ctxs := rfl
@[simp] theorem State.putCore_blocks (s : State) (d c : Nat) (x : Core) : (s.putCore d c x).blocks = s.blocks := rfl
@[simp] theorem State.putCore_clusters (s : State) (d c : Nat) (x : Core) : (s.putCore d c x).clusters = s.clusters := rfl
@[simp] theorem State.putCore_groups (s : State) (d c : Nat) (x : Core) : (s.putCore d c x).groups = s.groups := rfl
@[simp] theorem State.putCore_ops (s : State) (d c : Nat) (x : Core) : (s.putCore d c x).ops = s.ops := rfl
@[simp] theorem State.putCore_launches (s : State) (d c : Nat) (x : Core) : (s.putCore d c x).launches = s.launches := rfl
@[simp] theorem State.putCore_insts (s : State) (d c : Nat) (x : Core) : (s.putCore d c x).insts = s.insts := rfl
@[simp] theorem State.putCore_frames (s : State) (d c : Nat) (x : Core) : (s.putCore d c x).frames = s.frames := rfl
@[simp] theorem State.putCore_children (s : State) (d c : Nat) (x : Core) : (s.putCore d c x).children = s.children := rfl
@[simp] theorem State.putCore_traps (s : State) (d c : Nat) (x : Core) : (s.putCore d c x).traps = s.traps := rfl
@[simp] theorem State.putCore_flight (s : State) (d c : Nat) (x : Core) : (s.putCore d c x).flight = s.flight := rfl
@[simp] theorem State.putCore_model (s : State) (d c : Nat) (x : Core) : (s.putCore d c x).model = s.model := rfl

/-! ## putCtx -/

@[simp] theorem State.putCtx_fit (s : State) (d n : Nat) (x : Ctx) : (s.putCtx d n x).fit = s.fit := rfl
@[simp] theorem State.putCtx_pkg (s : State) (d n : Nat) (x : Ctx) : (s.putCtx d n x).pkg = s.pkg := rfl
@[simp] theorem State.putCtx_mem (s : State) (d n : Nat) (x : Ctx) : (s.putCtx d n x).mem = s.mem := rfl
@[simp] theorem State.putCtx_dies (s : State) (d n : Nat) (x : Ctx) : (s.putCtx d n x).dies = s.dies := rfl
@[simp] theorem State.putCtx_cores (s : State) (d n : Nat) (x : Ctx) : (s.putCtx d n x).cores = s.cores := rfl
@[simp] theorem State.putCtx_blocks (s : State) (d n : Nat) (x : Ctx) : (s.putCtx d n x).blocks = s.blocks := rfl
@[simp] theorem State.putCtx_clusters (s : State) (d n : Nat) (x : Ctx) : (s.putCtx d n x).clusters = s.clusters := rfl
@[simp] theorem State.putCtx_groups (s : State) (d n : Nat) (x : Ctx) : (s.putCtx d n x).groups = s.groups := rfl
@[simp] theorem State.putCtx_ops (s : State) (d n : Nat) (x : Ctx) : (s.putCtx d n x).ops = s.ops := rfl
@[simp] theorem State.putCtx_launches (s : State) (d n : Nat) (x : Ctx) : (s.putCtx d n x).launches = s.launches := rfl
@[simp] theorem State.putCtx_insts (s : State) (d n : Nat) (x : Ctx) : (s.putCtx d n x).insts = s.insts := rfl
@[simp] theorem State.putCtx_frames (s : State) (d n : Nat) (x : Ctx) : (s.putCtx d n x).frames = s.frames := rfl
@[simp] theorem State.putCtx_children (s : State) (d n : Nat) (x : Ctx) : (s.putCtx d n x).children = s.children := rfl
@[simp] theorem State.putCtx_traps (s : State) (d n : Nat) (x : Ctx) : (s.putCtx d n x).traps = s.traps := rfl
@[simp] theorem State.putCtx_flight (s : State) (d n : Nat) (x : Ctx) : (s.putCtx d n x).flight = s.flight := rfl
@[simp] theorem State.putCtx_model (s : State) (d n : Nat) (x : Ctx) : (s.putCtx d n x).model = s.model := rfl

/-! ## putGroup -/

@[simp] theorem State.putGroup_fit (s : State) (i : Nat) (x : Group) : (s.putGroup i x).fit = s.fit := rfl
@[simp] theorem State.putGroup_pkg (s : State) (i : Nat) (x : Group) : (s.putGroup i x).pkg = s.pkg := rfl
@[simp] theorem State.putGroup_mem (s : State) (i : Nat) (x : Group) : (s.putGroup i x).mem = s.mem := rfl
@[simp] theorem State.putGroup_dies (s : State) (i : Nat) (x : Group) : (s.putGroup i x).dies = s.dies := rfl
@[simp] theorem State.putGroup_cores (s : State) (i : Nat) (x : Group) : (s.putGroup i x).cores = s.cores := rfl
@[simp] theorem State.putGroup_ctxs (s : State) (i : Nat) (x : Group) : (s.putGroup i x).ctxs = s.ctxs := rfl
@[simp] theorem State.putGroup_blocks (s : State) (i : Nat) (x : Group) : (s.putGroup i x).blocks = s.blocks := rfl
@[simp] theorem State.putGroup_clusters (s : State) (i : Nat) (x : Group) : (s.putGroup i x).clusters = s.clusters := rfl
@[simp] theorem State.putGroup_ops (s : State) (i : Nat) (x : Group) : (s.putGroup i x).ops = s.ops := rfl
@[simp] theorem State.putGroup_launches (s : State) (i : Nat) (x : Group) : (s.putGroup i x).launches = s.launches := rfl
@[simp] theorem State.putGroup_insts (s : State) (i : Nat) (x : Group) : (s.putGroup i x).insts = s.insts := rfl
@[simp] theorem State.putGroup_frames (s : State) (i : Nat) (x : Group) : (s.putGroup i x).frames = s.frames := rfl
@[simp] theorem State.putGroup_children (s : State) (i : Nat) (x : Group) : (s.putGroup i x).children = s.children := rfl
@[simp] theorem State.putGroup_traps (s : State) (i : Nat) (x : Group) : (s.putGroup i x).traps = s.traps := rfl
@[simp] theorem State.putGroup_flight (s : State) (i : Nat) (x : Group) : (s.putGroup i x).flight = s.flight := rfl
@[simp] theorem State.putGroup_model (s : State) (i : Nat) (x : Group) : (s.putGroup i x).model = s.model := rfl

/-! ## putBlock -/

@[simp] theorem State.putBlock_fit (s : State) (i : Nat) (x : Block) : (s.putBlock i x).fit = s.fit := rfl
@[simp] theorem State.putBlock_pkg (s : State) (i : Nat) (x : Block) : (s.putBlock i x).pkg = s.pkg := rfl
@[simp] theorem State.putBlock_mem (s : State) (i : Nat) (x : Block) : (s.putBlock i x).mem = s.mem := rfl
@[simp] theorem State.putBlock_dies (s : State) (i : Nat) (x : Block) : (s.putBlock i x).dies = s.dies := rfl
@[simp] theorem State.putBlock_cores (s : State) (i : Nat) (x : Block) : (s.putBlock i x).cores = s.cores := rfl
@[simp] theorem State.putBlock_ctxs (s : State) (i : Nat) (x : Block) : (s.putBlock i x).ctxs = s.ctxs := rfl
@[simp] theorem State.putBlock_clusters (s : State) (i : Nat) (x : Block) : (s.putBlock i x).clusters = s.clusters := rfl
@[simp] theorem State.putBlock_groups (s : State) (i : Nat) (x : Block) : (s.putBlock i x).groups = s.groups := rfl
@[simp] theorem State.putBlock_ops (s : State) (i : Nat) (x : Block) : (s.putBlock i x).ops = s.ops := rfl
@[simp] theorem State.putBlock_launches (s : State) (i : Nat) (x : Block) : (s.putBlock i x).launches = s.launches := rfl
@[simp] theorem State.putBlock_insts (s : State) (i : Nat) (x : Block) : (s.putBlock i x).insts = s.insts := rfl
@[simp] theorem State.putBlock_frames (s : State) (i : Nat) (x : Block) : (s.putBlock i x).frames = s.frames := rfl
@[simp] theorem State.putBlock_children (s : State) (i : Nat) (x : Block) : (s.putBlock i x).children = s.children := rfl
@[simp] theorem State.putBlock_traps (s : State) (i : Nat) (x : Block) : (s.putBlock i x).traps = s.traps := rfl
@[simp] theorem State.putBlock_flight (s : State) (i : Nat) (x : Block) : (s.putBlock i x).flight = s.flight := rfl
@[simp] theorem State.putBlock_model (s : State) (i : Nat) (x : Block) : (s.putBlock i x).model = s.model := rfl

/-! ## putCluster -/

@[simp] theorem State.putCluster_fit (s : State) (i : Nat) (x : Cluster) : (s.putCluster i x).fit = s.fit := rfl
@[simp] theorem State.putCluster_pkg (s : State) (i : Nat) (x : Cluster) : (s.putCluster i x).pkg = s.pkg := rfl
@[simp] theorem State.putCluster_mem (s : State) (i : Nat) (x : Cluster) : (s.putCluster i x).mem = s.mem := rfl
@[simp] theorem State.putCluster_dies (s : State) (i : Nat) (x : Cluster) : (s.putCluster i x).dies = s.dies := rfl
@[simp] theorem State.putCluster_cores (s : State) (i : Nat) (x : Cluster) : (s.putCluster i x).cores = s.cores := rfl
@[simp] theorem State.putCluster_ctxs (s : State) (i : Nat) (x : Cluster) : (s.putCluster i x).ctxs = s.ctxs := rfl
@[simp] theorem State.putCluster_blocks (s : State) (i : Nat) (x : Cluster) : (s.putCluster i x).blocks = s.blocks := rfl
@[simp] theorem State.putCluster_groups (s : State) (i : Nat) (x : Cluster) : (s.putCluster i x).groups = s.groups := rfl
@[simp] theorem State.putCluster_ops (s : State) (i : Nat) (x : Cluster) : (s.putCluster i x).ops = s.ops := rfl
@[simp] theorem State.putCluster_launches (s : State) (i : Nat) (x : Cluster) : (s.putCluster i x).launches = s.launches := rfl
@[simp] theorem State.putCluster_insts (s : State) (i : Nat) (x : Cluster) : (s.putCluster i x).insts = s.insts := rfl
@[simp] theorem State.putCluster_frames (s : State) (i : Nat) (x : Cluster) : (s.putCluster i x).frames = s.frames := rfl
@[simp] theorem State.putCluster_children (s : State) (i : Nat) (x : Cluster) : (s.putCluster i x).children = s.children := rfl
@[simp] theorem State.putCluster_traps (s : State) (i : Nat) (x : Cluster) : (s.putCluster i x).traps = s.traps := rfl
@[simp] theorem State.putCluster_flight (s : State) (i : Nat) (x : Cluster) : (s.putCluster i x).flight = s.flight := rfl
@[simp] theorem State.putCluster_model (s : State) (i : Nat) (x : Cluster) : (s.putCluster i x).model = s.model := rfl

/-! ## putOp -/

@[simp] theorem State.putOp_fit (s : State) (i : Nat) (x : EngOp) : (s.putOp i x).fit = s.fit := rfl
@[simp] theorem State.putOp_pkg (s : State) (i : Nat) (x : EngOp) : (s.putOp i x).pkg = s.pkg := rfl
@[simp] theorem State.putOp_mem (s : State) (i : Nat) (x : EngOp) : (s.putOp i x).mem = s.mem := rfl
@[simp] theorem State.putOp_dies (s : State) (i : Nat) (x : EngOp) : (s.putOp i x).dies = s.dies := rfl
@[simp] theorem State.putOp_cores (s : State) (i : Nat) (x : EngOp) : (s.putOp i x).cores = s.cores := rfl
@[simp] theorem State.putOp_ctxs (s : State) (i : Nat) (x : EngOp) : (s.putOp i x).ctxs = s.ctxs := rfl
@[simp] theorem State.putOp_blocks (s : State) (i : Nat) (x : EngOp) : (s.putOp i x).blocks = s.blocks := rfl
@[simp] theorem State.putOp_clusters (s : State) (i : Nat) (x : EngOp) : (s.putOp i x).clusters = s.clusters := rfl
@[simp] theorem State.putOp_groups (s : State) (i : Nat) (x : EngOp) : (s.putOp i x).groups = s.groups := rfl
@[simp] theorem State.putOp_launches (s : State) (i : Nat) (x : EngOp) : (s.putOp i x).launches = s.launches := rfl
@[simp] theorem State.putOp_insts (s : State) (i : Nat) (x : EngOp) : (s.putOp i x).insts = s.insts := rfl
@[simp] theorem State.putOp_frames (s : State) (i : Nat) (x : EngOp) : (s.putOp i x).frames = s.frames := rfl
@[simp] theorem State.putOp_children (s : State) (i : Nat) (x : EngOp) : (s.putOp i x).children = s.children := rfl
@[simp] theorem State.putOp_traps (s : State) (i : Nat) (x : EngOp) : (s.putOp i x).traps = s.traps := rfl
@[simp] theorem State.putOp_flight (s : State) (i : Nat) (x : EngOp) : (s.putOp i x).flight = s.flight := rfl
@[simp] theorem State.putOp_model (s : State) (i : Nat) (x : EngOp) : (s.putOp i x).model = s.model := rfl

/-! ## putLaunch -/

@[simp] theorem State.putLaunch_fit (s : State) (i : Nat) (x : Launch) : (s.putLaunch i x).fit = s.fit := rfl
@[simp] theorem State.putLaunch_pkg (s : State) (i : Nat) (x : Launch) : (s.putLaunch i x).pkg = s.pkg := rfl
@[simp] theorem State.putLaunch_mem (s : State) (i : Nat) (x : Launch) : (s.putLaunch i x).mem = s.mem := rfl
@[simp] theorem State.putLaunch_dies (s : State) (i : Nat) (x : Launch) : (s.putLaunch i x).dies = s.dies := rfl
@[simp] theorem State.putLaunch_cores (s : State) (i : Nat) (x : Launch) : (s.putLaunch i x).cores = s.cores := rfl
@[simp] theorem State.putLaunch_ctxs (s : State) (i : Nat) (x : Launch) : (s.putLaunch i x).ctxs = s.ctxs := rfl
@[simp] theorem State.putLaunch_blocks (s : State) (i : Nat) (x : Launch) : (s.putLaunch i x).blocks = s.blocks := rfl
@[simp] theorem State.putLaunch_clusters (s : State) (i : Nat) (x : Launch) : (s.putLaunch i x).clusters = s.clusters := rfl
@[simp] theorem State.putLaunch_groups (s : State) (i : Nat) (x : Launch) : (s.putLaunch i x).groups = s.groups := rfl
@[simp] theorem State.putLaunch_ops (s : State) (i : Nat) (x : Launch) : (s.putLaunch i x).ops = s.ops := rfl
@[simp] theorem State.putLaunch_insts (s : State) (i : Nat) (x : Launch) : (s.putLaunch i x).insts = s.insts := rfl
@[simp] theorem State.putLaunch_frames (s : State) (i : Nat) (x : Launch) : (s.putLaunch i x).frames = s.frames := rfl
@[simp] theorem State.putLaunch_children (s : State) (i : Nat) (x : Launch) : (s.putLaunch i x).children = s.children := rfl
@[simp] theorem State.putLaunch_traps (s : State) (i : Nat) (x : Launch) : (s.putLaunch i x).traps = s.traps := rfl
@[simp] theorem State.putLaunch_flight (s : State) (i : Nat) (x : Launch) : (s.putLaunch i x).flight = s.flight := rfl
@[simp] theorem State.putLaunch_model (s : State) (i : Nat) (x : Launch) : (s.putLaunch i x).model = s.model := rfl

/-! ## putInst -/

@[simp] theorem State.putInst_fit (s : State) (i : Nat) (x : Inst) : (s.putInst i x).fit = s.fit := rfl
@[simp] theorem State.putInst_pkg (s : State) (i : Nat) (x : Inst) : (s.putInst i x).pkg = s.pkg := rfl
@[simp] theorem State.putInst_mem (s : State) (i : Nat) (x : Inst) : (s.putInst i x).mem = s.mem := rfl
@[simp] theorem State.putInst_dies (s : State) (i : Nat) (x : Inst) : (s.putInst i x).dies = s.dies := rfl
@[simp] theorem State.putInst_cores (s : State) (i : Nat) (x : Inst) : (s.putInst i x).cores = s.cores := rfl
@[simp] theorem State.putInst_ctxs (s : State) (i : Nat) (x : Inst) : (s.putInst i x).ctxs = s.ctxs := rfl
@[simp] theorem State.putInst_blocks (s : State) (i : Nat) (x : Inst) : (s.putInst i x).blocks = s.blocks := rfl
@[simp] theorem State.putInst_clusters (s : State) (i : Nat) (x : Inst) : (s.putInst i x).clusters = s.clusters := rfl
@[simp] theorem State.putInst_groups (s : State) (i : Nat) (x : Inst) : (s.putInst i x).groups = s.groups := rfl
@[simp] theorem State.putInst_ops (s : State) (i : Nat) (x : Inst) : (s.putInst i x).ops = s.ops := rfl
@[simp] theorem State.putInst_launches (s : State) (i : Nat) (x : Inst) : (s.putInst i x).launches = s.launches := rfl
@[simp] theorem State.putInst_frames (s : State) (i : Nat) (x : Inst) : (s.putInst i x).frames = s.frames := rfl
@[simp] theorem State.putInst_children (s : State) (i : Nat) (x : Inst) : (s.putInst i x).children = s.children := rfl
@[simp] theorem State.putInst_traps (s : State) (i : Nat) (x : Inst) : (s.putInst i x).traps = s.traps := rfl
@[simp] theorem State.putInst_flight (s : State) (i : Nat) (x : Inst) : (s.putInst i x).flight = s.flight := rfl
@[simp] theorem State.putInst_model (s : State) (i : Nat) (x : Inst) : (s.putInst i x).model = s.model := rfl

/-! ## putFrame -/

@[simp] theorem State.putFrame_fit (s : State) (i : Nat) (x : Frame) : (s.putFrame i x).fit = s.fit := rfl
@[simp] theorem State.putFrame_pkg (s : State) (i : Nat) (x : Frame) : (s.putFrame i x).pkg = s.pkg := rfl
@[simp] theorem State.putFrame_mem (s : State) (i : Nat) (x : Frame) : (s.putFrame i x).mem = s.mem := rfl
@[simp] theorem State.putFrame_dies (s : State) (i : Nat) (x : Frame) : (s.putFrame i x).dies = s.dies := rfl
@[simp] theorem State.putFrame_cores (s : State) (i : Nat) (x : Frame) : (s.putFrame i x).cores = s.cores := rfl
@[simp] theorem State.putFrame_ctxs (s : State) (i : Nat) (x : Frame) : (s.putFrame i x).ctxs = s.ctxs := rfl
@[simp] theorem State.putFrame_blocks (s : State) (i : Nat) (x : Frame) : (s.putFrame i x).blocks = s.blocks := rfl
@[simp] theorem State.putFrame_clusters (s : State) (i : Nat) (x : Frame) : (s.putFrame i x).clusters = s.clusters := rfl
@[simp] theorem State.putFrame_groups (s : State) (i : Nat) (x : Frame) : (s.putFrame i x).groups = s.groups := rfl
@[simp] theorem State.putFrame_ops (s : State) (i : Nat) (x : Frame) : (s.putFrame i x).ops = s.ops := rfl
@[simp] theorem State.putFrame_launches (s : State) (i : Nat) (x : Frame) : (s.putFrame i x).launches = s.launches := rfl
@[simp] theorem State.putFrame_insts (s : State) (i : Nat) (x : Frame) : (s.putFrame i x).insts = s.insts := rfl
@[simp] theorem State.putFrame_children (s : State) (i : Nat) (x : Frame) : (s.putFrame i x).children = s.children := rfl
@[simp] theorem State.putFrame_traps (s : State) (i : Nat) (x : Frame) : (s.putFrame i x).traps = s.traps := rfl
@[simp] theorem State.putFrame_flight (s : State) (i : Nat) (x : Frame) : (s.putFrame i x).flight = s.flight := rfl
@[simp] theorem State.putFrame_model (s : State) (i : Nat) (x : Frame) : (s.putFrame i x).model = s.model := rfl

/-! ## putChild -/

@[simp] theorem State.putChild_fit (s : State) (i : Nat) (x : Child) : (s.putChild i x).fit = s.fit := rfl
@[simp] theorem State.putChild_pkg (s : State) (i : Nat) (x : Child) : (s.putChild i x).pkg = s.pkg := rfl
@[simp] theorem State.putChild_mem (s : State) (i : Nat) (x : Child) : (s.putChild i x).mem = s.mem := rfl
@[simp] theorem State.putChild_dies (s : State) (i : Nat) (x : Child) : (s.putChild i x).dies = s.dies := rfl
@[simp] theorem State.putChild_cores (s : State) (i : Nat) (x : Child) : (s.putChild i x).cores = s.cores := rfl
@[simp] theorem State.putChild_ctxs (s : State) (i : Nat) (x : Child) : (s.putChild i x).ctxs = s.ctxs := rfl
@[simp] theorem State.putChild_blocks (s : State) (i : Nat) (x : Child) : (s.putChild i x).blocks = s.blocks := rfl
@[simp] theorem State.putChild_clusters (s : State) (i : Nat) (x : Child) : (s.putChild i x).clusters = s.clusters := rfl
@[simp] theorem State.putChild_groups (s : State) (i : Nat) (x : Child) : (s.putChild i x).groups = s.groups := rfl
@[simp] theorem State.putChild_ops (s : State) (i : Nat) (x : Child) : (s.putChild i x).ops = s.ops := rfl
@[simp] theorem State.putChild_launches (s : State) (i : Nat) (x : Child) : (s.putChild i x).launches = s.launches := rfl
@[simp] theorem State.putChild_insts (s : State) (i : Nat) (x : Child) : (s.putChild i x).insts = s.insts := rfl
@[simp] theorem State.putChild_frames (s : State) (i : Nat) (x : Child) : (s.putChild i x).frames = s.frames := rfl
@[simp] theorem State.putChild_traps (s : State) (i : Nat) (x : Child) : (s.putChild i x).traps = s.traps := rfl
@[simp] theorem State.putChild_flight (s : State) (i : Nat) (x : Child) : (s.putChild i x).flight = s.flight := rfl
@[simp] theorem State.putChild_model (s : State) (i : Nat) (x : Child) : (s.putChild i x).model = s.model := rfl

/-! ## putTrap -/

@[simp] theorem State.putTrap_fit (s : State) (i : Nat) (x : Trap) : (s.putTrap i x).fit = s.fit := rfl
@[simp] theorem State.putTrap_pkg (s : State) (i : Nat) (x : Trap) : (s.putTrap i x).pkg = s.pkg := rfl
@[simp] theorem State.putTrap_mem (s : State) (i : Nat) (x : Trap) : (s.putTrap i x).mem = s.mem := rfl
@[simp] theorem State.putTrap_dies (s : State) (i : Nat) (x : Trap) : (s.putTrap i x).dies = s.dies := rfl
@[simp] theorem State.putTrap_cores (s : State) (i : Nat) (x : Trap) : (s.putTrap i x).cores = s.cores := rfl
@[simp] theorem State.putTrap_ctxs (s : State) (i : Nat) (x : Trap) : (s.putTrap i x).ctxs = s.ctxs := rfl
@[simp] theorem State.putTrap_blocks (s : State) (i : Nat) (x : Trap) : (s.putTrap i x).blocks = s.blocks := rfl
@[simp] theorem State.putTrap_clusters (s : State) (i : Nat) (x : Trap) : (s.putTrap i x).clusters = s.clusters := rfl
@[simp] theorem State.putTrap_groups (s : State) (i : Nat) (x : Trap) : (s.putTrap i x).groups = s.groups := rfl
@[simp] theorem State.putTrap_ops (s : State) (i : Nat) (x : Trap) : (s.putTrap i x).ops = s.ops := rfl
@[simp] theorem State.putTrap_launches (s : State) (i : Nat) (x : Trap) : (s.putTrap i x).launches = s.launches := rfl
@[simp] theorem State.putTrap_insts (s : State) (i : Nat) (x : Trap) : (s.putTrap i x).insts = s.insts := rfl
@[simp] theorem State.putTrap_frames (s : State) (i : Nat) (x : Trap) : (s.putTrap i x).frames = s.frames := rfl
@[simp] theorem State.putTrap_children (s : State) (i : Nat) (x : Trap) : (s.putTrap i x).children = s.children := rfl
@[simp] theorem State.putTrap_flight (s : State) (i : Nat) (x : Trap) : (s.putTrap i x).flight = s.flight := rfl
@[simp] theorem State.putTrap_model (s : State) (i : Nat) (x : Trap) : (s.putTrap i x).model = s.model := rfl

/-! ## updDie -/

@[simp] theorem State.updDie_fit (s : State) (d : Nat) (f : Die → Die) : (s.updDie d f).fit = s.fit := rfl
@[simp] theorem State.updDie_pkg (s : State) (d : Nat) (f : Die → Die) : (s.updDie d f).pkg = s.pkg := rfl
@[simp] theorem State.updDie_mem (s : State) (d : Nat) (f : Die → Die) : (s.updDie d f).mem = s.mem := rfl
@[simp] theorem State.updDie_cores (s : State) (d : Nat) (f : Die → Die) : (s.updDie d f).cores = s.cores := rfl
@[simp] theorem State.updDie_ctxs (s : State) (d : Nat) (f : Die → Die) : (s.updDie d f).ctxs = s.ctxs := rfl
@[simp] theorem State.updDie_blocks (s : State) (d : Nat) (f : Die → Die) : (s.updDie d f).blocks = s.blocks := rfl
@[simp] theorem State.updDie_clusters (s : State) (d : Nat) (f : Die → Die) : (s.updDie d f).clusters = s.clusters := rfl
@[simp] theorem State.updDie_groups (s : State) (d : Nat) (f : Die → Die) : (s.updDie d f).groups = s.groups := rfl
@[simp] theorem State.updDie_ops (s : State) (d : Nat) (f : Die → Die) : (s.updDie d f).ops = s.ops := rfl
@[simp] theorem State.updDie_launches (s : State) (d : Nat) (f : Die → Die) : (s.updDie d f).launches = s.launches := rfl
@[simp] theorem State.updDie_insts (s : State) (d : Nat) (f : Die → Die) : (s.updDie d f).insts = s.insts := rfl
@[simp] theorem State.updDie_frames (s : State) (d : Nat) (f : Die → Die) : (s.updDie d f).frames = s.frames := rfl
@[simp] theorem State.updDie_children (s : State) (d : Nat) (f : Die → Die) : (s.updDie d f).children = s.children := rfl
@[simp] theorem State.updDie_traps (s : State) (d : Nat) (f : Die → Die) : (s.updDie d f).traps = s.traps := rfl
@[simp] theorem State.updDie_flight (s : State) (d : Nat) (f : Die → Die) : (s.updDie d f).flight = s.flight := rfl
@[simp] theorem State.updDie_model (s : State) (d : Nat) (f : Die → Die) : (s.updDie d f).model = s.model := rfl

/-! ## updCore -/

@[simp] theorem State.updCore_fit (s : State) (d c : Nat) (f : Core → Core) : (s.updCore d c f).fit = s.fit := rfl
@[simp] theorem State.updCore_pkg (s : State) (d c : Nat) (f : Core → Core) : (s.updCore d c f).pkg = s.pkg := rfl
@[simp] theorem State.updCore_mem (s : State) (d c : Nat) (f : Core → Core) : (s.updCore d c f).mem = s.mem := rfl
@[simp] theorem State.updCore_dies (s : State) (d c : Nat) (f : Core → Core) : (s.updCore d c f).dies = s.dies := rfl
@[simp] theorem State.updCore_ctxs (s : State) (d c : Nat) (f : Core → Core) : (s.updCore d c f).ctxs = s.ctxs := rfl
@[simp] theorem State.updCore_blocks (s : State) (d c : Nat) (f : Core → Core) : (s.updCore d c f).blocks = s.blocks := rfl
@[simp] theorem State.updCore_clusters (s : State) (d c : Nat) (f : Core → Core) : (s.updCore d c f).clusters = s.clusters := rfl
@[simp] theorem State.updCore_groups (s : State) (d c : Nat) (f : Core → Core) : (s.updCore d c f).groups = s.groups := rfl
@[simp] theorem State.updCore_ops (s : State) (d c : Nat) (f : Core → Core) : (s.updCore d c f).ops = s.ops := rfl
@[simp] theorem State.updCore_launches (s : State) (d c : Nat) (f : Core → Core) : (s.updCore d c f).launches = s.launches := rfl
@[simp] theorem State.updCore_insts (s : State) (d c : Nat) (f : Core → Core) : (s.updCore d c f).insts = s.insts := rfl
@[simp] theorem State.updCore_frames (s : State) (d c : Nat) (f : Core → Core) : (s.updCore d c f).frames = s.frames := rfl
@[simp] theorem State.updCore_children (s : State) (d c : Nat) (f : Core → Core) : (s.updCore d c f).children = s.children := rfl
@[simp] theorem State.updCore_traps (s : State) (d c : Nat) (f : Core → Core) : (s.updCore d c f).traps = s.traps := rfl
@[simp] theorem State.updCore_flight (s : State) (d c : Nat) (f : Core → Core) : (s.updCore d c f).flight = s.flight := rfl
@[simp] theorem State.updCore_model (s : State) (d c : Nat) (f : Core → Core) : (s.updCore d c f).model = s.model := rfl

/-! ## updCtx -/

@[simp] theorem State.updCtx_fit (s : State) (d n : Nat) (f : Ctx → Ctx) : (s.updCtx d n f).fit = s.fit := rfl
@[simp] theorem State.updCtx_pkg (s : State) (d n : Nat) (f : Ctx → Ctx) : (s.updCtx d n f).pkg = s.pkg := rfl
@[simp] theorem State.updCtx_mem (s : State) (d n : Nat) (f : Ctx → Ctx) : (s.updCtx d n f).mem = s.mem := rfl
@[simp] theorem State.updCtx_dies (s : State) (d n : Nat) (f : Ctx → Ctx) : (s.updCtx d n f).dies = s.dies := rfl
@[simp] theorem State.updCtx_cores (s : State) (d n : Nat) (f : Ctx → Ctx) : (s.updCtx d n f).cores = s.cores := rfl
@[simp] theorem State.updCtx_blocks (s : State) (d n : Nat) (f : Ctx → Ctx) : (s.updCtx d n f).blocks = s.blocks := rfl
@[simp] theorem State.updCtx_clusters (s : State) (d n : Nat) (f : Ctx → Ctx) : (s.updCtx d n f).clusters = s.clusters := rfl
@[simp] theorem State.updCtx_groups (s : State) (d n : Nat) (f : Ctx → Ctx) : (s.updCtx d n f).groups = s.groups := rfl
@[simp] theorem State.updCtx_ops (s : State) (d n : Nat) (f : Ctx → Ctx) : (s.updCtx d n f).ops = s.ops := rfl
@[simp] theorem State.updCtx_launches (s : State) (d n : Nat) (f : Ctx → Ctx) : (s.updCtx d n f).launches = s.launches := rfl
@[simp] theorem State.updCtx_insts (s : State) (d n : Nat) (f : Ctx → Ctx) : (s.updCtx d n f).insts = s.insts := rfl
@[simp] theorem State.updCtx_frames (s : State) (d n : Nat) (f : Ctx → Ctx) : (s.updCtx d n f).frames = s.frames := rfl
@[simp] theorem State.updCtx_children (s : State) (d n : Nat) (f : Ctx → Ctx) : (s.updCtx d n f).children = s.children := rfl
@[simp] theorem State.updCtx_traps (s : State) (d n : Nat) (f : Ctx → Ctx) : (s.updCtx d n f).traps = s.traps := rfl
@[simp] theorem State.updCtx_flight (s : State) (d n : Nat) (f : Ctx → Ctx) : (s.updCtx d n f).flight = s.flight := rfl
@[simp] theorem State.updCtx_model (s : State) (d n : Nat) (f : Ctx → Ctx) : (s.updCtx d n f).model = s.model := rfl

/-! ## updMg -/

@[simp] theorem State.updMg_fit (s : State) (d : Nat) (f : DieMgmt → DieMgmt) : (s.updMg d f).fit = s.fit := rfl
@[simp] theorem State.updMg_pkg (s : State) (d : Nat) (f : DieMgmt → DieMgmt) : (s.updMg d f).pkg = s.pkg := rfl
@[simp] theorem State.updMg_mem (s : State) (d : Nat) (f : DieMgmt → DieMgmt) : (s.updMg d f).mem = s.mem := rfl
@[simp] theorem State.updMg_cores (s : State) (d : Nat) (f : DieMgmt → DieMgmt) : (s.updMg d f).cores = s.cores := rfl
@[simp] theorem State.updMg_ctxs (s : State) (d : Nat) (f : DieMgmt → DieMgmt) : (s.updMg d f).ctxs = s.ctxs := rfl
@[simp] theorem State.updMg_blocks (s : State) (d : Nat) (f : DieMgmt → DieMgmt) : (s.updMg d f).blocks = s.blocks := rfl
@[simp] theorem State.updMg_clusters (s : State) (d : Nat) (f : DieMgmt → DieMgmt) : (s.updMg d f).clusters = s.clusters := rfl
@[simp] theorem State.updMg_groups (s : State) (d : Nat) (f : DieMgmt → DieMgmt) : (s.updMg d f).groups = s.groups := rfl
@[simp] theorem State.updMg_ops (s : State) (d : Nat) (f : DieMgmt → DieMgmt) : (s.updMg d f).ops = s.ops := rfl
@[simp] theorem State.updMg_launches (s : State) (d : Nat) (f : DieMgmt → DieMgmt) : (s.updMg d f).launches = s.launches := rfl
@[simp] theorem State.updMg_insts (s : State) (d : Nat) (f : DieMgmt → DieMgmt) : (s.updMg d f).insts = s.insts := rfl
@[simp] theorem State.updMg_frames (s : State) (d : Nat) (f : DieMgmt → DieMgmt) : (s.updMg d f).frames = s.frames := rfl
@[simp] theorem State.updMg_children (s : State) (d : Nat) (f : DieMgmt → DieMgmt) : (s.updMg d f).children = s.children := rfl
@[simp] theorem State.updMg_traps (s : State) (d : Nat) (f : DieMgmt → DieMgmt) : (s.updMg d f).traps = s.traps := rfl
@[simp] theorem State.updMg_flight (s : State) (d : Nat) (f : DieMgmt → DieMgmt) : (s.updMg d f).flight = s.flight := rfl
@[simp] theorem State.updMg_model (s : State) (d : Nat) (f : DieMgmt → DieMgmt) : (s.updMg d f).model = s.model := rfl

/-! ## updDm -/

@[simp] theorem State.updDm_fit (s : State) (d : Nat) (f : DieMem → DieMem) : (s.updDm d f).fit = s.fit := rfl
@[simp] theorem State.updDm_pkg (s : State) (d : Nat) (f : DieMem → DieMem) : (s.updDm d f).pkg = s.pkg := rfl
@[simp] theorem State.updDm_mem (s : State) (d : Nat) (f : DieMem → DieMem) : (s.updDm d f).mem = s.mem := rfl
@[simp] theorem State.updDm_cores (s : State) (d : Nat) (f : DieMem → DieMem) : (s.updDm d f).cores = s.cores := rfl
@[simp] theorem State.updDm_ctxs (s : State) (d : Nat) (f : DieMem → DieMem) : (s.updDm d f).ctxs = s.ctxs := rfl
@[simp] theorem State.updDm_blocks (s : State) (d : Nat) (f : DieMem → DieMem) : (s.updDm d f).blocks = s.blocks := rfl
@[simp] theorem State.updDm_clusters (s : State) (d : Nat) (f : DieMem → DieMem) : (s.updDm d f).clusters = s.clusters := rfl
@[simp] theorem State.updDm_groups (s : State) (d : Nat) (f : DieMem → DieMem) : (s.updDm d f).groups = s.groups := rfl
@[simp] theorem State.updDm_ops (s : State) (d : Nat) (f : DieMem → DieMem) : (s.updDm d f).ops = s.ops := rfl
@[simp] theorem State.updDm_launches (s : State) (d : Nat) (f : DieMem → DieMem) : (s.updDm d f).launches = s.launches := rfl
@[simp] theorem State.updDm_insts (s : State) (d : Nat) (f : DieMem → DieMem) : (s.updDm d f).insts = s.insts := rfl
@[simp] theorem State.updDm_frames (s : State) (d : Nat) (f : DieMem → DieMem) : (s.updDm d f).frames = s.frames := rfl
@[simp] theorem State.updDm_children (s : State) (d : Nat) (f : DieMem → DieMem) : (s.updDm d f).children = s.children := rfl
@[simp] theorem State.updDm_traps (s : State) (d : Nat) (f : DieMem → DieMem) : (s.updDm d f).traps = s.traps := rfl
@[simp] theorem State.updDm_flight (s : State) (d : Nat) (f : DieMem → DieMem) : (s.updDm d f).flight = s.flight := rfl
@[simp] theorem State.updDm_model (s : State) (d : Nat) (f : DieMem → DieMem) : (s.updDm d f).model = s.model := rfl

/-! ## updGroup -/

@[simp] theorem State.updGroup_fit (s : State) (i : Nat) (f : Group → Group) : (s.updGroup i f).fit = s.fit := rfl
@[simp] theorem State.updGroup_pkg (s : State) (i : Nat) (f : Group → Group) : (s.updGroup i f).pkg = s.pkg := rfl
@[simp] theorem State.updGroup_mem (s : State) (i : Nat) (f : Group → Group) : (s.updGroup i f).mem = s.mem := rfl
@[simp] theorem State.updGroup_dies (s : State) (i : Nat) (f : Group → Group) : (s.updGroup i f).dies = s.dies := rfl
@[simp] theorem State.updGroup_cores (s : State) (i : Nat) (f : Group → Group) : (s.updGroup i f).cores = s.cores := rfl
@[simp] theorem State.updGroup_ctxs (s : State) (i : Nat) (f : Group → Group) : (s.updGroup i f).ctxs = s.ctxs := rfl
@[simp] theorem State.updGroup_blocks (s : State) (i : Nat) (f : Group → Group) : (s.updGroup i f).blocks = s.blocks := rfl
@[simp] theorem State.updGroup_clusters (s : State) (i : Nat) (f : Group → Group) : (s.updGroup i f).clusters = s.clusters := rfl
@[simp] theorem State.updGroup_ops (s : State) (i : Nat) (f : Group → Group) : (s.updGroup i f).ops = s.ops := rfl
@[simp] theorem State.updGroup_launches (s : State) (i : Nat) (f : Group → Group) : (s.updGroup i f).launches = s.launches := rfl
@[simp] theorem State.updGroup_insts (s : State) (i : Nat) (f : Group → Group) : (s.updGroup i f).insts = s.insts := rfl
@[simp] theorem State.updGroup_frames (s : State) (i : Nat) (f : Group → Group) : (s.updGroup i f).frames = s.frames := rfl
@[simp] theorem State.updGroup_children (s : State) (i : Nat) (f : Group → Group) : (s.updGroup i f).children = s.children := rfl
@[simp] theorem State.updGroup_traps (s : State) (i : Nat) (f : Group → Group) : (s.updGroup i f).traps = s.traps := rfl
@[simp] theorem State.updGroup_flight (s : State) (i : Nat) (f : Group → Group) : (s.updGroup i f).flight = s.flight := rfl
@[simp] theorem State.updGroup_model (s : State) (i : Nat) (f : Group → Group) : (s.updGroup i f).model = s.model := rfl

/-! ## updBlock -/

@[simp] theorem State.updBlock_fit (s : State) (i : Nat) (f : Block → Block) : (s.updBlock i f).fit = s.fit := rfl
@[simp] theorem State.updBlock_pkg (s : State) (i : Nat) (f : Block → Block) : (s.updBlock i f).pkg = s.pkg := rfl
@[simp] theorem State.updBlock_mem (s : State) (i : Nat) (f : Block → Block) : (s.updBlock i f).mem = s.mem := rfl
@[simp] theorem State.updBlock_dies (s : State) (i : Nat) (f : Block → Block) : (s.updBlock i f).dies = s.dies := rfl
@[simp] theorem State.updBlock_cores (s : State) (i : Nat) (f : Block → Block) : (s.updBlock i f).cores = s.cores := rfl
@[simp] theorem State.updBlock_ctxs (s : State) (i : Nat) (f : Block → Block) : (s.updBlock i f).ctxs = s.ctxs := rfl
@[simp] theorem State.updBlock_clusters (s : State) (i : Nat) (f : Block → Block) : (s.updBlock i f).clusters = s.clusters := rfl
@[simp] theorem State.updBlock_groups (s : State) (i : Nat) (f : Block → Block) : (s.updBlock i f).groups = s.groups := rfl
@[simp] theorem State.updBlock_ops (s : State) (i : Nat) (f : Block → Block) : (s.updBlock i f).ops = s.ops := rfl
@[simp] theorem State.updBlock_launches (s : State) (i : Nat) (f : Block → Block) : (s.updBlock i f).launches = s.launches := rfl
@[simp] theorem State.updBlock_insts (s : State) (i : Nat) (f : Block → Block) : (s.updBlock i f).insts = s.insts := rfl
@[simp] theorem State.updBlock_frames (s : State) (i : Nat) (f : Block → Block) : (s.updBlock i f).frames = s.frames := rfl
@[simp] theorem State.updBlock_children (s : State) (i : Nat) (f : Block → Block) : (s.updBlock i f).children = s.children := rfl
@[simp] theorem State.updBlock_traps (s : State) (i : Nat) (f : Block → Block) : (s.updBlock i f).traps = s.traps := rfl
@[simp] theorem State.updBlock_flight (s : State) (i : Nat) (f : Block → Block) : (s.updBlock i f).flight = s.flight := rfl
@[simp] theorem State.updBlock_model (s : State) (i : Nat) (f : Block → Block) : (s.updBlock i f).model = s.model := rfl

/-! ## updOp -/

@[simp] theorem State.updOp_fit (s : State) (i : Nat) (f : EngOp → EngOp) : (s.updOp i f).fit = s.fit := rfl
@[simp] theorem State.updOp_pkg (s : State) (i : Nat) (f : EngOp → EngOp) : (s.updOp i f).pkg = s.pkg := rfl
@[simp] theorem State.updOp_mem (s : State) (i : Nat) (f : EngOp → EngOp) : (s.updOp i f).mem = s.mem := rfl
@[simp] theorem State.updOp_dies (s : State) (i : Nat) (f : EngOp → EngOp) : (s.updOp i f).dies = s.dies := rfl
@[simp] theorem State.updOp_cores (s : State) (i : Nat) (f : EngOp → EngOp) : (s.updOp i f).cores = s.cores := rfl
@[simp] theorem State.updOp_ctxs (s : State) (i : Nat) (f : EngOp → EngOp) : (s.updOp i f).ctxs = s.ctxs := rfl
@[simp] theorem State.updOp_blocks (s : State) (i : Nat) (f : EngOp → EngOp) : (s.updOp i f).blocks = s.blocks := rfl
@[simp] theorem State.updOp_clusters (s : State) (i : Nat) (f : EngOp → EngOp) : (s.updOp i f).clusters = s.clusters := rfl
@[simp] theorem State.updOp_groups (s : State) (i : Nat) (f : EngOp → EngOp) : (s.updOp i f).groups = s.groups := rfl
@[simp] theorem State.updOp_launches (s : State) (i : Nat) (f : EngOp → EngOp) : (s.updOp i f).launches = s.launches := rfl
@[simp] theorem State.updOp_insts (s : State) (i : Nat) (f : EngOp → EngOp) : (s.updOp i f).insts = s.insts := rfl
@[simp] theorem State.updOp_frames (s : State) (i : Nat) (f : EngOp → EngOp) : (s.updOp i f).frames = s.frames := rfl
@[simp] theorem State.updOp_children (s : State) (i : Nat) (f : EngOp → EngOp) : (s.updOp i f).children = s.children := rfl
@[simp] theorem State.updOp_traps (s : State) (i : Nat) (f : EngOp → EngOp) : (s.updOp i f).traps = s.traps := rfl
@[simp] theorem State.updOp_flight (s : State) (i : Nat) (f : EngOp → EngOp) : (s.updOp i f).flight = s.flight := rfl
@[simp] theorem State.updOp_model (s : State) (i : Nat) (f : EngOp → EngOp) : (s.updOp i f).model = s.model := rfl

/-! ## updLaunch -/

@[simp] theorem State.updLaunch_fit (s : State) (i : Nat) (f : Launch → Launch) : (s.updLaunch i f).fit = s.fit := rfl
@[simp] theorem State.updLaunch_pkg (s : State) (i : Nat) (f : Launch → Launch) : (s.updLaunch i f).pkg = s.pkg := rfl
@[simp] theorem State.updLaunch_mem (s : State) (i : Nat) (f : Launch → Launch) : (s.updLaunch i f).mem = s.mem := rfl
@[simp] theorem State.updLaunch_dies (s : State) (i : Nat) (f : Launch → Launch) : (s.updLaunch i f).dies = s.dies := rfl
@[simp] theorem State.updLaunch_cores (s : State) (i : Nat) (f : Launch → Launch) : (s.updLaunch i f).cores = s.cores := rfl
@[simp] theorem State.updLaunch_ctxs (s : State) (i : Nat) (f : Launch → Launch) : (s.updLaunch i f).ctxs = s.ctxs := rfl
@[simp] theorem State.updLaunch_blocks (s : State) (i : Nat) (f : Launch → Launch) : (s.updLaunch i f).blocks = s.blocks := rfl
@[simp] theorem State.updLaunch_clusters (s : State) (i : Nat) (f : Launch → Launch) : (s.updLaunch i f).clusters = s.clusters := rfl
@[simp] theorem State.updLaunch_groups (s : State) (i : Nat) (f : Launch → Launch) : (s.updLaunch i f).groups = s.groups := rfl
@[simp] theorem State.updLaunch_ops (s : State) (i : Nat) (f : Launch → Launch) : (s.updLaunch i f).ops = s.ops := rfl
@[simp] theorem State.updLaunch_insts (s : State) (i : Nat) (f : Launch → Launch) : (s.updLaunch i f).insts = s.insts := rfl
@[simp] theorem State.updLaunch_frames (s : State) (i : Nat) (f : Launch → Launch) : (s.updLaunch i f).frames = s.frames := rfl
@[simp] theorem State.updLaunch_children (s : State) (i : Nat) (f : Launch → Launch) : (s.updLaunch i f).children = s.children := rfl
@[simp] theorem State.updLaunch_traps (s : State) (i : Nat) (f : Launch → Launch) : (s.updLaunch i f).traps = s.traps := rfl
@[simp] theorem State.updLaunch_flight (s : State) (i : Nat) (f : Launch → Launch) : (s.updLaunch i f).flight = s.flight := rfl
@[simp] theorem State.updLaunch_model (s : State) (i : Nat) (f : Launch → Launch) : (s.updLaunch i f).model = s.model := rfl

/-! ## updInst -/

@[simp] theorem State.updInst_fit (s : State) (i : Nat) (f : Inst → Inst) : (s.updInst i f).fit = s.fit := rfl
@[simp] theorem State.updInst_pkg (s : State) (i : Nat) (f : Inst → Inst) : (s.updInst i f).pkg = s.pkg := rfl
@[simp] theorem State.updInst_mem (s : State) (i : Nat) (f : Inst → Inst) : (s.updInst i f).mem = s.mem := rfl
@[simp] theorem State.updInst_dies (s : State) (i : Nat) (f : Inst → Inst) : (s.updInst i f).dies = s.dies := rfl
@[simp] theorem State.updInst_cores (s : State) (i : Nat) (f : Inst → Inst) : (s.updInst i f).cores = s.cores := rfl
@[simp] theorem State.updInst_ctxs (s : State) (i : Nat) (f : Inst → Inst) : (s.updInst i f).ctxs = s.ctxs := rfl
@[simp] theorem State.updInst_blocks (s : State) (i : Nat) (f : Inst → Inst) : (s.updInst i f).blocks = s.blocks := rfl
@[simp] theorem State.updInst_clusters (s : State) (i : Nat) (f : Inst → Inst) : (s.updInst i f).clusters = s.clusters := rfl
@[simp] theorem State.updInst_groups (s : State) (i : Nat) (f : Inst → Inst) : (s.updInst i f).groups = s.groups := rfl
@[simp] theorem State.updInst_ops (s : State) (i : Nat) (f : Inst → Inst) : (s.updInst i f).ops = s.ops := rfl
@[simp] theorem State.updInst_launches (s : State) (i : Nat) (f : Inst → Inst) : (s.updInst i f).launches = s.launches := rfl
@[simp] theorem State.updInst_frames (s : State) (i : Nat) (f : Inst → Inst) : (s.updInst i f).frames = s.frames := rfl
@[simp] theorem State.updInst_children (s : State) (i : Nat) (f : Inst → Inst) : (s.updInst i f).children = s.children := rfl
@[simp] theorem State.updInst_traps (s : State) (i : Nat) (f : Inst → Inst) : (s.updInst i f).traps = s.traps := rfl
@[simp] theorem State.updInst_flight (s : State) (i : Nat) (f : Inst → Inst) : (s.updInst i f).flight = s.flight := rfl
@[simp] theorem State.updInst_model (s : State) (i : Nat) (f : Inst → Inst) : (s.updInst i f).model = s.model := rfl

/-! ## updFrame -/

@[simp] theorem State.updFrame_fit (s : State) (i : Nat) (f : Frame → Frame) : (s.updFrame i f).fit = s.fit := rfl
@[simp] theorem State.updFrame_pkg (s : State) (i : Nat) (f : Frame → Frame) : (s.updFrame i f).pkg = s.pkg := rfl
@[simp] theorem State.updFrame_mem (s : State) (i : Nat) (f : Frame → Frame) : (s.updFrame i f).mem = s.mem := rfl
@[simp] theorem State.updFrame_dies (s : State) (i : Nat) (f : Frame → Frame) : (s.updFrame i f).dies = s.dies := rfl
@[simp] theorem State.updFrame_cores (s : State) (i : Nat) (f : Frame → Frame) : (s.updFrame i f).cores = s.cores := rfl
@[simp] theorem State.updFrame_ctxs (s : State) (i : Nat) (f : Frame → Frame) : (s.updFrame i f).ctxs = s.ctxs := rfl
@[simp] theorem State.updFrame_blocks (s : State) (i : Nat) (f : Frame → Frame) : (s.updFrame i f).blocks = s.blocks := rfl
@[simp] theorem State.updFrame_clusters (s : State) (i : Nat) (f : Frame → Frame) : (s.updFrame i f).clusters = s.clusters := rfl
@[simp] theorem State.updFrame_groups (s : State) (i : Nat) (f : Frame → Frame) : (s.updFrame i f).groups = s.groups := rfl
@[simp] theorem State.updFrame_ops (s : State) (i : Nat) (f : Frame → Frame) : (s.updFrame i f).ops = s.ops := rfl
@[simp] theorem State.updFrame_launches (s : State) (i : Nat) (f : Frame → Frame) : (s.updFrame i f).launches = s.launches := rfl
@[simp] theorem State.updFrame_insts (s : State) (i : Nat) (f : Frame → Frame) : (s.updFrame i f).insts = s.insts := rfl
@[simp] theorem State.updFrame_children (s : State) (i : Nat) (f : Frame → Frame) : (s.updFrame i f).children = s.children := rfl
@[simp] theorem State.updFrame_traps (s : State) (i : Nat) (f : Frame → Frame) : (s.updFrame i f).traps = s.traps := rfl
@[simp] theorem State.updFrame_flight (s : State) (i : Nat) (f : Frame → Frame) : (s.updFrame i f).flight = s.flight := rfl
@[simp] theorem State.updFrame_model (s : State) (i : Nat) (f : Frame → Frame) : (s.updFrame i f).model = s.model := rfl

/-! ## updChild -/

@[simp] theorem State.updChild_fit (s : State) (i : Nat) (f : Child → Child) : (s.updChild i f).fit = s.fit := rfl
@[simp] theorem State.updChild_pkg (s : State) (i : Nat) (f : Child → Child) : (s.updChild i f).pkg = s.pkg := rfl
@[simp] theorem State.updChild_mem (s : State) (i : Nat) (f : Child → Child) : (s.updChild i f).mem = s.mem := rfl
@[simp] theorem State.updChild_dies (s : State) (i : Nat) (f : Child → Child) : (s.updChild i f).dies = s.dies := rfl
@[simp] theorem State.updChild_cores (s : State) (i : Nat) (f : Child → Child) : (s.updChild i f).cores = s.cores := rfl
@[simp] theorem State.updChild_ctxs (s : State) (i : Nat) (f : Child → Child) : (s.updChild i f).ctxs = s.ctxs := rfl
@[simp] theorem State.updChild_blocks (s : State) (i : Nat) (f : Child → Child) : (s.updChild i f).blocks = s.blocks := rfl
@[simp] theorem State.updChild_clusters (s : State) (i : Nat) (f : Child → Child) : (s.updChild i f).clusters = s.clusters := rfl
@[simp] theorem State.updChild_groups (s : State) (i : Nat) (f : Child → Child) : (s.updChild i f).groups = s.groups := rfl
@[simp] theorem State.updChild_ops (s : State) (i : Nat) (f : Child → Child) : (s.updChild i f).ops = s.ops := rfl
@[simp] theorem State.updChild_launches (s : State) (i : Nat) (f : Child → Child) : (s.updChild i f).launches = s.launches := rfl
@[simp] theorem State.updChild_insts (s : State) (i : Nat) (f : Child → Child) : (s.updChild i f).insts = s.insts := rfl
@[simp] theorem State.updChild_frames (s : State) (i : Nat) (f : Child → Child) : (s.updChild i f).frames = s.frames := rfl
@[simp] theorem State.updChild_traps (s : State) (i : Nat) (f : Child → Child) : (s.updChild i f).traps = s.traps := rfl
@[simp] theorem State.updChild_flight (s : State) (i : Nat) (f : Child → Child) : (s.updChild i f).flight = s.flight := rfl
@[simp] theorem State.updChild_model (s : State) (i : Nat) (f : Child → Child) : (s.updChild i f).model = s.model := rfl

/-! ## updTrap -/

@[simp] theorem State.updTrap_fit (s : State) (i : Nat) (f : Trap → Trap) : (s.updTrap i f).fit = s.fit := rfl
@[simp] theorem State.updTrap_pkg (s : State) (i : Nat) (f : Trap → Trap) : (s.updTrap i f).pkg = s.pkg := rfl
@[simp] theorem State.updTrap_mem (s : State) (i : Nat) (f : Trap → Trap) : (s.updTrap i f).mem = s.mem := rfl
@[simp] theorem State.updTrap_dies (s : State) (i : Nat) (f : Trap → Trap) : (s.updTrap i f).dies = s.dies := rfl
@[simp] theorem State.updTrap_cores (s : State) (i : Nat) (f : Trap → Trap) : (s.updTrap i f).cores = s.cores := rfl
@[simp] theorem State.updTrap_ctxs (s : State) (i : Nat) (f : Trap → Trap) : (s.updTrap i f).ctxs = s.ctxs := rfl
@[simp] theorem State.updTrap_blocks (s : State) (i : Nat) (f : Trap → Trap) : (s.updTrap i f).blocks = s.blocks := rfl
@[simp] theorem State.updTrap_clusters (s : State) (i : Nat) (f : Trap → Trap) : (s.updTrap i f).clusters = s.clusters := rfl
@[simp] theorem State.updTrap_groups (s : State) (i : Nat) (f : Trap → Trap) : (s.updTrap i f).groups = s.groups := rfl
@[simp] theorem State.updTrap_ops (s : State) (i : Nat) (f : Trap → Trap) : (s.updTrap i f).ops = s.ops := rfl
@[simp] theorem State.updTrap_launches (s : State) (i : Nat) (f : Trap → Trap) : (s.updTrap i f).launches = s.launches := rfl
@[simp] theorem State.updTrap_insts (s : State) (i : Nat) (f : Trap → Trap) : (s.updTrap i f).insts = s.insts := rfl
@[simp] theorem State.updTrap_frames (s : State) (i : Nat) (f : Trap → Trap) : (s.updTrap i f).frames = s.frames := rfl
@[simp] theorem State.updTrap_children (s : State) (i : Nat) (f : Trap → Trap) : (s.updTrap i f).children = s.children := rfl
@[simp] theorem State.updTrap_flight (s : State) (i : Nat) (f : Trap → Trap) : (s.updTrap i f).flight = s.flight := rfl
@[simp] theorem State.updTrap_model (s : State) (i : Nat) (f : Trap → Trap) : (s.updTrap i f).model = s.model := rfl

/-! ## logged -/

@[simp] theorem State.logged_fit (s : State) (e : LogEnt) : (s.logged e).fit = s.fit := rfl
@[simp] theorem State.logged_mem (s : State) (e : LogEnt) : (s.logged e).mem = s.mem := rfl
@[simp] theorem State.logged_dies (s : State) (e : LogEnt) : (s.logged e).dies = s.dies := rfl
@[simp] theorem State.logged_cores (s : State) (e : LogEnt) : (s.logged e).cores = s.cores := rfl
@[simp] theorem State.logged_ctxs (s : State) (e : LogEnt) : (s.logged e).ctxs = s.ctxs := rfl
@[simp] theorem State.logged_blocks (s : State) (e : LogEnt) : (s.logged e).blocks = s.blocks := rfl
@[simp] theorem State.logged_clusters (s : State) (e : LogEnt) : (s.logged e).clusters = s.clusters := rfl
@[simp] theorem State.logged_groups (s : State) (e : LogEnt) : (s.logged e).groups = s.groups := rfl
@[simp] theorem State.logged_ops (s : State) (e : LogEnt) : (s.logged e).ops = s.ops := rfl
@[simp] theorem State.logged_launches (s : State) (e : LogEnt) : (s.logged e).launches = s.launches := rfl
@[simp] theorem State.logged_insts (s : State) (e : LogEnt) : (s.logged e).insts = s.insts := rfl
@[simp] theorem State.logged_frames (s : State) (e : LogEnt) : (s.logged e).frames = s.frames := rfl
@[simp] theorem State.logged_children (s : State) (e : LogEnt) : (s.logged e).children = s.children := rfl
@[simp] theorem State.logged_traps (s : State) (e : LogEnt) : (s.logged e).traps = s.traps := rfl
@[simp] theorem State.logged_flight (s : State) (e : LogEnt) : (s.logged e).flight = s.flight := rfl
@[simp] theorem State.logged_model (s : State) (e : LogEnt) : (s.logged e).model = s.model := rfl

/-! ## Names and free values -/

@[simp] theorem State.fresh_fit (s : State) : s.fresh.2.fit = s.fit := rfl
@[simp] theorem State.fresh_pkg (s : State) : s.fresh.2.pkg = s.pkg := rfl
@[simp] theorem State.fresh_mem (s : State) : s.fresh.2.mem = s.mem := rfl
@[simp] theorem State.fresh_dies (s : State) : s.fresh.2.dies = s.dies := rfl
@[simp] theorem State.fresh_cores (s : State) : s.fresh.2.cores = s.cores := rfl
@[simp] theorem State.fresh_ctxs (s : State) : s.fresh.2.ctxs = s.ctxs := rfl
@[simp] theorem State.fresh_blocks (s : State) : s.fresh.2.blocks = s.blocks := rfl
@[simp] theorem State.fresh_clusters (s : State) : s.fresh.2.clusters = s.clusters := rfl
@[simp] theorem State.fresh_groups (s : State) : s.fresh.2.groups = s.groups := rfl
@[simp] theorem State.fresh_ops (s : State) : s.fresh.2.ops = s.ops := rfl
@[simp] theorem State.fresh_launches (s : State) : s.fresh.2.launches = s.launches := rfl
@[simp] theorem State.fresh_insts (s : State) : s.fresh.2.insts = s.insts := rfl
@[simp] theorem State.fresh_frames (s : State) : s.fresh.2.frames = s.frames := rfl
@[simp] theorem State.fresh_children (s : State) : s.fresh.2.children = s.children := rfl
@[simp] theorem State.fresh_traps (s : State) : s.fresh.2.traps = s.traps := rfl
@[simp] theorem State.fresh_flight (s : State) : s.fresh.2.flight = s.flight := rfl
@[simp] theorem State.draw_fit (s : State) : s.draw.2.fit = s.fit := rfl
@[simp] theorem State.draw_pkg (s : State) : s.draw.2.pkg = s.pkg := rfl
@[simp] theorem State.draw_mem (s : State) : s.draw.2.mem = s.mem := rfl
@[simp] theorem State.draw_dies (s : State) : s.draw.2.dies = s.dies := rfl
@[simp] theorem State.draw_cores (s : State) : s.draw.2.cores = s.cores := rfl
@[simp] theorem State.draw_ctxs (s : State) : s.draw.2.ctxs = s.ctxs := rfl
@[simp] theorem State.draw_blocks (s : State) : s.draw.2.blocks = s.blocks := rfl
@[simp] theorem State.draw_clusters (s : State) : s.draw.2.clusters = s.clusters := rfl
@[simp] theorem State.draw_groups (s : State) : s.draw.2.groups = s.groups := rfl
@[simp] theorem State.draw_ops (s : State) : s.draw.2.ops = s.ops := rfl
@[simp] theorem State.draw_launches (s : State) : s.draw.2.launches = s.launches := rfl
@[simp] theorem State.draw_insts (s : State) : s.draw.2.insts = s.insts := rfl
@[simp] theorem State.draw_frames (s : State) : s.draw.2.frames = s.frames := rfl
@[simp] theorem State.draw_children (s : State) : s.draw.2.children = s.children := rfl
@[simp] theorem State.draw_traps (s : State) : s.draw.2.traps = s.traps := rfl
@[simp] theorem State.draw_flight (s : State) : s.draw.2.flight = s.flight := rfl
@[simp] theorem State.fresh_model_agenda (s : State) : s.fresh.2.model.agenda = s.model.agenda := rfl
@[simp] theorem State.fresh_model_cur (s : State) : s.fresh.2.model.cur = s.model.cur := rfl
@[simp] theorem State.fresh_model_ev (s : State) : s.fresh.2.model.ev = s.model.ev := rfl
@[simp] theorem State.fresh_model_freeCtr (s : State) : s.fresh.2.model.freeCtr = s.model.freeCtr := rfl
@[simp] theorem State.draw_model_agenda (s : State) : s.draw.2.model.agenda = s.model.agenda := rfl
@[simp] theorem State.draw_model_cur (s : State) : s.draw.2.model.cur = s.model.cur := rfl
@[simp] theorem State.draw_model_ev (s : State) : s.draw.2.model.ev = s.model.ev := rfl
@[simp] theorem State.draw_model_nextId (s : State) : s.draw.2.model.nextId = s.model.nextId := rfl

@[simp] theorem wakeWhere_fit (s : State) (f : Nat → Group → Bool) : (wakeWhere s f).fit = s.fit := rfl
@[simp] theorem wakeWhere_pkg (s : State) (f : Nat → Group → Bool) : (wakeWhere s f).pkg = s.pkg := rfl
@[simp] theorem wakeWhere_mem (s : State) (f : Nat → Group → Bool) : (wakeWhere s f).mem = s.mem := rfl
@[simp] theorem wakeWhere_dies (s : State) (f : Nat → Group → Bool) : (wakeWhere s f).dies = s.dies := rfl
@[simp] theorem wakeWhere_cores (s : State) (f : Nat → Group → Bool) : (wakeWhere s f).cores = s.cores := rfl
@[simp] theorem wakeWhere_ctxs (s : State) (f : Nat → Group → Bool) : (wakeWhere s f).ctxs = s.ctxs := rfl
@[simp] theorem wakeWhere_blocks (s : State) (f : Nat → Group → Bool) : (wakeWhere s f).blocks = s.blocks := rfl
@[simp] theorem wakeWhere_clusters (s : State) (f : Nat → Group → Bool) : (wakeWhere s f).clusters = s.clusters := rfl
@[simp] theorem wakeWhere_ops (s : State) (f : Nat → Group → Bool) : (wakeWhere s f).ops = s.ops := rfl
@[simp] theorem wakeWhere_launches (s : State) (f : Nat → Group → Bool) : (wakeWhere s f).launches = s.launches := rfl
@[simp] theorem wakeWhere_insts (s : State) (f : Nat → Group → Bool) : (wakeWhere s f).insts = s.insts := rfl
@[simp] theorem wakeWhere_frames (s : State) (f : Nat → Group → Bool) : (wakeWhere s f).frames = s.frames := rfl
@[simp] theorem wakeWhere_children (s : State) (f : Nat → Group → Bool) : (wakeWhere s f).children = s.children := rfl
@[simp] theorem wakeWhere_traps (s : State) (f : Nat → Group → Bool) : (wakeWhere s f).traps = s.traps := rfl
@[simp] theorem wakeWhere_flight (s : State) (f : Nat → Group → Bool) : (wakeWhere s f).flight = s.flight := rfl
@[simp] theorem wakeWhere_model (s : State) (f : Nat → Group → Bool) : (wakeWhere s f).model = s.model := rfl

/-! ## Reading after writing -/

theorem get?_updIn {α : Type} (m : FMap α) (i j : Nat) (f : α → α) :
    FMap.get? (updIn m i f) j = if j = i then (FMap.get? m i).map f else FMap.get? m j := by
  unfold updIn
  cases h : FMap.get? m i with
  | none => by_cases hj : j = i <;> simp [hj, h]
  | some x => simp [FMap.get?_put]

@[simp] theorem State.die_putDie_self (s : State) (d : Nat) (x : Die) : (s.putDie d x).die d = x := by simp [State.die, State.putDie]
theorem State.die_putDie_ne (s : State) (d e : Nat) (x : Die) (h : e ≠ d) : (s.putDie d x).die e = s.die e := by
  simp [State.die, State.putDie, FMap.getD_put_ne _ _ _ _ _ h]
@[simp] theorem State.die_updDie_self (s : State) (d : Nat) (f : Die → Die) : (s.updDie d f).die d = f (s.die d) := by simp [State.updDie]
theorem State.die_updDie_ne (s : State) (d e : Nat) (f : Die → Die) (h : e ≠ d) : (s.updDie d f).die e = s.die e :=
  s.die_putDie_ne d e _ h
theorem State.die_updDie (s : State) (d e : Nat) (f : Die → Die) : (s.updDie d f).die e = if e = d then f (s.die e) else s.die e := by
  by_cases h : e = d
  · subst h; simp
  · simp [h, s.die_updDie_ne d e f h]
@[simp] theorem State.core_putCore_self (s : State) (d c : Nat) (x : Core) : (s.putCore d c x).core d c = x := by
  simp [State.core, State.putCore]
@[simp] theorem State.core_updCore_self (s : State) (d c : Nat) (f : Core → Core) : (s.updCore d c f).core d c = f (s.core d c) := by
  simp [State.updCore]
@[simp] theorem State.ctx?_putCtx_self (s : State) (d n : Nat) (x : Ctx) : (s.putCtx d n x).ctx? d n = some x := by
  simp [State.ctx?, State.putCtx]

@[simp] theorem State.get_putGroup_self (s : State) (i : Nat) (x : Group) : FMap.get? (s.putGroup i x).groups i = some x :=
  FMap.get?_put_self _ _ _
theorem State.get_putGroup (s : State) (i j : Nat) (x : Group) :
    FMap.get? (s.putGroup i x).groups j = if j = i then some x else FMap.get? s.groups j := FMap.get?_put _ _ _ _
theorem State.get_updGroup (s : State) (i j : Nat) (f : Group → Group) :
    FMap.get? (s.updGroup i f).groups j = if j = i then (FMap.get? s.groups i).map f else FMap.get? s.groups j := get?_updIn _ _ _ _
theorem State.get_updOp (s : State) (i j : Nat) (f : EngOp → EngOp) :
    FMap.get? (s.updOp i f).ops j = if j = i then (FMap.get? s.ops i).map f else FMap.get? s.ops j := get?_updIn _ _ _ _
theorem State.get_updCtx (s : State) (d n k : Nat) (f : Ctx → Ctx) :
    FMap.get? (s.updCtx d n f).ctxs k = if k = ctxKey d n then (FMap.get? s.ctxs k).map f else FMap.get? s.ctxs k := by
  show FMap.get? (updIn s.ctxs (ctxKey d n) f) k = _
  rw [get?_updIn]
  by_cases h : k = ctxKey d n
  · subst h; rfl
  · simp [h]
theorem get_wakeWhere (s : State) (f : Nat → Group → Bool) (k : Nat) :
    FMap.get? (wakeWhere s f).groups k =
      (FMap.get? s.groups k).map (fun g => if f k g then g.wakeAt (s.die g.die).cycle else g) := by
  show FMap.get? (s.groups.map _) k = _
  rw [FMap.get?_map _ _ (fun e => by split <;> rfl)]
  congr 1; funext g; split <;> rfl

end Sys2Proof.Machine
end

