-- ==== Sys2Proof/Laws/Issue.lean ====
section
/-! SUPPORT. What ending an issue can do: raising a trap, stopping and parking, leaving the active set, settling a wait, going on at the
next instruction. Each lemma says once all that its operation changes. -/

namespace Sys2Proof.Safety

open Sys2Proof.Machine

/-! ## Quiet changes -/

theorem Quiet.refl (s : State) (gid : Nat) : Quiet s s gid := by constructor <;> intros <;> rfl

theorem Quiet.trans {s t u : State} {gid : Nat} (h : Quiet s t gid) (k : Quiet t u gid) : Quiet s u gid where
  fit := k.fit.trans h.fit
  pkg := k.pkg.trans h.pkg
  mem := k.mem.trans h.mem
  dies := k.dies.trans h.dies
  cores := k.cores.trans h.cores
  blocks := k.blocks.trans h.blocks
  clusters := k.clusters.trans h.clusters
  ops := k.ops.trans h.ops
  launches := k.launches.trans h.launches
  insts := k.insts.trans h.insts
  frames := k.frames.trans h.frames
  children := k.children.trans h.children
  flight := k.flight.trans h.flight
  ctxs := fun i => (k.ctxs i).trans (h.ctxs i)
  others := fun i hi => (k.others i hi).trans (h.others i hi)

/-- A change of groups alone that leaves every other group as it is, but for its place in the active set. -/
theorem Quiet.ofGroups (s : State) (gid : Nat) (m : FMap Group)
    (h : ∀ k, k ≠ gid → (FMap.get? m k).map still = (FMap.get? s.groups k).map still) : Quiet s { s with groups := m } gid := by
  constructor <;> first | exact h | (intros; rfl)

theorem Quiet.ofModel (s : State) (gid : Nat) (m : Model) : Quiet s { s with model := m } gid := by
  constructor <;> intros <;> rfl

theorem quiet_putGroup (s : State) (gid : Nat) (g : Group) : Quiet s (s.putGroup gid g) gid :=
  Quiet.ofGroups _ _ _ (fun k hk => by rw [FMap.get?_put_ne _ _ _ _ hk])

theorem quiet_updGroup (s : State) (gid : Nat) (f : Group → Group) : Quiet s (s.updGroup gid f) gid :=
  Quiet.ofGroups _ _ _ (fun k hk => by rw [get?_updIn]; simp [hk])

/-- A change of any group's place in the active set is quiet. -/
theorem quiet_active (s : State) (gid k : Nat) (f : Group → Group) (hf : ∀ g, still (f g) = still g) : Quiet s (s.updGroup k f) gid :=
  Quiet.ofGroups _ _ _ (fun j _ => by
    rw [get?_updIn]
    by_cases h : j = k
    · subst h; simp only [if_true, Option.map_map]; congr 1; funext g; exact hf g
    · simp [h])

theorem quiet_fresh (s : State) (gid : Nat) : Quiet s s.fresh.2 gid := Quiet.ofModel s gid _

end Sys2Proof.Safety

namespace Sys2Proof.Machine

open Sys2Proof.Safety

/-! ## Traps -/

/-- The line goes up on some dies: nothing else of any context changes. -/
theorem quiet_raiseLine (s : State) (die ctx gid : Nat) (cause : Byte) : Quiet s (raiseLine s die ctx cause) gid := by
  unfold raiseLine
  generalize (s.ctx die ctx).dies = ds
  induction ds generalizing s with
  | nil => exact Quiet.refl s gid
  | cons d ds ih =>
    refine Quiet.trans ?_ (ih _)
    constructor <;> first | (intros; rfl) | skip
    intro k
    rw [State.get_updCtx]
    by_cases h : k = ctxKey d ctx
    · simp only [h, if_true, Option.map_map]
      congr 1; funext x
      simp only [Function.comp]
      split <;> rfl
    · simp [h]

@[simp] theorem raiseLine_groups (s : State) (die ctx : Nat) (cause : Byte) : (raiseLine s die ctx cause).groups = s.groups := by
  unfold raiseLine
  generalize (s.ctx die ctx).dies = ds
  induction ds generalizing s with
  | nil => rfl
  | cons d ds ih => exact (ih _).trans rfl

@[simp] theorem raiseLine_traps (s : State) (die ctx : Nat) (cause : Byte) : (raiseLine s die ctx cause).traps = s.traps := by
  unfold raiseLine
  generalize (s.ctx die ctx).dies = ds
  induction ds generalizing s with
  | nil => rfl
  | cons d ds ih => exact (ih _).trans rfl

@[simp] theorem raiseLine_model (s : State) (die ctx : Nat) (cause : Byte) : (raiseLine s die ctx cause).model = s.model := by
  unfold raiseLine
  generalize (s.ctx die ctx).dies = ds
  induction ds generalizing s with
  | nil => rfl
  | cons d ds ih => exact (ih _).trans rfl

/-- Raising a trap: the trap is listed under the name answered, with its record and party; all else is quiet, every group as it was. -/
theorem raiseTrap_spec (s : State) (t : Trap) (b : Option Group) (gid : Nat) :
    Quiet s (raiseTrap s t b).2 gid ∧ (raiseTrap s t b).2.groups = s.groups ∧ (raiseTrap s t b).2.model.cur = s.model.cur ∧
    (raiseTrap s t b).2.model.ev = s.model.ev ∧
    ∃ x, FMap.get? (raiseTrap s t b).2.traps (raiseTrap s t b).1 = some x ∧ x.fault = t.fault ∧ x.party = t.party ∧ x.die = t.die ∧
      x.ctx = t.ctx ∧ (b.bind Group.handling = none → x.rung = usableRung s t.die t.ctx t.rung ∧ x.allstop = fatalCause t.fault.cause) := by
  unfold raiseTrap
  simp only []
  split
  · rename_i hh
    split
    · exact ⟨by constructor <;> intros <;> rfl, rfl, rfl, rfl, _, FMap.get?_put_self _ _ _, rfl, rfl, rfl, rfl, fun h => by simp [h] at hh⟩
    · exact ⟨by constructor <;> intros <;> rfl, rfl, rfl, rfl, _, FMap.get?_put_self _ _ _, rfl, rfl, rfl, rfl, fun h => by simp [h] at hh⟩
  · split
    · rename_i hf
      refine ⟨Quiet.trans ?_ (quiet_raiseLine _ _ _ _ _), by simp, by simp, by simp,
        _, (congrArg (fun m => FMap.get? m _) (raiseLine_traps _ _ _ _)).trans (FMap.get?_put_self _ _ _), rfl, rfl, rfl, rfl,
        fun _ => ⟨rfl, rfl⟩⟩
      constructor <;> intros <;> rfl
    · exact ⟨by constructor <;> intros <;> rfl, rfl, rfl, rfl, _, FMap.get?_put_self _ _ _, rfl, rfl, rfl, rfl, fun _ => ⟨rfl, rfl⟩⟩

/-! ## Stopping, parking, leaving the active set -/

/-- A group but for its place in the active set and the debugger's hold. -/
def calm (g : Group) : Group := { still g with dbg := .run }

theorem calm_eq {g h : Group} (e : calm h = calm g) : regs h = regs g ∧ h.lanes = g.lanes ∧ h.pend = g.pend ∧ h.wait = g.wait ∧
    h.holds = g.holds ∧ h.frames = g.frames ∧ h.b = g.b ∧ h.kind = g.kind := by
  simp only [calm, still, Group.mk.injEq] at e
  simp_all [regs]

/-- What a lane keeps through a park: its program counter and its return stack. -/
def place (x : Lane) : DWord × List DWord := (x.pc, x.rstack)

/-- What a group keeps through a stop of its own and a settled wait: its registers, its lanes' places, its frames. -/
def kept (g : Group) : (FMap Reg × FMap Reg × FMap Reg × FMap Word × BitVec 8) × List (DWord × List DWord) × List Nat :=
  (regs g, g.lanes.map place, g.frames)

theorem updLanes_places (g : Group) (m : Word) (f : Nat → Lane → Lane) (hf : ∀ l x, place (f l x) = place x) :
    (g.updLanes m f).lanes.map place = g.lanes.map place := by
  simp only [Group.updLanes]
  apply List.ext_getElem
  · simp
  · intro i h1 h2
    simp only [List.getElem_map, List.getElem_mapIdx]
    split
    · exact hf _ _
    · rfl

theorem kept_updLanes (g : Group) (m : Word) (f : Nat → Lane → Lane) (hf : ∀ l x, place (f l x) = place x) : kept (g.updLanes m f) = kept g :=
  congrArg (fun p => (regs g, p, g.frames)) (updLanes_places g m f hf)

theorem still_updGroup (s : State) (i : Nat) (f : Group → Group) (hf : ∀ g, still (f g) = still g) (k : Nat) :
    (FMap.get? (s.updGroup i f).groups k).map still = (FMap.get? s.groups k).map still := by
  rw [State.get_updGroup]
  by_cases h : k = i
  · subst h; simp only [if_true, Option.map_map]; congr 1; funext g; exact hf g
  · simp [h]

theorem swapActive_spec (s : State) (gid : Nat) (g : Group) :
    Quiet s (swapActive s gid g) gid ∧ (swapActive s gid g).traps = s.traps ∧ (swapActive s gid g).ctxs = s.ctxs ∧
      (swapActive s gid g).model = s.model ∧
      ∀ k, (FMap.get? (swapActive s gid g).groups k).map still = (FMap.get? s.groups k).map still := by
  unfold swapActive
  split
  · exact ⟨Quiet.refl _ _, rfl, rfl, rfl, fun _ => rfl⟩
  · refine ⟨(quiet_active s gid gid _ ?_).trans (quiet_active _ gid _ _ ?_), rfl, rfl, rfl,
      fun k => (still_updGroup _ _ _ ?_ k).trans (still_updGroup _ _ _ ?_ k)⟩ <;> intro g <;> rfl

theorem settleActive_spec (s : State) (gid : Nat) :
    Quiet s (settleActive s gid) gid ∧ (settleActive s gid).traps = s.traps ∧ (settleActive s gid).ctxs = s.ctxs ∧
      (settleActive s gid).model = s.model ∧
      ∀ k, (FMap.get? (settleActive s gid).groups k).map still = (FMap.get? s.groups k).map still := by
  unfold settleActive
  split
  · exact ⟨Quiet.refl _ _, rfl, rfl, rfl, fun _ => rfl⟩
  · split
    · exact swapActive_spec _ _ _
    · exact ⟨Quiet.refl _ _, rfl, rfl, rfl, fun _ => rfl⟩

/-- The end of an issue: no issue is in progress; the group changes in its place in the active set and in a debugger's step alone. -/
theorem endIssue_spec (s : State) (gid : Nat) :
    Quiet s (endIssue s gid) gid ∧ (endIssue s gid).traps = s.traps ∧ (endIssue s gid).ctxs = s.ctxs ∧ (endIssue s gid).model.cur = none ∧
      ∀ k, (FMap.get? (endIssue s gid).groups k).map calm = (FMap.get? s.groups k).map calm := by
  have h := settleActive_spec { s.updGroup gid (fun g => if g.dbg = .step then { g with dbg := .stopped } else g) with
    model := { s.model with cur := none } } gid
  obtain ⟨h1, h2, h3, h4, h5⟩ := h
  refine ⟨((quiet_updGroup s gid _).trans (Quiet.ofModel _ gid _)).trans h1, h2, h3, by rw [endIssue]; exact congrArg Model.cur h4, ?_⟩
  intro k
  have h6 : ∀ o p : Option Group, o.map still = p.map still → o.map calm = p.map calm := by
    intro o p h
    cases o <;> cases p <;> simp_all [calm]
  refine (h6 _ _ (h5 k)).trans ?_
  show (FMap.get? (s.updGroup gid _).groups k).map calm = _
  rw [State.get_updGroup]
  split
  · subst_vars
    rw [Option.map_map]; congr 1; funext g
    simp only [Function.comp]
    split <;> rfl
  · rfl

theorem endIssue_get (s : State) (gid : Nat) (g : Group) (h : FMap.get? s.groups gid = some g) :
    ∃ k, FMap.get? (endIssue s gid).groups gid = some k ∧ calm k = calm g := by
  have := (endIssue_spec s gid).2.2.2.2 gid
  rw [h] at this
  cases hk : FMap.get? (endIssue s gid).groups gid with
  | none => simp [hk] at this
  | some k => exact ⟨k, rfl, by simpa [hk] using this⟩

/-- The whole group stops: a trap is listed with the record, and the group is held by it. -/
theorem stopGroup_spec (s : State) (gid : Nat) (mask : Word) (rung : Nat) (r : FaultRec) (g : Group) (hg : FMap.get? s.groups gid = some g) :
    Quiet s (stopGroup s gid mask rung r) gid ∧ (stopGroup s gid mask rung r).model.cur = s.model.cur ∧
      ∃ id x, FMap.get? (stopGroup s gid mask rung r).groups gid = some { g with holds := { g.holds with trap := some id } } ∧
        FMap.get? (stopGroup s gid mask rung r).traps id = some x ∧ x.fault = stamp s g r ∧ x.party = .group gid mask ∧
        (g.handling = none → stopValid (s.ctx g.die g.ctx) = true → x.rung = rung) := by
  unfold stopGroup
  simp only [hg]
  generalize ht : ({ die := g.die, ctx := g.ctx, rung := rung, fault := stamp s g r, party := Party.group gid mask, core := g.core, gslot := g.gslot, lanes := mask } : Trap) = t
  obtain ⟨h1, h2, h3, _, x, h4, h5, h6, _, _, h7⟩ := raiseTrap_spec s t (some g) gid
  generalize hr : raiseTrap s t (some g) = rr at *
  obtain ⟨id, u⟩ := rr
  subst ht
  refine ⟨h1.trans (quiet_updGroup u gid _), h3, id, x, ?_, h4, h5, h6, fun ha hb => ?_⟩
  rotate_left
  · rw [(h7 ha).1]; simp [usableRung, hb]
  rw [State.get_updGroup]
  simp only [if_true]
  have : FMap.get? u.groups gid = some g := by rw [h2]; exact hg
  rw [this]; rfl

/-- A group stopped at its instruction by a record that names it: the statements' `TrapsAt` holds. -/
theorem stop_trapsAt (s : State) (c : Issue) (g : Group) (rung : Nat) (r : FaultRec) (lanes : Word) (hg : FMap.get? s.groups c.gid = some g)
    (h1 : r.kind = 1) (h2 : r.pc = c.pc) (h3 : r.resume = c.pc) (h4 : r.word = c.word) :
    TrapsAt s (endIssue (stopGroup s c.gid lanes rung r) c.gid) c g r.cause rung r.addr lanes := by
  obtain ⟨q1, _, id, x, k3, k4, k5, k6, k7⟩ := stopGroup_spec s c.gid lanes rung r g hg
  obtain ⟨e1, e2, _, _, _⟩ := endIssue_spec (stopGroup s c.gid lanes rung r) c.gid
  obtain ⟨k, m1, m2⟩ := endIssue_get _ _ _ k3
  obtain ⟨c1, c2, c3, c4, c5, _⟩ := calm_eq m2
  refine ⟨q1.trans e1, k, id, x, m1, c1, c2, by rw [c5], by rw [e2]; exact k4, ?_⟩
  rw [k5]
  exact ⟨rfl, h1, h2, h3, rfl, h4, k6, k7⟩

/-- A group's exception before its instruction has had any effect (R223). -/
theorem groupFault_spec (s : State) (c : Issue) (g : Group) (cause : Byte) (addr : DWord) (hg : FMap.get? s.groups c.gid = some g) :
    Traps s (groupFault s c cause addr) c g cause addr := stop_trapsAt s c g _ _ _ hg rfl rfl rfl rfl

/-- A tagged register stops the group with POISON (R411). -/
theorem poisonFault_spec (s : State) (c : Issue) (g : Group) (mask : Word) (dreg dspace : Nat) (hg : FMap.get? s.groups c.gid = some g) :
    Poisoned s (poisonFault s c mask dreg dspace) c g := ⟨mask, stop_trapsAt s c g _ _ _ hg rfl rfl rfl rfl⟩

/-- A wait before the instruction has had any effect (R215). -/
theorem stall_spec (s : State) (c : Issue) (g : Group) (w : GWait) (hg : FMap.get? s.groups c.gid = some g) : Waits s (stall s c w) c g w := by
  unfold stall
  have h3 : FMap.get? (s.updGroup c.gid (fun g => { g with wait := w, mask := c.lanes, again := some c.pc })).groups c.gid = some { g with wait := w, mask := c.lanes, again := some c.pc } := by
    rw [State.get_updGroup]; simp [hg]
  obtain ⟨e1, _⟩ := endIssue_spec (s.updGroup c.gid (fun g => { g with wait := w, mask := c.lanes, again := some c.pc })) c.gid
  obtain ⟨k, k1, k2⟩ := endIssue_get _ _ _ h3
  obtain ⟨c1, c2, c3, c4, _⟩ := calm_eq k2
  exact ⟨(quiet_updGroup s c.gid _).trans e1, k, k1, c1, c2, c3, c4⟩

/-- Parking lanes at one program counter changes their state, record and accesses to redo, and may hold a handler group; its registers and counters
stay. -/
theorem parkAt_spec (s : State) (gid : Nat) (m : Word) (at_ : DWord) (r : FaultRec) (redo : Option Access) :
    Quiet s (parkAt s gid m at_ r redo) gid ∧ (parkAt s gid m at_ r redo).model.cur = s.model.cur ∧
      (FMap.get? (parkAt s gid m at_ r redo).groups gid).map kept = (FMap.get? s.groups gid).map kept := by
  unfold parkAt
  split
  · exact ⟨Quiet.refl _ _, rfl, rfl⟩
  · rename_i g hg
    simp only []
    generalize ht : ({ die := g.die, ctx := g.ctx, rung := _, fault := _, party := _, core := g.core, gslot := g.gslot, lanes := m } : Trap) = t
    obtain ⟨h1, _, h3, _, _⟩ := raiseTrap_spec s t (some g) gid
    refine ⟨h1.trans (quiet_putGroup _ gid _), h3, ?_⟩
    rw [State.get_putGroup_self, hg, Option.map_some, Option.map_some]
    have hk := kept_updLanes g m (fun _ x => { x with
      st := .parked, fault := if x.st = .parked then x.fault else { r with resume := at_ },
      redo := x.redo ++ (redo.map (fun a => ((raiseTrap s t (some g)).1, a))).toList }) (fun _ _ => rfl)
    congr 1
    split <;> exact hk

/-- Parking lanes changes their state, record and accesses to redo, and may hold a handler group; its registers and counters stay. -/
theorem parkLanes_spec (s : State) (gid : Nat) (mask : Word) (r : FaultRec) (redo : Option Access) :
    Quiet s (parkLanes s gid mask r redo) gid ∧ (parkLanes s gid mask r redo).model.cur = s.model.cur ∧
      (FMap.get? (parkLanes s gid mask r redo).groups gid).map kept = (FMap.get? s.groups gid).map kept := by
  unfold parkLanes
  split
  · exact ⟨Quiet.refl _ _, rfl, rfl⟩
  · simp only []
    split
    · exact ⟨Quiet.refl _ _, rfl, rfl⟩
    · rename_i g hg _ l ls _
      generalize mask &&& maskWhere (fun l => (g.lane l).live) = m
      generalize hb : (fun (s : State) (a : DWord) => parkAt s gid (m &&& maskWhere (fun k => (g.lane k).pc == a)) a r none) = f
      have step : ∀ s a, Quiet s (f s a) gid ∧ (f s a).model.cur = s.model.cur ∧
          (FMap.get? (f s a).groups gid).map kept = (FMap.get? s.groups gid).map kept := by
        subst hb; exact fun s a => parkAt_spec s gid _ a r none
      have first := parkAt_spec s gid (m &&& maskWhere (fun k => (g.lane k).pc == (g.lane l).pc)) (g.lane l).pc r redo
      generalize parkAt s gid (m &&& maskWhere (fun k => (g.lane k).pc == (g.lane l).pc)) (g.lane l).pc r redo = s1 at *
      generalize ((ls.map (fun l => (g.lane l).pc)).filter (· != (g.lane l).pc)).dedup = as
      induction as generalizing s1 with
      | nil => exact first
      | cons a as ih =>
        obtain ⟨q1, q2, q3⟩ := step s1 a
        exact ih _ ⟨first.1.trans q1, q2.trans first.2.1, q3.trans first.2.2⟩

/-- Settling a wait (R225, R227): nothing for a group that does not wait so or still has results to come; else the group goes on, with no
result outstanding, the lanes of faulted results parked. -/
theorem settle_spec (s : State) (gid : Nat) :
    Quiet s (settle s gid) gid ∧ (settle s gid).model.cur = s.model.cur ∧
      (FMap.get? (settle s gid).groups gid).map kept = (FMap.get? s.groups gid).map kept ∧
      ∀ g, FMap.get? s.groups gid = some g → settled g = false → settle s gid = s := by
  unfold settle
  cases hg : FMap.get? s.groups gid with
  | none => exact ⟨Quiet.refl _ _, rfl, by simp [hg], by simp⟩
  | some g =>
    by_cases hc : (decide (g.wait = GWait.smark) && settled g) = true
    · simp only [hc, if_true]
      refine ⟨?_, ?_, ?_, ?_⟩
      rotate_left 3
      · intro k hk hs
        cases hk
        simp [hs] at hc
      all_goals
        generalize hs' : s.putGroup gid _ = s'
        have h0 : Quiet s s' gid := by subst hs'; exact quiet_putGroup _ _ _
        have hcur : s'.model.cur = s.model.cur := by subst hs'; rfl
        have hget : (FMap.get? s'.groups gid).map kept = some (kept g) := by subst hs'; rw [State.get_putGroup_self]; rfl
        clear hs' hc
        generalize g.pend = ps
        induction ps generalizing s' with
        | nil => first | exact h0 | exact hcur | simpa using hget
        | cons p ps ih =>
          simp only [List.foldl_cons]
          split
          · rename_i r _
            obtain ⟨q1, q2, q3⟩ := parkLanes_spec s' gid p.parks r (p.acc.map (fun a => { a with dsts := p.dsts }))
            exact ih _ (h0.trans q1) (q2.trans hcur) (q3.trans hget)
          · exact ih _ h0 hcur hget
    · simp only [hc]
      exact ⟨Quiet.refl _ _, rfl, by simp [hg], fun _ _ _ => rfl⟩

/-! ## Going on -/

theorem lane_updLanes (g : Group) (m : Word) (f : Nat → Lane → Lane) (l : Nat) (hl : l < g.lanes.length) :
    (g.updLanes m f).lane l = if m.getLsbD l then f l (g.lane l) else g.lane l := by
  simp only [Group.lane, Group.updLanes, List.getD_eq_getElem?_getD, List.getElem?_mapIdx, List.getElem?_eq_getElem hl, Option.map_some,
    Option.getD_some]

theorem place_of_kept {g h : Group} (e : kept h = kept g) (l : Nat) : place (h.lane l) = place (g.lane l) := by
  have : h.lanes.map place = g.lanes.map place := congrArg (fun x => x.2.1) e
  simp only [Group.lane, List.getD_eq_getElem?_getD]
  have h2 := congrArg (fun x => x[l]?) this
  simp only [List.getElem?_map] at h2
  cases h3 : h.lanes[l]? <;> cases h4 : g.lanes[l]? <;> simp_all

theorem pc_of_kept {g h : Group} (e : kept h = kept g) (l : Nat) : (h.lane l).pc = (g.lane l).pc := congrArg Prod.fst (place_of_kept e l)

theorem rstack_of_kept {g h : Group} (e : kept h = kept g) (l : Nat) : (h.lane l).rstack = (g.lane l).rstack :=
  congrArg Prod.snd (place_of_kept e l)

/-- The end of an issue whose instruction has left the group as `g` (R216, R217, R225): registers are those of `g`, the issuing lanes stand
where they are sent, return stacks are as in `g`, and while `g` has a result to come every result of `g` stays outstanding. -/
theorem retireAt_spec (s : State) (c : Issue) (g : Group) (pcs : Nat → DWord) :
    Quiet s (retireAt s c g pcs) c.gid ∧ (retireAt s c g pcs).model.cur = none ∧
      ∃ h, FMap.get? (retireAt s c g pcs).groups c.gid = some h ∧ regs h = regs g ∧ h.frames = g.frames ∧ At c g h pcs ∧
        (settled g = false → h.pend = g.pend) ∧ ∀ l, l < g.lanes.length → (h.lane l).rstack = (g.lane l).rstack := by
  unfold retireAt
  simp only []
  generalize hg1 : g.updLanes c.lanes (fun l x => { x with pc := pcs l }) = g1
  have hst1 : ∀ l, l < g.lanes.length → (g1.lane l).rstack = (g.lane l).rstack := by
    intro l hl
    subst hg1
    rw [lane_updLanes _ _ _ _ hl]; split <;> rfl
  have hat1 : At c g g1 pcs := by
    intro l _ hl hm
    subst hg1
    rw [lane_updLanes _ _ _ _ hl]; simp [hm]
  have hr1 : regs g1 = regs g ∧ g1.pend = g.pend ∧ g1.frames = g.frames := by subst hg1; exact ⟨rfl, rfl, rfl⟩
  clear hg1
  generalize hg3 : (if c.hdr.m = true then ({ g1 with b := if g1.b = c.pc then nextB c pcs else g1.b, lastIssue := (s.die g1.die).cycle, wait := if g1.wait = .run then .smark else g1.wait } : Group)
      else { g1 with b := if g1.b = c.pc then nextB c pcs else g1.b, lastIssue := (s.die g1.die).cycle }) = g3
  have hat3 : At c g g3 pcs := by
    intro l h1 h2 h3
    have := hat1 l h1 h2 h3
    subst hg3; split <;> exact this
  have hst3 : ∀ l, l < g.lanes.length → (g3.lane l).rstack = (g.lane l).rstack := by subst hg3; split <;> exact hst1
  have hr3 : regs g3 = regs g ∧ g3.pend = g.pend ∧ g3.frames = g.frames := by subst hg3; split <;> exact hr1
  clear hg3 hr1 hat1 hst1
  have hp : FMap.get? (s.putGroup c.gid g3).groups c.gid = some g3 := FMap.get?_put_self _ _ _
  obtain ⟨e1, e2, e3, e4, e5⟩ := endIssue_spec (s.putGroup c.gid g3) c.gid
  obtain ⟨k, k1, k2⟩ := endIssue_get _ _ _ hp
  obtain ⟨c1, c2, c3, _, _, c6, _⟩ := calm_eq k2
  obtain ⟨t1, t2, t3, t4⟩ := settle_spec (endIssue (s.putGroup c.gid g3) c.gid) c.gid
  rw [k1] at t3
  refine ⟨((quiet_putGroup s c.gid g3).trans e1).trans t1, t2.trans e4, ?_⟩
  cases hh : FMap.get? (settle (endIssue (s.putGroup c.gid g3) c.gid) c.gid).groups c.gid with
  | none => simp [hh] at t3
  | some h =>
    have hk : kept h = kept k := by simpa [hh] using t3
    refine ⟨h, rfl, ?_, ?_, ?_, ?_, fun l hl => by rw [rstack_of_kept hk l, Group.lane, c2]; exact hst3 l hl⟩
    · have : regs h = regs k := congrArg (fun x => x.1) hk
      rw [this, c1, hr3.1]
    · have : h.frames = k.frames := congrArg (fun x => x.2.2) hk
      rw [this, c6, hr3.2.2]
    · intro l h1 h2 h3
      rw [pc_of_kept hk l, Group.lane, c2]
      exact hat3 l h1 h2 h3
    · intro hs
      have : settled k = false := by
        rw [settled, c3, hr3.2.1]; exact hs
      have h9 := t4 k k1 this
      rw [h9, k1] at hh
      cases hh
      rw [c3, hr3.2.1]

/-- Going on at the next instruction. -/
theorem retire_spec (s : State) (c : Issue) (g : Group) :
    Quiet s (retire s c g) c.gid ∧ (retire s c g).model.cur = none ∧
      ∃ h, FMap.get? (retire s c g).groups c.gid = some h ∧ regs h = regs g ∧ h.frames = g.frames ∧ At c g h (fun _ => after c) ∧
        (settled g = false → h.pend = g.pend) ∧ ∀ l, l < g.lanes.length → (h.lane l).rstack = (g.lane l).rstack :=
  retireAt_spec s c { g with ldy := 0 } (fun _ => c.pc + BitVec.ofNat 64 c.len)

/-- A group with no result outstanding that has settled: only its wait and its readiness change. -/
theorem settle_empty (s : State) (gid : Nat) (g : Group) (hg : FMap.get? s.groups gid = some g) (hp : g.pend = []) :
    ∃ w n, settle s gid = (if g.wait = .smark then s.putGroup gid { g with wait := w, readySince := n } else s) := by
  refine ⟨.run, (s.die g.die).cycle, ?_⟩
  unfold settle
  simp only [hg]
  by_cases h : g.wait = .smark
  · simp [h, settled, hp]
  · simp [h]

/-- The end of an issue of a group with no result outstanding: its lanes are as it left them, moved. -/
theorem retireAt_lanes (s : State) (c : Issue) (g : Group) (pcs : Nat → DWord) (hp : g.pend = []) :
    ∃ h, FMap.get? (retireAt s c g pcs).groups c.gid = some h ∧ h.lanes = (g.updLanes c.lanes (fun l x => { x with pc := pcs l })).lanes ∧
      h.pend = [] ∧ h.kind = g.kind ∧ h.frames = g.frames ∧ h.ops = g.ops ∧ h.block = g.block ∧ h.child = g.child ∧ h.loc = g.loc ∧
      h.holds = g.holds ∧ regs h = regs g := by
  unfold retireAt
  simp only []
  generalize hg1 : g.updLanes c.lanes (fun l x => { x with pc := pcs l }) = g1
  have hr1 : (g1.pend = [] ∧ g1.kind = g.kind ∧ g1.frames = g.frames ∧ g1.ops = g.ops ∧ g1.block = g.block ∧ g1.child = g.child ∧
      g1.loc = g.loc ∧ g1.holds = g.holds ∧ regs g1 = regs g) := by subst hg1; exact ⟨hp, rfl, rfl, rfl, rfl, rfl, rfl, rfl, rfl⟩
  clear hg1
  generalize hg3 : (if c.hdr.m = true then ({ g1 with b := if g1.b = c.pc then nextB c pcs else g1.b, lastIssue := (s.die g1.die).cycle, wait := if g1.wait = .run then .smark else g1.wait } : Group)
      else { g1 with b := if g1.b = c.pc then nextB c pcs else g1.b, lastIssue := (s.die g1.die).cycle }) = g3
  have hr3 : (g3.pend = [] ∧ g3.kind = g.kind ∧ g3.frames = g.frames ∧ g3.ops = g.ops ∧ g3.block = g.block ∧ g3.child = g.child ∧
      g3.loc = g.loc ∧ g3.holds = g.holds ∧ regs g3 = regs g) ∧ g3.lanes = g1.lanes := by subst hg3; split <;> exact ⟨hr1, rfl⟩
  clear hg3 hr1
  have hpp : FMap.get? (s.putGroup c.gid g3).groups c.gid = some g3 := FMap.get?_put_self _ _ _
  obtain ⟨k, k1, k2⟩ := endIssue_get _ _ _ hpp
  simp only [calm, still, Group.mk.injEq] at k2
  obtain ⟨w, n, e⟩ := settle_empty (endIssue (s.putGroup c.gid g3) c.gid) c.gid k k1 (by simp_all)
  rw [e]
  split
  · refine ⟨_, FMap.get?_put_self _ _ _, ?_⟩
    simp_all [regs]
  · refine ⟨k, k1, ?_⟩
    simp_all [regs]

end Sys2Proof.Machine
end

