-- ==== Sys2Proof/Laws/Memory.lean ====
section
/-! SUPPORT. Byte memory: what a write leaves to be read, and that every operation keeps the canonical form. -/

namespace Sys2Proof.Machine

theorem memory_wf_iff (m : List Host.Cell) : Memory.wf m = true ↔ FMap.sorted m = true ∧ ∀ e ∈ m, e.2 ≠ 0 := by
  simp [Memory.wf]

/-- A byte written is the byte read back. -/
theorem memRead_memWrite (m : List Host.Cell) (a j : Nat) (b : Byte) : memRead (memWrite m a b) j = if j = a then b else memRead m j := by
  unfold memRead memWrite
  split
  · rename_i hb
    subst hb
    by_cases h : j = a
    · subst h; simp [FMap.getD, FMap.get?_erase_self]
    · simp [FMap.getD, FMap.get?_erase_ne _ _ _ h, h]
  · rw [FMap.getD_put]

theorem memRead_memWriteN_lt (m : List Host.Cell) (bs : List Byte) : ∀ (a j : Nat), j < a → memRead (memWriteN m a bs) j = memRead m j := by
  induction bs generalizing m with
  | nil => intro a j _; rfl
  | cons b bs ih =>
    intro a j h
    rw [memWriteN, ih _ _ _ (by omega), memRead_memWrite, if_neg (by omega)]

/-- Bytes written are the bytes read back, and every other byte is as before. -/
theorem memRead_memWriteN (m : List Host.Cell) (bs : List Byte) : ∀ (a j : Nat),
    memRead (memWriteN m a bs) j = if a ≤ j ∧ j < a + bs.length then bs.getD (j - a) 0 else memRead m j := by
  induction bs generalizing m with
  | nil => intro a j; rw [if_neg (by simp)]; rfl
  | cons b bs ih =>
    intro a j
    rw [memWriteN]
    by_cases h : j ≤ a
    · rw [memRead_memWriteN_lt _ _ _ _ (by omega), memRead_memWrite]
      by_cases e : j = a
      · subst e; simp
      · rw [if_neg e, if_neg (by omega)]
    · rw [ih, memRead_memWrite, if_neg (by omega : j ≠ a)]
      by_cases k : j < a + 1 + bs.length
      · rw [if_pos (by omega), if_pos (by simp; omega), show j - a = (j - (a + 1)) + 1 by omega]; simp
      · rw [if_neg (by omega), if_neg (by simp; omega)]

theorem memory_wf_filter (m : List Host.Cell) (f : Host.Cell → Bool) (h : Memory.wf m = true) : Memory.wf (m.filter f) = true := by
  rw [memory_wf_iff, FMap.sorted_iff] at *
  refine ⟨List.Pairwise.sublist (List.filter_sublist.map _) h.1, fun e he => h.2 e (List.mem_of_mem_filter he)⟩

theorem memory_wf_memWrite (m : List Host.Cell) (a : Nat) (b : Byte) (h : Memory.wf m = true) : Memory.wf (memWrite m a b) = true := by
  unfold memWrite
  split
  · exact memory_wf_filter m _ h
  · rename_i hb
    rw [memory_wf_iff] at *
    refine ⟨FMap.sorted_put _ _ _ h.1, fun e he => ?_⟩
    rcases (FMap.mem_insert _ _ _ _).1 he with rfl | he
    · exact hb
    · exact h.2 e (List.mem_of_mem_filter he)

theorem memory_wf_memWriteN (bs : List Byte) : ∀ (m : List Host.Cell) (a : Nat), Memory.wf m = true → Memory.wf (memWriteN m a bs) = true := by
  induction bs with
  | nil => intro m a h; exact h
  | cons b bs ih => intro m a h; exact ih _ _ (memory_wf_memWrite m a b h)

/-- Both byte memories of a state in canonical form. -/
def State.memWf (s : State) : Prop := Memory.wf s.mem.bytes = true ∧ Memory.wf s.mem.far = true

theorem memWf_reset : State.reset.memWf := ⟨rfl, rfl⟩

/-- An operation that leaves the memory system alone keeps the form. -/
theorem memWf_of_mem_eq {s t : State} (h : s.memWf) (e : t.mem = s.mem) : t.memWf := by unfold State.memWf; rw [e]; exact h

theorem mem_rearm (s : State) (pa : Nat) : (s.rearm pa).mem = s.mem := by unfold State.rearm; split <;> rfl

theorem mem_updDm (s : State) (d : Nat) (f : DieMem → DieMem) : (s.updDm d f).mem = s.mem := rfl

theorem mem_drawN (s : State) (n : Nat) : (s.drawN n).2.mem = s.mem := by
  induction n generalizing s with
  | zero => rfl
  | succ n ih => simp only [State.drawN]; rw [ih]; rfl

theorem memory_wf_memPut (es : List (Nat × Byte)) : ∀ (m : List Host.Cell) (base : Nat), Memory.wf m = true → Memory.wf (memPut m base es) = true := by
  induction es with
  | nil => intro m base h; exact h
  | cons e es ih => intro m base h; exact ih _ base (memory_wf_memWrite m _ _ h)

/-- A bridge's work keeps the form. -/
theorem memWf_putBr {s : State} {r t : Br} (d : Nat) (h : Memory.wf r.mem.bytes = true ∧ Memory.wf r.mem.far = true) (k : r.Keeps t) :
    (s.putBr d t).memWf := by
  unfold State.memWf State.putBr State.putDie
  simp only [k.1, k.2]
  exact h

theorem mem_updOwn (s : State) (d key : Nat) (f : L2Line → L2Line) : (updOwn s d key f).mem = s.mem := rfl

/-- Bytes placed at a home keep the form. -/
theorem memWf_placeBytes (s : State) (d b line : Nat) (es : List (Nat × Byte)) (h : s.memWf) : (placeBytes s d b line es).memWf := by
  have hp : Memory.wf (memPut s.mem.bytes (line * 128) es) = true := memory_wf_memPut es _ _ h.1
  unfold placeBytes
  simp only
  split
  · exact memWf_of_mem_eq (s := { s with mem := { s.mem with bytes := memPut s.mem.bytes (line * 128) es } }) ⟨hp, h.2⟩ (mem_updOwn _ _ _ _)
  · have k := Br.keeps_write (State.br { s with mem := { s.mem with bytes := memPut s.mem.bytes (line * 128) es } } d) d b line (es.length == 128)
    split
    · exact ⟨h.1, (congrArg Memory.wf k.2).trans h.2⟩
    · exact memWf_putBr d ⟨hp, h.2⟩ k

theorem memWf_homeOut (s : State) (d : Nat) (x : L2Line) (h : s.memWf) : (homeOut s d x).memWf := by
  unfold homeOut
  split
  · exact h
  · split
    · rename_i b _ _ _
      have k := Br.keeps_write (s.br d) d b x.line (x.dirty.length == 128)
      simp only
      split
      · exact ⟨memory_wf_memPut _ _ _ ((congrArg Memory.wf k.1).trans h.1), (congrArg Memory.wf k.2).trans h.2⟩
      · exact memWf_putBr d (r := s.br d) h k
    · refine memWf_of_mem_eq h ?_
      unfold State.toll
      split <;> rfl

theorem memWf_recallSnoop (s : State) (d line : Nat) (keep : Word) (h : s.memWf) : (recallSnoop s d line keep).memWf := by
  unfold recallSnoop
  split
  · exact h
  · simp only
    refine memWf_of_mem_eq ?_ (mem_updDm _ _ _)
    split
    · have e : (s.drawN 8).2.memWf := memWf_of_mem_eq h (mem_drawN s 8)
      split
      · exact memWf_placeBytes _ _ _ _ _ e
      · exact e
    · exact h

theorem memWf_foldNames (f : State → Nat → State) (hf : ∀ s n, s.memWf → (f s n).memWf) (is : List Nat) (s : State) (h : s.memWf) :
    (foldNames s is f).memWf := by
  unfold foldNames
  induction is generalizing s with
  | nil => exact h
  | cons i is ih => exact ih _ (hf s i h)

theorem memWf_recallRange (s : State) (d pa n : Nat) (keep : Word) (h : s.memWf) : (recallRange s d pa n keep).memWf := by
  unfold recallRange
  split
  · exact h
  · exact memWf_foldNames _ (fun s n hs => memWf_recallSnoop s d n keep hs) _ _ h

theorem memWf_clearPoison (s : State) (d pa : Nat) (h : s.memWf) : (s.clearPoison d pa).memWf := by
  unfold State.clearPoison
  split <;> exact h

theorem memWf_consumerHalf (s : State) (d c asid : Nat) (wide : Bool) (h : s.memWf) : (consumerHalf s d c asid wide).memWf := by
  unfold consumerHalf
  simp only
  split <;> exact h

theorem memWf_retestWaits (s : State) (f : Group → Bool → Nat → Bool) (h : s.memWf) : (retestWaits s f).memWf := by
  refine memWf_foldNames _ (fun s n hs => ?_) _ _ h
  split
  · split
    · split
      · exact memWf_of_mem_eq (memWf_consumerHalf _ _ _ _ _ hs) rfl
      · exact hs
    · exact hs
  · exact hs

theorem memWf_metaPut (s : State) (pa : Nat) (bs : List Byte) (h : s.memWf) : (metaPut s pa bs).memWf := by
  unfold metaPut
  split
  · exact memWf_placeBytes _ _ _ _ _ h
  · exact h

theorem memWf_stationPut (s : State) (d i pa : Nat) (es : List (Nat × Byte)) (h : s.memWf) : (stationPut s d i pa es).memWf := by
  unfold stationPut
  exact memWf_metaPut _ _ _ (memWf_metaPut _ _ _ h)

/-- A write that arrives at a home keeps the form. -/
theorem memWf_arriveBytes (s : State) (d pa : Nat) (es : List (Nat × Byte)) (h : s.memWf) : (arriveBytes s d pa es).memWf := by
  unfold arriveBytes
  have h1 : (s.rearm pa).memWf := memWf_of_mem_eq h (mem_rearm s pa)
  have clear : ∀ (c : Prop) [Decidable c] (t : State), t.memWf → (if c then t.clearPoison d pa else t).memWf := by
    intro c _ t ht
    split
    · exact memWf_clearPoison _ _ _ ht
    · exact ht
  simp only
  split
  · exact memWf_placeBytes _ _ _ _ _ (memWf_of_mem_eq (clear _ _ (memWf_recallRange _ _ _ _ _ h1)) (mem_updDm _ _ _))
  · split
    · exact memWf_stationPut _ _ _ _ _ (clear _ _ h1)
    · exact h1
  · split
    · split
      · exact h1
      · have h2 := clear (es.length = 128) _ h1
        refine memWf_retestWaits _ _ ?_
        split
        · exact ⟨h2.1, memory_wf_memPut _ _ _ h2.2⟩
        · exact ⟨h2.1, memory_wf_memPut _ _ _ h2.2⟩
    · exact h1
  · exact h1

/-- A write sent to a home keeps the form. -/
theorem memWf_homeMerge (s : State) (d pa : Nat) (es : List (Nat × Byte)) (h : s.memWf) : (homeMerge s d pa es).memWf := by
  unfold homeMerge
  split
  · have h1 : (stationFailed s d pa true).memWf := by unfold stationFailed; simp only; split <;> exact h
    unfold State.setPoison
    split <;> exact h1
  · exact memWf_arriveBytes s d pa es h

end Sys2Proof.Machine
end

