-- ==== Sys2Proof/Laws/Regs.lean ====
section
/-! SUPPORT. Lane masks, and what reads of a group's registers and predicates give after writes. -/

namespace Sys2Proof.Machine

open Sys2Proof.Safety

/-! ## Masks -/

theorem one_shl_bit (i j : Nat) (hj : j < 32) : (1#32 <<< i).getLsbD j = decide (j = i) := by
  simp only [BitVec.getLsbD_shiftLeft, BitVec.getLsbD_one]
  by_cases h : j = i
  · subst h; simp [hj]
  · simp only [h, decide_false]
    by_cases h2 : j < i
    · simp [h2]
    · simp [hj]; omega

theorem maskOf_bit (ls : List Nat) (j : Nat) (hj : j < 32) : (maskOf ls).getLsbD j = decide (j ∈ ls) := by
  have key : ∀ (acc : Word), (ls.foldl (fun acc i => acc ||| (1#32 <<< i)) acc).getLsbD j = (acc.getLsbD j || decide (j ∈ ls)) := by
    induction ls with
    | nil => simp
    | cons i ls ih =>
      intro acc
      simp only [List.foldl_cons, ih, BitVec.getLsbD_or, one_shl_bit i j hj, List.mem_cons, Bool.decide_or, Bool.or_assoc]
  simpa [maskOf] using key 0#32

theorem maskWhere_bit (f : Nat → Bool) (j : Nat) (hj : j < 32) : (maskWhere f).getLsbD j = f j := by
  rw [maskWhere, maskOf_bit _ _ hj]
  simp [hj]

theorem mem_lanesOf (m : Word) (l : Nat) : l ∈ lanesOf m ↔ l < 32 ∧ m.getLsbD l = true := by simp [lanesOf]

theorem nodup_lanesOf (m : Word) : (lanesOf m).Nodup := List.Nodup.filter _ List.nodup_range

theorem mem_activeLanes (c : Issue) (g : Group) (l : Nat) : l ∈ activeLanes c g ↔ active c g l = true := by
  rw [activeLanes, mem_lanesOf, activeMask, active]
  constructor
  · rintro ⟨h, k⟩
    simp only [BitVec.getLsbD_and, maskWhere_bit _ _ h, Bool.and_eq_true] at k
    simp [h, k]
  · intro k
    simp only [Bool.and_eq_true, decide_eq_true_eq] at k
    refine ⟨k.1.1, ?_⟩
    simp [maskWhere_bit _ _ k.1.1, k]

theorem nodup_activeLanes (c : Issue) (g : Group) : (activeLanes c g).Nodup := nodup_lanesOf _

/-! ## One write -/

theorem preg_zero (b : Bool) : ((preg b).val = 0) = (b = false) := by cases b <;> simp [preg]

theorem set_readV (g : Group) (n i r l : Nat) (x : Reg) (hi : i < 32) (hl : l < 32) :
    (g.set (.v n i) x).readV r l = if r = n ∧ l = i ∧ r ≠ 127 then x else g.readV r l := by
  unfold Group.set Group.readV
  by_cases hn : n = 127
  · subst hn
    simp only [if_true]
    by_cases hr : r = 127 <;> simp [hr]
  · simp only [hn, if_false]
    by_cases hr : r = 127
    · have : ¬ r = n := fun h => hn (h ▸ hr)
      simp [hr]
    · simp only [hr, if_false, FMap.getD_put]
      by_cases h : r = n ∧ l = i
      · obtain ⟨rfl, rfl⟩ := h; simp [hr]
      · have : ¬ r * 32 + l = n * 32 + i := by omega
        simp only [this, if_false]
        have h' : ¬ (r = n ∧ l = i ∧ r ≠ 127) := fun k => h ⟨k.1, k.2.1⟩
        simp [h']

theorem set_readS (g : Group) (n r : Nat) (x : Reg) : (g.set (.s n) x).readS r = if r = n ∧ r ≠ 63 then x else g.readS r := by
  unfold Group.set Group.readS
  by_cases hn : n = 63
  · subst hn
    simp only [if_true]
    by_cases hr : r = 63 <;> simp [hr]
  · simp only [hn, if_false]
    by_cases hr : r = 63
    · simp [hr]
    · simp only [hr, if_false, FMap.getD_put]
      by_cases h : r = n <;> simp [h, hr]
      intro h2; subst h; exact absurd h2 hr

theorem set_pred (g : Group) (e i n l : Nat) (b : Bool) (hi : i < 32) (hl : l < 32) :
    (g.set (.p e i) (preg b)).pred n l = if n = e ∧ l = i ∧ n ≠ 7 then b else g.pred n l := by
  unfold Group.set Group.pred
  by_cases he : e = 7
  · subst he
    simp only [if_true]
    by_cases hn : n = 7 <;> simp [hn]
  · simp only [he, if_false]
    by_cases hn : n = 7
    · simp [hn]
    · have h7 : (n == 7) = false := by simp [hn]
      simp only [h7, Bool.false_or, FMap.getD_put]
      by_cases h : n = e
      · subst h
        simp only [if_true, hn, ne_eq, not_false_eq_true, and_true, true_and]
        cases b
        · simp only [preg_zero, if_true, BitVec.getLsbD_and, BitVec.getLsbD_not, one_shl_bit i l hl, hl, decide_true, Bool.true_and]
          by_cases hh : l = i <;> simp [hh]
        · simp only [preg_zero, Bool.true_eq_false, if_false, BitVec.getLsbD_or, one_shl_bit i l hl]
          by_cases hh : l = i <;> simp [hh]
      · simp [h]

theorem set_qpred (g : Group) (e n : Nat) (b : Bool) (hn8 : n < 8) : (g.set (.q e) (preg b)).qpred n = if n = e ∧ n ≠ 7 then b else g.qpred n := by
  unfold Group.set Group.qpred
  by_cases he : e = 7
  · subst he
    simp only [if_true]
    by_cases hn : n = 7 <;> simp [hn]
  · simp only [he, if_false]
    by_cases hn : n = 7
    · simp [hn]
    · have h7 : (n == 7) = false := by simp [hn]
      have hb : (1#8 <<< e).getLsbD n = decide (n = e) := by
        simp only [BitVec.getLsbD_shiftLeft, BitVec.getLsbD_one]
        by_cases h : n = e
        · subst h; simp [hn8]
        · simp only [h, decide_false]
          by_cases h2 : n < e
          · simp [h2]
          · simp [hn8]; omega
      simp only [h7, Bool.false_or]
      cases b
      · simp only [preg_zero, if_true, BitVec.getLsbD_and, BitVec.getLsbD_not, hb, hn8, decide_true, Bool.true_and]
        by_cases hh : n = e <;> simp [hh]
        subst hh; exact fun h => absurd h hn
      · simp only [preg_zero, Bool.true_eq_false, if_false, BitVec.getLsbD_or, hb]
        by_cases hh : n = e <;> simp [hh]
        subst hh; exact Or.inl hn

/-! ## Which parts a write touches -/

/-- What a destination leaves alone. -/
theorem set_v_parts (g : Group) (n i : Nat) (x : Reg) : (g.set (.v n i) x).deep = g.deep ∧ (g.set (.v n i) x).s = g.s ∧ (g.set (.v n i) x).p = g.p ∧
    (g.set (.v n i) x).q = g.q ∧ (g.set (.v n i) x).lanes = g.lanes ∧ (g.set (.v n i) x).pend = g.pend := by
  unfold Group.set; dsimp only; split <;> exact ⟨rfl, rfl, rfl, rfl, rfl, rfl⟩

theorem set_s_parts (g : Group) (n : Nat) (x : Reg) : (g.set (.s n) x).v = g.v ∧ (g.set (.s n) x).deep = g.deep ∧ (g.set (.s n) x).p = g.p ∧
    (g.set (.s n) x).q = g.q ∧ (g.set (.s n) x).lanes = g.lanes ∧ (g.set (.s n) x).pend = g.pend := by
  unfold Group.set; dsimp only; split <;> exact ⟨rfl, rfl, rfl, rfl, rfl, rfl⟩

theorem set_p_parts (g : Group) (n i : Nat) (x : Reg) : (g.set (.p n i) x).v = g.v ∧ (g.set (.p n i) x).deep = g.deep ∧ (g.set (.p n i) x).s = g.s ∧
    (g.set (.p n i) x).q = g.q ∧ (g.set (.p n i) x).lanes = g.lanes ∧ (g.set (.p n i) x).pend = g.pend := by
  unfold Group.set; dsimp only; split <;> exact ⟨rfl, rfl, rfl, rfl, rfl, rfl⟩

theorem set_q_parts (g : Group) (n : Nat) (x : Reg) : (g.set (.q n) x).v = g.v ∧ (g.set (.q n) x).deep = g.deep ∧ (g.set (.q n) x).s = g.s ∧
    (g.set (.q n) x).p = g.p ∧ (g.set (.q n) x).lanes = g.lanes ∧ (g.set (.q n) x).pend = g.pend := by
  unfold Group.set; dsimp only; split <;> exact ⟨rfl, rfl, rfl, rfl, rfl, rfl⟩

theorem set_deep_parts (g : Group) (n i : Nat) (x : Reg) : (g.set (.deep n i) x).v = g.v ∧ (g.set (.deep n i) x).s = g.s ∧
    (g.set (.deep n i) x).p = g.p ∧ (g.set (.deep n i) x).q = g.q ∧ (g.set (.deep n i) x).lanes = g.lanes ∧
    (g.set (.deep n i) x).pend = g.pend := ⟨rfl, rfl, rfl, rfl, rfl, rfl⟩

/-- Overtaken results and redone accesses keep the registers, the counters and the lanes' number. -/
theorem dropRedo_parts (g : Group) (ds : List Dst) : regs (g.dropRedo ds) = regs g ∧ (g.dropRedo ds).lanes.length = g.lanes.length ∧
    (g.dropRedo ds).pend = g.pend := by
  unfold Group.dropRedo
  split
  · exact ⟨rfl, rfl, rfl⟩
  · exact ⟨rfl, by simp, rfl⟩

/-- Fixed-latency writes leave what the writes in order leave (R224). -/
theorem write_parts (g : Group) (ws : List (Dst × Reg)) :
    regs (g.write ws) = regs (g.setAll ws) ∧ (g.write ws).lanes.length = (g.setAll ws).lanes.length := by
  unfold Group.write
  have := dropRedo_parts (g.setAll ws) (ws.map (·.1))
  exact ⟨this.1, this.2.1⟩

theorem setAll_cons (g : Group) (w : Dst × Reg) (ws : List (Dst × Reg)) : g.setAll (w :: ws) = (g.set w.1 w.2).setAll ws := rfl

theorem setAll_one (g : Group) (w : Dst × Reg) : g.setAll [w] = g.set w.1 w.2 := rfl

theorem setAll_append (g : Group) (ws vs : List (Dst × Reg)) : g.setAll (ws ++ vs) = (g.setAll ws).setAll vs := by
  simp [Group.setAll, List.foldl_append]

/-- The last of a list of (register, value) pairs for a register. -/
def lastOf (ps : List (Nat × Reg)) (r : Nat) : Option Reg := ps.foldl (fun o e => if r = e.1 then some e.2 else o) none

theorem lastOf_append (ps : List (Nat × Reg)) (e : Nat × Reg) (r : Nat) :
    lastOf (ps ++ [e]) r = if r = e.1 then some e.2 else lastOf ps r := by simp [lastOf, List.foldl_append]

/-- Writes of one lane's direct registers. -/
theorem setAll_lane (g : Group) (i : Nat) (hi : i < 32) (ps : List (Nat × Reg)) (r l : Nat) (hl : l < 32) :
    (g.setAll (ps.map (fun e => (Dst.v e.1 i, e.2)))).readV r l =
      if l = i ∧ r ≠ 127 then (lastOf ps r).getD (g.readV r l) else g.readV r l := by
  induction ps using List.reverseRecOn with
  | nil => simp [Group.setAll, lastOf]
  | append_singleton ps e ih =>
    rw [List.map_append, setAll_append, List.map_singleton, setAll_one, lastOf_append]
    rw [set_readV _ _ _ _ _ _ hi hl, ih]
    by_cases h1 : l = i <;> by_cases h2 : r = 127 <;> by_cases h3 : r = e.1 <;> simp [h1, h2, h3] <;> simp_all

theorem setAll_lane_parts (g : Group) (i : Nat) (ps : List (Nat × Reg)) :
    let h := g.setAll (ps.map (fun e => (Dst.v e.1 i, e.2)))
    h.deep = g.deep ∧ h.s = g.s ∧ h.p = g.p ∧ h.q = g.q ∧ h.lanes = g.lanes ∧ h.pend = g.pend := by
  induction ps generalizing g with
  | nil => exact ⟨rfl, rfl, rfl, rfl, rfl, rfl⟩
  | cons e ps ih =>
    have h1 := ih (g.set (.v e.1 i) e.2)
    have h2 := set_v_parts g e.1 i e.2
    simp only [List.map_cons, setAll_cons]
    exact ⟨h1.1.trans h2.1, h1.2.1.trans h2.2.1, h1.2.2.1.trans h2.2.2.1, h1.2.2.2.1.trans h2.2.2.2.1, h1.2.2.2.2.1.trans h2.2.2.2.2.1,
      h1.2.2.2.2.2.trans h2.2.2.2.2.2⟩

/-- Writes of the direct registers of several lanes, each lane's computed from the group as it was before. -/
theorem setAll_lanes (g : Group) (ls : List Nat) (hnd : ls.Nodup) (h32 : ∀ l ∈ ls, l < 32) (ps : Nat → List (Nat × Reg)) :
    let h := g.setAll (ls.flatMap (fun i => (ps i).map (fun e => (Dst.v e.1 i, e.2))))
    (∀ r l, l < 32 → h.readV r l = if l ∈ ls ∧ r ≠ 127 then (lastOf (ps l) r).getD (g.readV r l) else g.readV r l) ∧
      h.deep = g.deep ∧ h.s = g.s ∧ h.p = g.p ∧ h.q = g.q ∧ h.lanes = g.lanes ∧ h.pend = g.pend := by
  induction ls generalizing g with
  | nil => exact ⟨by simp [Group.setAll], rfl, rfl, rfl, rfl, rfl, rfl⟩
  | cons i ls ih =>
    have hi : i < 32 := h32 i List.mem_cons_self
    obtain ⟨hni, hnd⟩ := List.nodup_cons.1 hnd
    simp only [List.flatMap_cons, setAll_append]
    obtain ⟨h1, h2, h3, h4, h5, h6, h7⟩ := ih (g.setAll ((ps i).map (fun e => (Dst.v e.1 i, e.2)))) hnd (fun l hl => h32 l (List.mem_cons_of_mem _ hl))
    obtain ⟨k2, k3, k4, k5, k6, k7⟩ := setAll_lane_parts g i (ps i)
    refine ⟨?_, h2.trans k2, h3.trans k3, h4.trans k4, h5.trans k5, h6.trans k6, h7.trans k7⟩
    intro r l hl
    rw [h1 r l hl, setAll_lane g i hi (ps i) r l hl]
    by_cases e : l = i
    · subst e; simp [hni]
    · simp [e]

/-- A predicate written in several lanes. -/
theorem setAll_preds (g : Group) (ls : List Nat) (h32 : ∀ l ∈ ls, l < 32) (e : Nat) (b : Nat → Bool) :
    let h := g.setAll (ls.map (fun i => (Dst.p e i, preg (b i))))
    (∀ n l, l < 32 → h.pred n l = if l ∈ ls ∧ n = e ∧ n ≠ 7 then b l else g.pred n l) ∧
      h.v = g.v ∧ h.deep = g.deep ∧ h.s = g.s ∧ h.q = g.q ∧ h.lanes = g.lanes ∧ h.pend = g.pend := by
  induction ls generalizing g with
  | nil => exact ⟨by simp [Group.setAll], rfl, rfl, rfl, rfl, rfl, rfl⟩
  | cons i ls ih =>
    have hi : i < 32 := h32 i List.mem_cons_self
    simp only [List.map_cons, setAll_cons]
    obtain ⟨h1, h2, h3, h4, h5, h6, h7⟩ := ih (g.set (.p e i) (preg (b i))) (fun l hl => h32 l (List.mem_cons_of_mem _ hl))
    obtain ⟨k2, k3, k4, k5, k6, k7⟩ := set_p_parts g e i (preg (b i))
    refine ⟨?_, h2.trans k2, h3.trans k3, h4.trans k4, h5.trans k5, h6.trans k6, h7.trans k7⟩
    intro n l hl
    rw [h1 n l hl, set_pred _ _ _ _ _ _ hi hl]
    by_cases e1 : l = i
    · subst e1
      by_cases e2 : n = e <;> by_cases e3 : n = 7 <;> simp [e2, e3] <;> simp_all
    · simp [e1]

/-- Uniform registers written, in order. -/
theorem setAll_uni (g : Group) (ps : List (Nat × Reg)) :
    let h := g.setAll (ps.map (fun e => (Dst.s e.1, e.2)))
    (∀ r, h.readS r = if r ≠ 63 then (lastOf ps r).getD (g.readS r) else g.readS r) ∧
      h.v = g.v ∧ h.deep = g.deep ∧ h.p = g.p ∧ h.q = g.q ∧ h.lanes = g.lanes ∧ h.pend = g.pend := by
  induction ps using List.reverseRecOn with
  | nil => exact ⟨by simp [Group.setAll, lastOf], rfl, rfl, rfl, rfl, rfl, rfl⟩
  | append_singleton ps e ih =>
    obtain ⟨h1, h2, h3, h4, h5, h6, h7⟩ := ih
    simp only [List.map_append, setAll_append, List.map_singleton]
    obtain ⟨k2, k3, k4, k5, k6, k7⟩ := set_s_parts (g.setAll (ps.map (fun e => (Dst.s e.1, e.2)))) e.1 e.2
    refine ⟨?_, k2.trans h2, k3.trans h3, k4.trans h4, k5.trans h5, k6.trans h6, k7.trans h7⟩
    intro r
    rw [setAll_one, set_readS, h1, lastOf_append]
    by_cases e1 : r = e.1 <;> by_cases e2 : r = 63 <;> simp [e1, e2] <;> simp_all

end Sys2Proof.Machine
end

