-- ==== Sys2Proof/Laws/Shapes.lean ====
section
/-! SUPPORT. What the shared shapes of the instructions do: fixed-latency lane and uniform writes, variable-latency results, the guard. -/

namespace Sys2Proof.Machine

open Sys2Proof.Safety

theorem withIssue_eq (s : State) (c : Issue) (g : Group) (hI : Issuing s c g) (k : Issue → Group → Out) : withIssue s k = k c g := by
  simp [withIssue, hI.1, hI.2]

/-- A uniform instruction whose guard is true. -/
theorem uniform_true (s : State) (c : Issue) (g : Group) (hI : Issuing s c g) (k : Issue → Group → Out)
    (hq : g.qpred c.hdr.g.toNat = true) : uniform s k = k c g := by
  simp [uniform, withIssue_eq s c g hI, guardQ, hq]

/-- A uniform instruction whose guard is false has no effect (R115). -/
theorem uniform_false (s : State) (c : Issue) (g : Group) (hI : Issuing s c g) (k : Issue → Group → Out)
    (hq : g.qpred c.hdr.g.toNat = false) : uniform s k = .next (retire s c g) := by
  simp [uniform, withIssue_eq s c g hI, guardQ, hq]

theorem readV_of_v {g h : Group} (e : h.v = g.v) (r l : Nat) : h.readV r l = g.readV r l := by simp [Group.readV, e]
theorem readS_of_s {g h : Group} (e : h.s = g.s) (r : Nat) : h.readS r = g.readS r := by simp [Group.readS, e]
theorem pred_of_p {g h : Group} (e : h.p = g.p) (n l : Nat) : h.pred n l = g.pred n l := by simp [Group.pred, e]
theorem qpred_of_q {g h : Group} (e : h.q = g.q) (n : Nat) : h.qpred n = g.qpred n := by simp [Group.qpred, e]

theorem regs_eq {g h : Group} (e : regs h = regs g) : h.v = g.v ∧ h.deep = g.deep ∧ h.s = g.s ∧ h.p = g.p ∧ h.q = g.q := by
  simpa [regs] using e

theorem regs_of {g h : Group} (h1 : h.v = g.v) (h2 : h.deep = g.deep) (h3 : h.s = g.s) (h4 : h.p = g.p) (h5 : h.q = g.q) :
    regs h = regs g := by simp [regs, h1, h2, h3, h4, h5]

theorem at_length {c : Issue} {g g' h : Group} {pcs : Nat → DWord} (e : g'.lanes.length = g.lanes.length) (a : At c g' h pcs) : At c g h pcs :=
  fun l h1 h2 h3 => a l h1 (by omega) h3

/-- The issue ends with no register changed. -/
theorem retire_writesNone (s : State) (c : Issue) (g : Group) : WritesNone s (retire s c g) c g (fun _ => after c) := by
  obtain ⟨q, _, h, h1, h2, _, h4, _⟩ := retire_spec s c g
  exact ⟨q, h, h1, h2, h4⟩

/-- The end of an issue that wrote direct registers, each lane's values computed from the group as it was. -/
theorem retire_writesV (s : State) (c : Issue) (g : Group) (ps : Nat → List (Nat × Reg)) :
    WritesV s (retire s c (g.write ((activeLanes c g).flatMap (fun l => (ps l).map (fun e => (Dst.v e.1 l, e.2)))))) c g
      (fun r l => lastOf (ps l) r) := by
  generalize hws : (activeLanes c g).flatMap _ = ws
  obtain ⟨q, _, h, h1, h2, _, h4, _⟩ := retire_spec s c (g.write ws)
  obtain ⟨w1, w2⟩ := write_parts g ws
  obtain ⟨a1, a2, a3, a4, a5, a6, _⟩ := setAll_lanes g (activeLanes c g) (nodup_activeLanes c g)
    (fun l hl => by have := (mem_activeLanes c g l).1 hl; simp [active] at this; omega) ps
  rw [hws] at a1 a2 a3 a4 a5 a6
  obtain ⟨r1, r2, r3, r4, r5⟩ := regs_eq (h2.trans w1)
  refine ⟨q, h, h1, ?_, r2.trans a2, r3.trans a3, r4.trans a4, r5.trans a5, at_length (by rw [w2, a6]) h4⟩
  intro r l hl
  rw [readV_of_v r1, a1 r l hl]
  simp only [mem_activeLanes]

/-- A fixed-latency lane instruction (R81, R84) completes, with the writes of each lane of ACTIVE. -/
theorem laneFixed_writes (s : State) (c : Issue) (g : Group) (hI : Issuing s c g) (f : Group → Nat → List (Dst × Reg))
    (ps : Nat → List (Nat × Reg)) (hf : ∀ l, f g l = (ps l).map (fun e => (Dst.v e.1 l, e.2))) :
    ∃ t, laneFixed s f = .next t ∧ WritesV s t c g (fun r l => lastOf (ps l) r) := by
  refine ⟨_, withIssue_eq s c g hI _, ?_⟩
  have : (activeLanes c g).flatMap (f g) = (activeLanes c g).flatMap (fun l => (ps l).map (fun e => (Dst.v e.1 l, e.2))) := by
    congr 1; funext l; exact hf l
  rw [this]
  exact retire_writesV s c g ps

/-- One register written in each lane. -/
theorem laneFixed_one (s : State) (c : Issue) (g : Group) (hI : Issuing s c g) (f : Group → Nat → List (Dst × Reg)) (d : Nat)
    (x : Nat → Reg) (hf : ∀ l, f g l = [(.v d l, x l)]) :
    ∃ t, laneFixed s f = .next t ∧ WritesV s t c g (fun r l => if r = d then some (x l) else none) := by
  obtain ⟨t, h1, h2⟩ := laneFixed_writes s c g hI f (fun l => [(d, x l)]) (fun l => by rw [hf]; rfl)
  exact ⟨t, h1, h2⟩

/-- A pair written in each lane (R18). -/
theorem laneFixed_pair (s : State) (c : Issue) (g : Group) (hI : Issuing s c g) (f : Group → Nat → List (Dst × Reg)) (d : Nat)
    (x : Nat → DWord) (tag : Nat → Bool) (hf : ∀ l, f g l = pairWrites d l (x l) (tag l)) :
    ∃ t, laneFixed s f = .next t ∧
      WritesV s t c g (fun r l => if r = d then some ⟨loHalf (x l), tag l⟩ else if r = d + 1 then some ⟨hiHalf (x l), tag l⟩ else none) := by
  obtain ⟨t, h1, h2⟩ := laneFixed_writes s c g hI f (fun l => [(d, ⟨loHalf (x l), tag l⟩), (d + 1, ⟨hiHalf (x l), tag l⟩)])
    (fun l => by rw [hf]; rfl)
  refine ⟨t, h1, ?_⟩
  convert h2 using 3 with r l
  by_cases e : r = d
  · subst e; simp [lastOf]
  · simp [lastOf, e]

/-- A predicate written in each lane of a list within ACTIVE. -/
theorem retire_writesP (s : State) (c : Issue) (g : Group) (e : Nat) (b : Nat → Bool) :
    WritesP s (retire s c (g.write ((activeLanes c g).map (fun l => (Dst.p e l, preg (b l)))))) c g e b := by
  generalize hws : (activeLanes c g).map _ = ws
  obtain ⟨q, _, h, h1, h2, _, h4, _⟩ := retire_spec s c (g.write ws)
  obtain ⟨w1, w2⟩ := write_parts g ws
  obtain ⟨a1, a2, a3, a4, a5, a6, _⟩ := setAll_preds g (activeLanes c g)
    (fun l hl => by have := (mem_activeLanes c g l).1 hl; simp [active] at this; omega) e b
  rw [hws] at a1 a2 a3 a4 a5 a6
  obtain ⟨r1, r2, r3, r4, r5⟩ := regs_eq (h2.trans w1)
  refine ⟨q, h, h1, ?_, r1.trans a2, r2.trans a3, r3.trans a4, r5.trans a5, at_length (by rw [w2, a6]) h4⟩
  intro n l hl
  rw [pred_of_p r4, a1 n l hl]
  simp only [mem_activeLanes]

theorem laneFixed_pred (s : State) (c : Issue) (g : Group) (hI : Issuing s c g) (f : Group → Nat → List (Dst × Reg)) (e : Nat)
    (b : Nat → Bool) (hf : ∀ l, f g l = [(.p e l, preg (b l))]) :
    ∃ t, laneFixed s f = .next t ∧ WritesP s t c g e b := by
  refine ⟨_, withIssue_eq s c g hI _, ?_⟩
  have : (activeLanes c g).flatMap (f g) = (activeLanes c g).map (fun l => (Dst.p e l, preg (b l))) := by
    rw [List.map_eq_flatMap]; congr 1; funext l; rw [hf]
  rw [this]
  exact retire_writesP s c g e b

/-! ## Uniform writes -/

theorem retire_writesS (s : State) (c : Issue) (g : Group) (ps : List (Nat × Reg)) (hq : g.qpred c.hdr.g.toNat = true) :
    WritesS s (retire s c (g.write (ps.map (fun e => (Dst.s e.1, e.2))))) c g (fun r => lastOf ps r) := by
  generalize hws : ps.map _ = ws
  obtain ⟨q, _, h, h1, h2, _, h4, _⟩ := retire_spec s c (g.write ws)
  obtain ⟨w1, w2⟩ := write_parts g ws
  obtain ⟨a1, a2, a3, a4, a5, a6, _⟩ := setAll_uni g ps
  rw [hws] at a1 a2 a3 a4 a5 a6
  obtain ⟨r1, r2, r3, r4, r5⟩ := regs_eq (h2.trans w1)
  refine ⟨q, h, h1, ?_, r1.trans a2, r2.trans a3, r4.trans a4, r5.trans a5, at_length (by rw [w2, a6]) h4⟩
  intro r
  rw [readS_of_s r3, a1 r]
  simp [hq]

theorem writesS_false (s t : State) (c : Issue) (g : Group) (w : Nat → Option Reg) (hq : g.qpred c.hdr.g.toNat = false)
    (h : WritesNone s t c g (fun _ => after c)) : WritesS s t c g w := by
  obtain ⟨q, k, h1, h2, h3⟩ := h
  obtain ⟨r1, r2, r3, r4, r5⟩ := regs_eq h2
  exact ⟨q, k, h1, fun r => by simp [hq, readS_of_s r3], r1, r2, r4, r5, h3⟩

/-- A fixed-latency uniform instruction completes, with its writes under a true guard and none under a false one (R115). -/
theorem uniFixed_writes (s : State) (c : Issue) (g : Group) (hI : Issuing s c g) (f : Group → List (Dst × Reg)) (ps : List (Nat × Reg))
    (hf : f g = ps.map (fun e => (Dst.s e.1, e.2))) :
    ∃ t, uniFixed s f = .next t ∧ WritesS s t c g (fun r => lastOf ps r) := by
  cases hq : g.qpred c.hdr.g.toNat
  · exact ⟨_, uniform_false s c g hI _ hq, writesS_false _ _ _ _ _ hq (retire_writesNone s c g)⟩
  · refine ⟨_, uniform_true s c g hI _ hq, ?_⟩
    rw [hf]
    exact retire_writesS s c g ps hq

theorem uniFixed_one (s : State) (c : Issue) (g : Group) (hI : Issuing s c g) (f : Group → List (Dst × Reg)) (d : Nat) (x : Reg)
    (hf : f g = [(.s d, x)]) :
    ∃ t, uniFixed s f = .next t ∧ WritesS s t c g (fun r => if r = d then some x else none) := by
  obtain ⟨t, h1, h2⟩ := uniFixed_writes s c g hI f [(d, x)] (by rw [hf]; rfl)
  exact ⟨t, h1, h2⟩

theorem uniFixed_pair (s : State) (c : Issue) (g : Group) (hI : Issuing s c g) (f : Group → List (Dst × Reg)) (d : Nat) (x : DWord) (tag : Bool)
    (hf : f g = spairWrites d x tag) :
    ∃ t, uniFixed s f = .next t ∧
      WritesS s t c g (fun r => if r = d then some ⟨loHalf x, tag⟩ else if r = d + 1 then some ⟨hiHalf x, tag⟩ else none) := by
  obtain ⟨t, h1, h2⟩ := uniFixed_writes s c g hI f [(d, ⟨loHalf x, tag⟩), (d + 1, ⟨hiHalf x, tag⟩)] (by rw [hf]; rfl)
  refine ⟨t, h1, ?_⟩
  convert h2 using 2 with r
  by_cases e : r = d
  · subst e; simp [lastOf]
  · simp [lastOf, e]

/-- One uniform predicate written under a true guard. -/
theorem retire_writesQ (s : State) (c : Issue) (g : Group) (e : Nat) (b : Bool) (hq : g.qpred c.hdr.g.toNat = true) :
    WritesQ s (retire s c (g.write [(Dst.q e, preg b)])) c g e b := by
  obtain ⟨q, _, h, h1, h2, _, h4, _⟩ := retire_spec s c (g.write [(Dst.q e, preg b)])
  obtain ⟨w1, w2⟩ := write_parts g [(Dst.q e, preg b)]
  obtain ⟨a1, a2, a3, a4, a5, a6⟩ := set_q_parts g e (preg b)
  obtain ⟨r1, r2, r3, r4, r5⟩ := regs_eq (h2.trans w1)
  refine ⟨q, h, h1, ?_, r1.trans a1, r2.trans a2, r3.trans a3, r4.trans a4, at_length (by rw [w2]; exact congrArg List.length a5) h4⟩
  intro n hn
  rw [qpred_of_q r5]
  show (g.set (.q e) (preg b)).qpred n = _
  rw [set_qpred _ _ _ _ hn]
  simp [hq]

theorem uniFixed_pred (s : State) (c : Issue) (g : Group) (hI : Issuing s c g) (f : Group → List (Dst × Reg)) (e : Nat) (b : Bool)
    (hf : f g = [(.q e, preg b)]) : ∃ t, uniFixed s f = .next t ∧ WritesQ s t c g e b := by
  cases hq : g.qpred c.hdr.g.toNat
  · obtain ⟨q, k, h1, h2, h3⟩ := retire_writesNone s c g
    obtain ⟨r1, r2, r3, r4, r5⟩ := regs_eq h2
    exact ⟨_, uniform_false s c g hI _ hq, q, k, h1, fun n _ => by simp [hq, qpred_of_q r5], r1, r2, r3, r4, h3⟩
  · refine ⟨_, uniform_true s c g hI _ hq, ?_⟩
    rw [hf]
    exact retire_writesQ s c g e b hq

/-! ## Variable-latency results -/

theorem defer_owed (g : Group) (id : Nat) (lane : Option Nat) (ws : List (Dst × Reg)) (mem : Bool) : Owed (g.defer id lane ws mem) lane ws :=
  ⟨_, List.mem_append_right _ (List.mem_singleton.2 rfl), rfl, rfl, rfl⟩

theorem defer_settled (g : Group) (id : Nat) (lane : Option Nat) (ws : List (Dst × Reg)) (mem : Bool) : settled (g.defer id lane ws mem) = false := by
  simp [settled, Group.defer]

theorem owed_mono {g h : Group} {lane : Option Nat} {ws : List (Dst × Reg)} (e : ∀ p ∈ g.pend, p ∈ h.pend) (o : Owed g lane ws) : Owed h lane ws :=
  let ⟨p, h1, h2⟩ := o; ⟨p, e p h1, h2⟩

/-- Results made outstanding lane after lane. -/
theorem foldDefer_spec (ls : List Nat) (f : Nat → List (Dst × Reg)) (mem : Bool) (s : State) (g : Group) (gid : Nat) :
    let r := ls.foldl (fun (p : State × Group) l => let (id, s) := p.1.fresh; (s, p.2.defer id (some l) (f l) mem)) (s, g)
    Quiet s r.1 gid ∧ r.1.groups = s.groups ∧ r.1.model.cur = s.model.cur ∧ regs r.2 = regs g ∧ r.2.lanes = g.lanes ∧
      (∀ p ∈ g.pend, p ∈ r.2.pend) ∧ (∀ l ∈ ls, Owed r.2 (some l) (f l)) ∧ (ls ≠ [] → settled r.2 = false) ∧
      (settled g = false → settled r.2 = false) := by
  induction ls generalizing s g with
  | nil => exact ⟨Quiet.refl _ _, rfl, rfl, rfl, rfl, fun _ h => h, by simp, by simp, fun h => h⟩
  | cons l ls ih =>
    simp only [List.foldl_cons]
    obtain ⟨h1, h2, h3, h4, h5, h6, h7, h8, h9⟩ := ih s.fresh.2 (g.defer s.fresh.1 (some l) (f l) mem)
    have hsub : ∀ p ∈ g.pend, p ∈ (g.defer s.fresh.1 (some l) (f l) mem).pend := fun p hp => List.mem_append_left _ hp
    refine ⟨(quiet_fresh s gid).trans h1, h2.trans rfl, h3.trans rfl, h4.trans rfl, h5.trans rfl, fun p hp => h6 p (hsub p hp), ?_, ?_, ?_⟩
    · intro k hk
      rcases List.mem_cons.1 hk with rfl | hk
      · exact owed_mono h6 (defer_owed _ _ _ _ _)
      · exact h7 k hk
    · exact fun _ => h9 (defer_settled _ _ _ _ _)
    · exact fun _ => h9 (defer_settled _ _ _ _ _)

/-- A variable-latency lane instruction (R84, R224) completes with its results outstanding. -/
theorem laneVariable_owes (s : State) (c : Issue) (g : Group) (hI : Issuing s c g) (f : Issue → Group → Nat → List (Dst × Reg)) :
    ∃ t, laneVariable s f = .next t ∧ OwesV s t c g (f c g) := by
  refine ⟨_, withIssue_eq s c g hI _, ?_⟩
  simp only []
  obtain ⟨h1, h2, h3, h4, h5, h6, h7, h8, h9⟩ := foldDefer_spec (activeLanes c g) (f c g) false s g c.gid
  generalize (activeLanes c g).foldl _ (s, g) = r at *
  obtain ⟨q, _, h, k1, k2, _, k4, k5⟩ := retire_spec r.1 c r.2
  refine ⟨h1.trans q, h, k1, k2.trans h4, at_length (by rw [h5]) k4, ?_⟩
  intro l hl
  have hl' := (mem_activeLanes c g l).2 hl
  exact owed_mono (by rw [k5.1 (h8 (List.ne_nil_of_mem hl'))]; exact fun _ h => h) (h7 l hl')

/-- The end of an issue whose uniform result is outstanding. -/
theorem retire_owesU (s : State) (c : Issue) (g : Group) (id : Nat) (ws : List (Dst × Reg)) (mem : Bool) :
    OwesU s (retire s c (g.defer id none ws mem)) c g ws := by
  obtain ⟨q, _, h, k1, k2, _, k4, k5⟩ := retire_spec s c (g.defer id none ws mem)
  exact ⟨q, h, k1, k2, k4, owed_mono (by rw [k5.1 (defer_settled _ _ _ _ _)]; exact fun _ h => h) (defer_owed _ _ _ _ _)⟩

end Sys2Proof.Machine
end

