-- ==== Sys2Proof/Laws/Results.lean ====
section
/-! SUPPORT. From what an arm calls to what the result statements of Safety.lean say of it, shape by shape; the function of the statement may
be another way to write the meaning's. -/

namespace Sys2Proof.Machine

open Sys2Proof.Safety

theorem lane3_result {i : BitVec 7 → BitVec 7 → BitVec 7 → Instr} {f : Word → Word → Word} (f' : Word → Word → Word)
    (h : ∀ d a b s, exec (i d a b) s = lane3 s d a b f') (e : ∀ a b, f' a b = f a b) : Lane3 i f := by
  obtain rfl : f = f' := by funext a b; exact (e a b).symm
  intro s c g d a b hI
  rw [h]
  exact laneFixed_one s c g hI _ _ _ (fun _ => rfl)

theorem lane3d_result {i : BitVec 7 → BitVec 7 → BitVec 7 → Instr} {f : Word → Word → Word → Word} (f' : Word → Word → Word → Word)
    (h : ∀ d a b s, exec (i d a b) s = lane3d s d a b f') (e : ∀ o a b, f' o a b = f o a b) : Lane3d i f := by
  obtain rfl : f = f' := by funext o a b; exact (e o a b).symm
  intro s c g d a b hI
  rw [h]
  exact laneFixed_one s c g hI _ _ _ (fun _ => rfl)

theorem lane2_result {i : BitVec 7 → BitVec 7 → Instr} {f : Word → Word} (f' : Word → Word)
    (h : ∀ d a s, exec (i d a) s = lane2 s d a f') (e : ∀ a, f' a = f a) : Lane2 i f := by
  obtain rfl : f = f' := by funext a; exact (e a).symm
  intro s c g d a hI
  rw [h]
  exact laneFixed_one s c g hI _ _ _ (fun _ => rfl)

theorem lane2d_result {i : BitVec 7 → BitVec 7 → Instr} {f : Word → Word → Word} (f' : Word → Word → Word)
    (h : ∀ d a s, exec (i d a) s = lane2d s d a f') (e : ∀ o a, f' o a = f o a) : Lane2d i f := by
  obtain rfl : f = f' := by funext o a; exact (e o a).symm
  intro s c g d a hI
  rw [h]
  exact laneFixed_one s c g hI _ _ _ (fun _ => rfl)

/-! ## Toll counter 4 beside -/

theorem toll_groups (s : State) (die i n : Nat) : (s.toll die i n).groups = s.groups ∧ (s.toll die i n).model = s.model := by
  unfold State.toll; split <;> exact ⟨rfl, rfl⟩

theorem fpOps_tolled (s : State) (c : Issue) (g : Group) (hI : Issuing s c g) (n : Nat) : fpOps s n = tolled s c g n := by
  simp [fpOps, hI.1, hI.2, tolled]

theorem issuing_tolled (s : State) (c : Issue) (g : Group) (hI : Issuing s c g) (n : Nat) : Issuing (tolled s c g n) c g := by
  obtain ⟨h1, h2⟩ := toll_groups s g.die 4 (n * (activeLanes c g).length)
  exact ⟨by rw [tolled, h2]; exact hI.1, by rw [tolled, h1]; exact hI.2⟩

theorem float3_result {i : BitVec 7 → BitVec 7 → BitVec 7 → Instr} {n : Nat} {f : Word → Word → Word} (f' : Word → Word → Word)
    (h : ∀ d a b s, exec (i d a b) s = lane3 (fpOps s n) d a b f') (e : ∀ a b, f' a b = f a b) : Float3 n i f := by
  obtain rfl : f = f' := by funext a b; exact (e a b).symm
  intro s c g d a b hI
  rw [h, fpOps_tolled s c g hI]
  exact laneFixed_one _ c g (issuing_tolled s c g hI n) _ _ _ (fun _ => rfl)

theorem float3d_result {i : BitVec 7 → BitVec 7 → BitVec 7 → Instr} {n : Nat} {f : Word → Word → Word → Word} (f' : Word → Word → Word → Word)
    (h : ∀ d a b s, exec (i d a b) s = lane3d (fpOps s n) d a b f') (e : ∀ o a b, f' o a b = f o a b) : Float3d n i f := by
  obtain rfl : f = f' := by funext o a b; exact (e o a b).symm
  intro s c g d a b hI
  rw [h, fpOps_tolled s c g hI]
  exact laneFixed_one _ c g (issuing_tolled s c g hI n) _ _ _ (fun _ => rfl)

theorem float2d_result {i : BitVec 7 → BitVec 7 → Instr} {n : Nat} {f : Word → Word → Word} (f' : Word → Word → Word)
    (h : ∀ d a s, exec (i d a) s = lane2d (fpOps s n) d a f') (e : ∀ o a, f' o a = f o a) : Float2d n i f := by
  obtain rfl : f = f' := by funext o a; exact (e o a).symm
  intro s c g d a hI
  rw [h, fpOps_tolled s c g hI]
  exact laneFixed_one _ c g (issuing_tolled s c g hI n) _ _ _ (fun _ => rfl)

/-! ## Variable-latency lane results -/

theorem laneOwes_result {i : BitVec 7 → BitVec 7 → Instr} {f : Word → Word} (h : ∀ d a s, exec (i d a) s = sfu1 s d a f) : LaneOwes i f := by
  intro s c g d a hI
  rw [h]
  exact laneVariable_owes s c g hI _

theorem crossRead_active (c : Issue) (g : Group) (a : BitVec 7) (l src : Nat) :
    crossRead c g a l src = g.readV a.toNat (if active c g src = true then src else l) := by
  unfold crossRead
  congr 1
  have := mem_activeLanes c g src
  rw [activeLanes, mem_lanesOf] at this
  simp only [this]

theorem laneMoves_result {i : BitVec 7 → BitVec 7 → Instr} {src : Nat → Nat} (h : ∀ d a s, exec (i d a) s = exchange s d a src) : LaneMoves i src := by
  intro s c g d a hI
  rw [h]
  obtain ⟨t, h1, h2⟩ := laneVariable_owes s c g hI (fun c g l => [(.v d.toNat l, crossRead c g a l (src l))])
  refine ⟨t, h1, ?_⟩
  simpa only [crossRead_active] using h2

/-! ## Uniform results -/

theorem uni3_result {i : BitVec 6 → BitVec 6 → BitVec 6 → Instr} {f : Word → Word → Word} (f' : Word → Word → Word)
    (h : ∀ d a b s, exec (i d a b) s = uni3 s d a b f') (e : ∀ a b, f' a b = f a b) : Uni3 i f := by
  obtain rfl : f = f' := by funext a b; exact (e a b).symm
  intro s c g d a b hI
  rw [h]
  exact uniFixed_one s c g hI _ _ _ rfl

theorem uni64_result {i : BitVec 6 → BitVec 6 → BitVec 6 → Instr} {f : DWord → DWord → DWord}
    (h : ∀ d a b s, exec (i d a b) s = uni64 s d a b f) : Uni64 i f := by
  intro s c g d a b hI
  rw [h]
  exact uniFixed_pair s c g hI _ _ _ _ rfl

theorem uniShift_result {i : BitVec 6 → BitVec 6 → BitVec 6 → Instr} {f : DWord → Nat → DWord} (f' : DWord → Nat → DWord)
    (h : ∀ d a b s, exec (i d a b) s = uniShift64 s d a b f') (e : ∀ x n, f' x n = f x n) : UniShift i f := by
  obtain rfl : f = f' := by funext a b; exact (e a b).symm
  intro s c g d a b hI
  rw [h]
  exact uniFixed_pair s c g hI _ _ _ _ rfl

theorem uni2_result {i : BitVec 6 → BitVec 6 → Instr} {f : Word → Word} (f' : Word → Word)
    (h : ∀ d a s, exec (i d a) s = uni2 s d a f') (e : ∀ a, f' a = f a) : Uni2 i f := by
  obtain rfl : f = f' := by funext a; exact (e a).symm
  intro s c g d a hI
  rw [h]
  exact uniFixed_one s c g hI _ _ _ rfl

theorem uniSelf_result {α : Type} {i : BitVec 6 → α → Instr} {f : Word → α → Word}
    (h : ∀ d j s, exec (i d j) s = uniSelf s d (fun x => f x j)) : UniSelf i f := by
  intro s c g d j hI
  rw [h]
  exact uniFixed_one s c g hI _ _ _ rfl

end Sys2Proof.Machine
end

