-- ==== Sys2Proof/Tests/Slice0.lean ====
section
/-! SUPPORT. The model's own tests: ill-formed terms refused, words decoded, the hypotheses of the statements met, single steps. -/

namespace Sys2Proof.Tests

open Sys2Proof.Machine Sys2Proof.Safety

-- One theorem is checked after the other: checked side by side, those that wait hold a thread each.
set_option Elab.async false

/-! ## Well-formedness: each check refuses a term that breaks it alone (R18, R19, R21, R27, R36, R44, R49) -/

theorem test_wf_pairs : [Instr.addB64 3 2 2, .addB64 2 3 2, .addB64 2 2 3, .lea 3 0 2, .lea 2 0 3, .leaX4 3 0 2, .leaX4 2 0 3, .cvtBlkPk 0 3 0, .cvtBlkEnc 0 3 0,
    .cvtBlkDec 0 3 0, .sincos 3 0, .topkMax 3 0 0, .topkMin 3 0 0, .ldB64 3 0 0, .stB64 3 0 0, .ldsB64 3 0 0, .stsB64 3 0 0, .ldkv 3 0 0, .ldkvTrap 3 0 0].all
    (fun i => !i.wf) = true := by decide

theorem test_wf_quadruples : [Instr.ldB128 2 0 0, .ldB128 1 0 0, .ldsB128 2 0 0, .stB128 2 0 0, .stsB128 2 0 0, .cas 2 0 2 1, .casPub 2 0 2 1].all
    (fun i => !i.wf) = true := by decide

theorem test_wf_selectors : [Instr.shlImm 0 0 0, .shrN32Imm 0 0 0, .shrS32Imm 0 0 0, .rotImm 0 0 0, .movSpecial 0 16, .cmpi 0 0 0 12, .cmpf 0 0 0 14, .frndF32 0 0 5,
    .faddF322a 0 0 5 0, .fsubF322a 0 0 5 0, .fmulF322a 0 0 5 0, .hadd2Bf162a 0 0 5 0, .hmul2Bf162a 0 0 5 0, .hadd2F162a 0 0 5 0, .hmul2F162a 0 0 5 0,
    .cvtEncF16 0 0 6, .cvtEncBf16 0 0 6, .cvtEncE4m3 0 0 6, .cvtEncE5m2 0 0 6, .cvtEncS32 0 0 6, .cvtEncN32 0 0 6, .cvtDecS32 0 0 6, .cvtDecN32 0 0 6,
    .cvtPkBf16 0 0 6, .cvtPkF16 0 0 6, .cvtPk2E4m3 0 0 6, .cvtPk2E5m2 0 0 6, .accrd 0 0 0 0 5].all (fun i => !i.wf) = true := by decide

theorem test_wf_atomics : [Instr.atom 0 1 0 2 0, .atom 0 0 10 2 0, .atom 0 0 9 2 1, .atom 1 0 0 2 1, .atomPub 0 1 0 2 0, .atomPub 0 0 10 2 0, .atomPub 0 0 9 2 1,
    .atomPub 1 0 0 2 1, .cas 0 1 2 0, .cas 1 0 2 0, .casPub 0 1 2 0, .casPub 1 0 2 0, .red 0 1 0 2 0, .red 0 0 10 2 0, .red 0 0 8 2 0, .red 0 0 9 2 1, .red 1 0 0 2 1,
    .ldSub 0 1 2 0, .ldSub 1 0 2 1, .satom 11 0 0 2 0, .satom 9 0 0 2 1, .satom 0 1 0 2 0, .satom 10 0 1 2 0, .satom 10 0 2 2 1, .satom 0 0 1 2 1,
    .satomPub 11 0 0 2 0, .satomPub 9 0 0 2 1, .satomPub 0 1 0 2 0, .satomPub 10 0 1 2 0, .satomPub 10 0 2 2 1, .satomPub 0 0 1 2 1].all
    (fun i => !i.wf) = true := by decide

theorem test_wf_uniform : [Instr.saddB64 1 0 0, .saddB64 0 1 0, .saddB64 0 0 1, .ssubB64 1 0 0, .sandB64 1 0 0, .sorB64 1 0 0, .sxorB64 1 0 0, .sshlB64 1 0 0,
    .sshrN64 1 0 0, .sshrS64 1 0 0, .sreg 0 16, .sreg 0 0, .sreg 0 1, .sreg 0 12, .jmp 1, .jmpCall 1, .spawnL 1 0 0, .spawnG 1 0, .spawnG 0 1, .spawnB 1 0,
    .spawnB 0 1, .waitge 1 0, .waitge 0 1, .waitgeSys 1 0, .waitgeSys 0 1, .sld 1 0 0 1, .sld 0 1 0 0, .sst 1 0 0 1, .sst 0 1 0 0, .chain 0 1, .mcmd 1, .attn 1,
    .unmask 1, .coll 1, .ship 1, .replay 1 0, .replay 0 1, .csrr 1 0, .csrr 0 1, .csrw 1 0, .csrw 0 1, .trap 0 5, .tlbiPage 1 0, .ctxsvStop 1 0, .ctxsvPart 0 6,
    .ctxldPlace 1 0, .ctxldPart 0 6].all (fun i => !i.wf) = true := by decide

theorem test_wf_events : [Ev.endEvent 0 32, .childPlace [] 192, .continuationResume 0 192, .loadLimitWindow 12 0, .loadLimitWindow 0 192, .ownershipClaim 0 64 0,
    .mcmdStart 0 192, .kblockApply 12 0, .bargeRecordTake 0 0 2, .bargeDataLand 0 0 2 false, .slipfillRoom 0 192 0, .bargeWriteback 12 0 0, .unmaskRound 12,
    .collMemberLost 0 1024 [] [], .helmManifestSend 12, .graphNodeLaunch 0 256, .launchTake 0 0 8, .launchTake 0 64 0, .blockPlace 12 [],
    .distributorPreemptRequest 12, .dbgcmdInvalid 0 0 8 .deck, .cxlUnsupportedRequest 4 0, .bisnpReceived 12 0, .linkLoss 12, .extentGrant 0 1152 1 [] false,
    .extentGrant 0 0 255 [] false, .expanderRequest 0 4096 0 0 none, .stationRequest 0 4 0 0 0 0 none, .stationRequest 0 0 1024 0 0 0 none, .stationRequest 0 0 0 12 0 0 none, .stationAtomic 12 0 0 0 0 .add true 0 0,
    .berthTagFailure 12 0, .revocationNotice 0 256,
    .leaseRevoke 12 0, .mgmtRegWrite 16 0 0 .helm, .mgmtRegAccess 16 0 8 false .deck, .asidmapWrite 0 4096 0 .helm, .deckThrottle 0 17, .coreCheckFailure 0 192, .dieLevelUnitFailure 12].all
    (fun e => !e.wf) = true := by decide

/-! ## Decoding: every row's word, written from the encoding tables of R42-R48 and of the instructions' chapters with its fields at values of
their own, decodes to the row's instruction with its marker and guard -/

/-- Whether words decode to the headers and instructions beside them. -/
def reads (es : List (Nat × Bool × Nat × Instr)) : Bool :=
  es.all (fun e => decide (decode (BitVec.ofNat 32 e.1) 0 = .ok (⟨e.2.1, BitVec.ofNat 3 e.2.2.1⟩, e.2.2.2)))

theorem test_decode_lane_integer_1 : reads [
    (0x00E5122C, false, 7, .addB32 20 36 44), (0x4125122C, true, 1, .subB32 20 36 44), (0x02E5122C, false, 7, .addB64 20 36 44),
    (0x4365122C, true, 3, .mulB32 20 36 44), (0x04E5122C, false, 7, .mulhS32 20 36 44), (0x45A5122C, true, 5, .mulhN32 20 36 44),
    (0x06E5122C, false, 7, .macB32 20 36 44), (0x4705122C, true, 0, .minS32 20 36 44), (0x08E5122C, false, 7, .maxS32 20 36 44),
    (0x4945122C, true, 2, .and 20 36 44), (0x0AE5122C, false, 7, .or 20 36 44), (0x4B85122C, true, 4, .xor 20 36 44),
    (0x0CE5122C, false, 7, .shl 20 36 44), (0x4DC5122C, true, 6, .shrN32 20 36 44), (0x0EE5122C, false, 7, .shrS32 20 36 44),
    (0x4F25122C, true, 1, .fsh 20 36 44), (0x10E5122C, false, 7, .bfe 20 36 44), (0x5165122C, true, 3, .bfi 20 36 44),
    (0x12E51200, false, 7, .mov 20 36), (0x52A51209, true, 5, .shlImm 20 36 9), (0x12E51220, false, 7, .not 20 36),
    (0x52051229, true, 0, .shrN32Imm 20 36 9)] = true := by decide +kernel

theorem test_decode_lane_integer_2 : reads [
    (0x12E51240, false, 7, .neg 20 36), (0x52451249, true, 2, .shrS32Imm 20 36 9), (0x12E51260, false, 7, .absS32 20 36),
    (0x52851261, true, 4, .popc 20 36), (0x12E51262, false, 7, .clz 20 36), (0x52C51263, true, 6, .brev 20 36),
    (0x12E504E4, false, 7, .movSpecial 20 9), (0x52251265, true, 1, .rotImm 20 36 1), (0x13E51228, false, 7, .lea 20 36 40),
    (0x53651268, true, 3, .leaX4 20 36 40), (0x14E50024, false, 7, .movi 20 36), (0x55A50024, true, 5, .addi 20 36),
    (0x16ECA245, false, 7, .cmpi 3 20 36 5), (0x570DB140, true, 0, .plop 3 3 3 5), (0x17ED8400, false, 7, .voteAny 3 3),
    (0x574D8440, true, 2, .voteAll 3 3), (0x17E1848C, false, 7, .voteBallot 3 12), (0x578D84C0, true, 4, .voteEq 3 3)] = true := by decide +kernel

theorem test_decode_lane_float_1 : reads [
    (0x18E5122C, false, 7, .faddF32 20 36 44), (0x59C5122C, true, 6, .fsubF32 20 36 44), (0x1AE5122C, false, 7, .fmulF32 20 36 44),
    (0x5B25122C, true, 1, .fmacF32 20 36 44), (0x1CE51228, false, 7, .fmaF32 20 36 40), (0x5C651268, true, 3, .fmaF32Neg 20 36 40),
    (0x1DE5122C, false, 7, .fminF32 20 36 44), (0x5EA5122C, true, 5, .fmaxF32 20 36 44), (0x1FECA245, false, 7, .cmpf 3 20 36 5),
    (0x60051200, true, 0, .fabsF32 20 36), (0x20E51201, false, 7, .fnegF32 20 36), (0x60451202, true, 2, .fclassF32 20 36),
    (0x20E5120B, false, 7, .frndF32 20 36 3), (0x6185122C, true, 4, .hadd2Bf16 20 36 44), (0x22E5122C, false, 7, .hmul2Bf16 20 36 44),
    (0x63C5122C, true, 6, .hfma2Bf16 20 36 44), (0x24E5122C, false, 7, .hadd2F16 20 36 44), (0x6525122C, true, 1, .hmul2F16 20 36 44),
    (0x26E5122C, false, 7, .hfma2F16 20 36 44), (0x6765122C, true, 3, .dot4E4m3 20 36 44), (0x28E51207, false, 7, .faddF322a 20 36 3 1),
    (0x68A51217, true, 5, .fsubF322a 20 36 3 1)] = true := by decide +kernel

theorem test_decode_lane_float_2 : reads [
    (0x28E51227, false, 7, .fmulF322a 20 36 3 1), (0x68051237, true, 0, .hadd2Bf162a 20 36 3 1), (0x28E51247, false, 7, .hmul2Bf162a 20 36 3 1),
    (0x68451257, true, 2, .hadd2F162a 20 36 3 1), (0x28E51267, false, 7, .hmul2F162a 20 36 3 1), (0x6C851203, true, 4, .cvtEncF16 20 36 3),
    (0x2CE5120B, false, 7, .cvtEncBf16 20 36 3), (0x6CC51213, true, 6, .cvtEncE4m3 20 36 3), (0x2CE5121B, false, 7, .cvtEncE5m2 20 36 3),
    (0x6C251223, true, 1, .cvtEncS32 20 36 3), (0x2CE5122B, false, 7, .cvtEncN32 20 36 3), (0x6C651230, true, 3, .cvtDecF16 20 36),
    (0x2CE51238, false, 7, .cvtDecBf16 20 36), (0x6CA51240, true, 5, .cvtDecE4m3 20 36), (0x2CE51248, false, 7, .cvtDecE5m2 20 36),
    (0x6C051253, true, 0, .cvtDecS32 20 36 3), (0x2CE5125B, false, 7, .cvtDecN32 20 36 3), (0x6C451263, true, 2, .cvtPkBf16 20 36 3),
    (0x2CE5126B, false, 7, .cvtPkF16 20 36 3), (0x6C851273, true, 4, .cvtPk2E4m3 20 36 3), (0x2CE5127B, false, 7, .cvtPk2E5m2 20 36 3),
    (0x6DC51201, true, 6, .cvtBlkPk 20 36 1)] = true := by decide +kernel

theorem test_decode_lane_float_3 : reads [
    (0x2DE51203, false, 7, .cvtBlkEnc 20 36 1), (0x6D251209, true, 1, .cvtBlkDec 20 36 1), (0x2DE51210, false, 7, .bscale 20 36),
    (0x6D651211, true, 3, .bscaleKeepx 20 36)] = true := by decide +kernel

theorem test_decode_lane_sfu_cross : reads [
    (0x2EE51200, false, 7, .rcp 20 36), (0x6EA51201, true, 5, .rsq 20 36), (0x2EE51202, false, 7, .sqrt 20 36), (0x6E051203, true, 0, .exp2 20 36),
    (0x2EE51204, false, 7, .log2 20 36), (0x6E451205, true, 2, .sin 20 36), (0x2EE51206, false, 7, .cos 20 36), (0x6E851207, true, 4, .sincos 20 36),
    (0x2EE51208, false, 7, .tanh 20 36), (0x6FC51200, true, 6, .qxchPair 20 36), (0x2FE51201, false, 7, .qxchHalf 20 36),
    (0x6F251202, true, 1, .qxchDiag 20 36), (0x2FE51205, false, 7, .qxchBc 20 36 1), (0x6F651213, true, 3, .qred 20 36 3),
    (0x30E51209, false, 7, .shflUp 20 36 9), (0x70A51229, true, 5, .shflDown 20 36 9), (0x30E51249, false, 7, .shflXor 20 36 9),
    (0x7105122C, true, 0, .perm 20 36 44), (0x32E51228, false, 7, .topkMax 20 36 40), (0x72451268, true, 2, .topkMin 20 36 40),
    (0x33E51228, false, 7, .vx 20 36 40), (0x73851268, true, 4, .vxw 20 36 40)] = true := by decide +kernel

theorem test_decode_memory_1 : reads [
    (0x34E51212, false, 7, .ldB32 20 36 9), (0x74C51213, true, 6, .ldB64 20 36 9), (0x35E51212, false, 7, .stB32 20 36 9),
    (0x75251213, true, 1, .stB64 20 36 9), (0x36E51212, false, 7, .ldsB32 20 36 9), (0x76651213, true, 3, .ldsB64 20 36 9),
    (0x37E51212, false, 7, .stsB32 20 36 9), (0x77A51213, true, 5, .stsB64 20 36 9), (0x38E51212, false, 7, .ldB128 20 36 9),
    (0x78051213, true, 0, .ldsB128 20 36 9), (0x39E51212, false, 7, .stB128 20 36 9), (0x79451213, true, 2, .stsB128 20 36 9),
    (0x3AE51203, false, 7, .ldN8 20 36 3), (0x7A85120B, true, 4, .ldS8 20 36 3), (0x3AE51213, false, 7, .ldN16 20 36 3),
    (0x7AC5121B, true, 6, .ldS16 20 36 3), (0x3AE51223, false, 7, .stB8 20 36 3), (0x7A25122B, true, 1, .stB16 20 36 3),
    (0x3AE51233, false, 7, .ldsN8 20 36 3), (0x7A65123B, true, 3, .ldsN16 20 36 3), (0x3AE51243, false, 7, .stsB8 20 36 3),
    (0x7AA5124B, true, 5, .stsB16 20 36 3)] = true := by decide +kernel

theorem test_decode_memory_2 : reads [
    (0x3AE51253, false, 7, .ldyB32 20 36 3), (0x7A004A5B, true, 0, .pref 1 20 3), (0x3AE51263, false, 7, .ldkv 20 36 3),
    (0x7A45126B, true, 2, .ldkvTrap 20 36 3), (0x3AF34A73, false, 7, .dldB32 77 20 3), (0x7A934A7B, true, 4, .dstB32 77 20 3),
    (0x3BE5122B, false, 7, .accrd 20 36 1 1 3), (0x7BC5123F, true, 6, .accwr 20 36 1), (0x3CE5122B, false, 7, .atom 20 36 5 1 1),
    (0x7C251253, true, 1, .cas 20 36 1 1), (0x3DE5122B, false, 7, .atomPub 20 36 5 1 1), (0x7D651253, true, 3, .casPub 20 36 1 1),
    (0x3EE5122B, false, 7, .red 20 36 5 1 1), (0x7EA5127B, true, 5, .ldSub 20 36 1 1)] = true := by decide +kernel

theorem test_decode_lane_escape : reads [
    (0x3FE51200, false, 7, .minN32 20 36), (0x7F051201, true, 0, .maxN32 20 36), (0x3FE51202, false, 7, .rot 20 36),
    (0x7F451203, true, 2, .rotr 20 36), (0x3FE51204, false, 7, .addS32Sat 20 36), (0x7F851205, true, 4, .subS32Sat 20 36),
    (0x3FE5120B, false, 7, .sel 20 36 3), (0x7FC51213, true, 6, .selNot 20 36 3)] = true := by decide +kernel

theorem test_decode_uniform_1 : reads [
    (0x80E63140, false, 7, .sadd 12 24 40), (0xC0263141, true, 1, .ssub 12 24 40), (0x80E63142, false, 7, .sand 12 24 40),
    (0xC0663143, true, 3, .sor 12 24 40), (0x80E63144, false, 7, .sxor 12 24 40), (0xC0A63145, true, 5, .sshl 12 24 40),
    (0x80E63146, false, 7, .sshrN32 12 24 40), (0xC0063147, true, 0, .sshrS32 12 24 40), (0x81E63140, false, 7, .smul 12 24 40),
    (0xC1463141, true, 2, .smulhS32 12 24 40), (0x81E63142, false, 7, .smulhN32 12 24 40), (0xC1863143, true, 4, .sminS32 12 24 40),
    (0x81E63144, false, 7, .smaxS32 12 24 40), (0xC1C63145, true, 6, .sminN32 12 24 40), (0x81E63146, false, 7, .smaxN32 12 24 40),
    (0xC1263147, true, 1, .srot 12 24 40), (0x82E63140, false, 7, .saddB64 12 24 40), (0xC2663141, true, 3, .ssubB64 12 24 40),
    (0x82E63142, false, 7, .sandB64 12 24 40), (0xC2A63143, true, 5, .sorB64 12 24 40), (0x82E63144, false, 7, .sxorB64 12 24 40),
    (0xC2063145, true, 0, .sshlB64 12 24 40)] = true := by decide +kernel

theorem test_decode_uniform_2 : reads [
    (0x82E63146, false, 7, .sshrN64 12 24 40), (0xC2463147, true, 2, .sshrS64 12 24 40), (0x83E63000, false, 7, .smov 12 24),
    (0xC3863001, true, 4, .snot 12 24), (0x83E63002, false, 7, .spopc 12 24), (0xC3C63003, true, 6, .sclz 12 24), (0x83E63004, false, 7, .sbrev 12 24),
    (0xC3263145, true, 1, .sbfeN32 12 24 40), (0x83E63146, false, 7, .sbfeS32 12 24 40), (0xC3663147, true, 3, .sbfi 12 24 40),
    (0x84E198C3, false, 7, .sset 3 12 24 3), (0xC5A63143, true, 5, .ssel 12 24 40 3), (0x86E60024, false, 7, .saddi 12 36),
    (0xC7060024, true, 0, .smovi 12 36), (0x89E60005, false, 7, .sreg 12 5), (0xCA460024, true, 2, .sandi 12 36), (0x8BE60024, false, 7, .sori 12 36),
    (0xCC860024, true, 4, .sxori 12 36), (0x8DEDB500, false, 7, .qlop 3 3 3 5)] = true := by decide +kernel

theorem test_decode_control_1 : reads [
    (0xD4DABCDE, true, 6, .bra 1752286), (0x95FABCDE, false, 7, .call 1752286), (0xD6201800, true, 1, .jmp 12), (0x96E09800, false, 7, .jmpCall 12),
    (0xD665DA5B, true, 3, .jmpT 3 23131), (0x96E9DA5B, false, 7, .jmpF 3 23131), (0xD7A00000, true, 5, .ret), (0x98E01800, false, 7, .conv 12),
    (0xD8008000, true, 0, .convAll), (0x99E60024, false, 7, .loop 12 36), (0xDA400000, true, 2, .exit), (0xA0E00000, false, 7, .frameOpen),
    (0xE18018C3, true, 4, .spawnL 12 24 3), (0xA2E018C0, false, 7, .spawnG 12 24), (0xE3C018C0, true, 6, .spawnB 12 24),
    (0xA4E00000, false, 7, .await), (0xE52298C0, true, 1, .barArrive 5 12 24), (0xA5E28061, false, 7, .barWait 5 12),
    (0xE5629802, true, 3, .barSync 5 12), (0xA5E198C4, false, 7, .barArriveClu 3 12 24), (0xE5A18065, true, 5, .barWaitClu 3 12),
    (0xA5E19806, false, 7, .barSyncClu 3 12)] = true := by decide +kernel

theorem test_decode_control_2 : reads [
    (0xE60018C0, true, 0, .waitge 12 24), (0xA6E098C0, false, 7, .waitgeSys 12 24), (0xE7400000, true, 2, .yield)] = true := by decide +kernel

theorem test_decode_uniform_memory : reads [
    (0xA8E63143, false, 7, .sld 12 24 40 3), (0xE9863143, true, 4, .sst 12 24 40 3), (0xAAEA18C3, false, 7, .satom 5 12 24 1 1),
    (0xEBCA18C3, true, 6, .satomPub 5 12 24 1 1)] = true := by decide +kernel

theorem test_decode_engines : reads [
    (0xB0E09800, false, 7, .chain 1 12), (0xF1201800, true, 1, .mcmd 12), (0xB2E01800, false, 7, .attn 12), (0xF3601800, true, 3, .unmask 12),
    (0xB4E01800, false, 7, .coll 12), (0xF5A01800, true, 5, .ship 12), (0xB6E018C0, false, 7, .replay 12 24)] = true := by decide +kernel

theorem test_decode_system : reads [
    (0xFC060801, true, 0, .csrr 12 2049), (0xBCE64801, false, 7, .csrw 12 2049), (0xFD400000, true, 2, .nop), (0xBDE09803, false, 7, .trap 12 3),
    (0xFD810000, true, 4, .eret), (0xBDE18000, false, 7, .brk), (0xFEC018C0, true, 6, .asgen 12 24), (0xBEE09800, false, 7, .tlbiAsid 12),
    (0xFE2118C0, true, 1, .tlbiPage 12 24), (0xBEE18000, false, 7, .tlbiAll), (0xFF6018C0, true, 3, .ctxsvStop 12 24),
    (0xBFE08063, false, 7, .ctxsvPart 12 3), (0xFFA10000, true, 5, .ctxsvRelease), (0xBFE418C0, false, 7, .ctxldPlace 12 24),
    (0xFF048063, true, 0, .ctxldPart 12 3), (0xBFE50000, false, 7, .ctxldResume)] = true := by decide +kernel

theorem test_decode_slit : decode 0x88E28000 7 = .ok (⟨false, 7⟩, .slit 5 7) ∧ decode 0x88E28001 7 = .ok (⟨false, 7⟩, .slitAdd 5 7) ∧
    decode 0x88E28002 7 = .ok (⟨false, 7⟩, .slitAnd 5 7) ∧ decode 0x88E28003 7 = .ok (⟨false, 7⟩, .slitOr 5 7) ∧
    decode 0xC8228004 7 = .ok (⟨true, 1⟩, .slitXor 5 7) ∧ decode 0x88E28005 7 = .error .unassignedSelector := by decide +kernel

/-- A word is read from its bytes in ascending order (R9), a SLIT with its literal, and the rest is left. -/
theorem test_decode_bytes : decodeBytes [0x82, 0xC0, 0xE0, 0x00, 9] = .ok ((⟨false, 7⟩, .addB32 3 1 2), [9]) ∧
    decodeBytes [0x00, 0x80, 0xE2, 0x88, 7, 0, 0, 0, 9] = .ok ((⟨false, 7⟩, .slit 5 7), [9]) ∧
    decodeBytes [0x00, 0x80, 0xE2, 0x88, 7, 0, 0] = .error .short := by decide +kernel

/-- Unassigned majors of both sets (R46, R47). -/
theorem test_decode_unassigned : [0x29, 0x2A, 0x2B, 0x8E, 0x93, 0x9B, 0x9F, 0xAC, 0xAF, 0xB7, 0xBB].all
    (fun k => decide (decode (BitVec.ofNat 32 (k * 2 ^ 24)) 0 = .error .unassignedMajor)) = true := by decide +kernel


/-! ## States that meet the hypotheses of the statements -/

/-- A group of one block on core 0 of die 0, all its lanes ready at 0x1000. -/
def tG : Group := { block := 7, nregs := 32, ndeep := 16, lanes := List.replicate 32 { st := .ready, pc := 0x1000 } }

/-- Its issue of an unguarded word by all lanes. -/
def tC : Issue := ⟨5, 0x1000, 0xFFFFFFFF, ⟨false, 7⟩, 0, 4⟩

/-- A state with that group: one context bound on die 0, translation on, the first GiB mapped for reading, writing and fetching. -/
def tS (g : Group) : State :=
  { State.reset with
    dies := [(0, { mg := { world := 1 }, dm := { tlb := [⟨0, 0, 30, 0, 0x0F, 0⟩] } })], cores := [(0, { tlb := [⟨0, 0, 30, 0, 0x0F, 0⟩] })], ctxs := [(0, { dies := [0], asctl := 1 })],
    blocks := [(7, { groups := [5] })], groups := [(5, g)], model := { cur := some tC, nextId := 100 } }

/-- An access of the group's lane 31 in flight, in the die's own memory. -/
def tA (k : AccKind) : Access :=
  { id := 60, gid := 5, lane := some 31, op := none, die := 0, core := 0, ctx := 0, ring := 0, asid := 0, gen := 0, va := 0x2000, pa := 0x2000, cbit := false,
    mp := .plain, kind := k, child := [], pend := some 61, dsts := [some (.v 3 31)], mask := 0x80000000, pc := 0x1000, word := 0, published := false, full := false }

/-- The same state with an event to take place. -/
def tE (s : State) (e : Ev) : State := { s with model := { s.model with ev := some e } }

/-- A statement of the lanes of ACTIVE from one of the 32 lanes. -/
theorem all_active {c : Issue} {g : Group} {P : Nat → Prop} (h : ∀ l, l < 32 → P l) : ∀ l, active c g l = true → P l := by
  intro l hl
  have : l < 32 := by simp only [active, Bool.and_eq_true, decide_eq_true_eq] at hl; exact hl.1.1
  exact h l this

/-- A statement of every die from the dies that are listed. -/
theorem all_dies {s : State} {P : Die → Prop} (h0 : P {}) (h : ∀ e ∈ s.dies, P e.2) (d : Nat) : P (s.die d) := by
  have : ∀ m : FMap Die, (∀ e ∈ m, P e.2) → P (FMap.getD m d {}) := by
    intro m
    induction m with
    | nil => exact fun _ => h0
    | cons e m ih =>
      intro hm
      unfold FMap.getD FMap.get?
      split
      · exact hm e (.head _)
      · exact ih (fun x hx => hm x (.tail _ hx))
  exact this _ h

/-- Memory at rest, from what the listed dies hold. -/
theorem at_rest {s : State} (hl : s.mem.linkFails = []) (hd : s.mem.damaged = []) (hb : s.mem.badPages = [])
    (h : s.dies.all (fun e => e.2.dm.l2.all (fun x => decide (x.dirty = [] ∧ x.poison = false)) &&
      e.2.dm.objs.all (fun o => decide (o.2.owner = none ∧ o.2.pull = false)) && decide (e.2.dm.expSnoop = [])) = true) : AtRest s :=
  ⟨⟨hl, hd, hb⟩, all_dies (P := fun x => (∀ y ∈ x.dm.l2, y.dirty = [] ∧ y.poison = false) ∧ (∀ e ∈ x.dm.objs, e.2.owner = none ∧ e.2.pull = false) ∧
    x.dm.expSnoop = []) (by decide) (by simpa [and_assoc] using h)⟩

theorem done_of {x : Closed} (h : (match x with | .done _ => true | _ => false) = true) : ∃ u, x = .done u := by
  cases x <;> simp_all

theorem ok_of {α β ε : Type} {x : Except ε α × β} (h : (match x.1 with | .ok _ => true | _ => false) = true) : ∃ a b, x = (.ok a, b) := by
  obtain ⟨a, b⟩ := x; cases a <;> simp_all

/-- An issue in progress: all that the statements about results of register instructions ask for. -/
theorem wit_issuing : Issuing (tS tG) tC tG ∧ Guarded tC tG ∧ active tC tG 31 = true := ⟨⟨rfl, rfl, rfl⟩, rfl, rfl⟩

/-- LanePredicates: no lane with a tagged source; a lane with one; words that are NaN and that are not. -/
theorem wit_LanePredicates : (Issuing (tS tG) tC tG ∧ ∀ l, active tC tG l = true → (tG.lane l).helper = false → tG.vt 1 l = false ∧ tG.vt 2 l = false) ∧
    (let g := { tG with v := [(2 * 32 + 31, ⟨0, true⟩)] }; Issuing (tS g) tC g ∧ active tC g 31 = true ∧ (g.lane 31).helper = false ∧ g.vt 2 31 = true) :=
  ⟨⟨⟨rfl, rfl, rfl⟩, all_active (by decide)⟩, ⟨⟨rfl, rfl, rfl⟩, rfl, rfl, rfl⟩⟩

/-- FloatArithmetic, SfuResults, LanePredicates, PackedArithmetic: both classes of operands of FMIN and FMAX, and of FRND's modes the last. -/
theorem wit_FloatArithmetic : (fv32 nan32).isNan = true ∧ (fv32 0x3F800000#32).isNan = false ∧ Fv.lt (fv32 0xBF800000#32) (fv32 0x3F800000#32) = true ∧
    (4#3).toNat ≤ 4 ∧ fv32 0xFF800000#32 = .inf true ∧ (∃ m e, fv32 0x3F800000#32 = .fin false m e) ∧
    (∀ i, i < 4 → (e4m3.decode (0x38383838 / 2 ^ (8 * i) % 256)).isNan = false) ∧ (e4m3.decode 0x7F).isNan = true := by
  refine ⟨by decide +kernel, by decide +kernel, by decide +kernel, by decide, by decide +kernel, ⟨_, _, rfl⟩, ?_, by decide +kernel⟩
  decide +kernel

/-- TwoAddressForms: subnormal sources and others, and a result that is subnormal and one that is not. -/
theorem wit_TwoAddressForms : fp16.isSub 0x8001 = true ∧ fp16.isSub 0x0400 = false ∧ fp16.isSub 0x3C00 = false ∧
    fp16.isSub (moded fp16 0#3 0#1 (fun n x y => Fv.add n x y) 0x0401 0x8400) = true ∧
    fp16.isSub (moded fp16 0#3 0#1 (fun n x y => Fv.add n x y) 0x0400 0x3C00) = false := by decide +kernel

/-- RoundingRule: numbers that a code stands for, between the least codes, at both sides of a tie, beyond the largest code and half a unit beyond it. -/
theorem wit_RoundingRule : fp16 ∈ floatFormats ∧ mag fp16 1 = 1 * (2 : ℚ) ^ (-24 : Int) ∧ 1 ≤ fp16.maxBits false ∧
    (mag fp16 0 < 1 * (2 : ℚ) ^ (-25 : Int) ∧ 1 * (2 : ℚ) ^ (-25 : Int) < mag fp16 1) ∧ AwayAt .rna false 0 (1 / 2) ∧ ¬ AwayAt .rne false 0 (1 / 2) ∧
    mag fp16 (fp16.maxBits false) < 1 * (2 : ℚ) ^ (16 : Int) := by
  have h0 : fp16.decode 0 = .fin false 0 (-24) := by decide +kernel
  have h1 : fp16.decode 1 = .fin false 1 (-24) := by decide +kernel
  have h2 : fp16.decode (fp16.maxBits false) = .fin false 2047 5 := by decide +kernel
  refine ⟨by simp [floatFormats], ?_, by decide +kernel, ⟨?_, ?_⟩, ?_, ?_, ?_⟩ <;> simp only [mag, AwayAt, h0, h1, h2, num] <;> norm_num

/-- DeepRegisters: the last register of the declaration, and the first past it, with no result outstanding. -/
theorem wit_DeepRegisters : Issuing (tS tG) tC tG ∧ (tG.sv 0).toNat + (15#7).toNat < tG.ndeep ∧ tG.pend = [] ∧ tG.ndeep ≤ (tG.sv 0).toNat + (16#7).toNat ∧
    active tC tG 0 = true := ⟨⟨rfl, rfl, rfl⟩, by decide, rfl, by decide, rfl⟩

/-- UniformOthers: sources without a tag, and with one. -/
theorem wit_UniformOthers : (Issuing (tS tG) tC tG ∧ tG.st 1 = false ∧ tG.st 2 = false) ∧
    (let g := { tG with s := [(62, ⟨0, true⟩)] }; Issuing (tS g) tC g ∧ Guarded tC g ∧ g.st 62 = true) := ⟨⟨⟨rfl, rfl, rfl⟩, rfl, rfl⟩, ⟨rfl, rfl, rfl⟩, rfl, rfl⟩

/-- UniformWithoutEffect: a word whose guard is q0, which is false. -/
theorem wit_UniformWithoutEffect : let c : Issue := ⟨5, 0x1000, 0xFFFFFFFF, ⟨false, 0⟩, 0, 4⟩
    let s := { tS tG with model := { cur := some c, nextId := 100 } }
    Issuing s c tG ∧ tG.qpred c.hdr.g.toNat = false ∧ (Instr.fields c.hdr (.sadd 1 2 3)).isSome = true ∧ laneForm (.sadd 1 2 3) = false :=
  ⟨⟨rfl, rfl, rfl⟩, rfl, rfl, rfl⟩

/-- Branches: return stacks with room for one more and full, empty and not; targets that may be jumped to, not canonical, misaligned, tagged. -/
theorem wit_Branches :
    let deep := fun n => { tG with lanes := List.replicate 32 { st := .ready, pc := 0x1000, rstack := List.replicate n 0x2000 } }
    let tgt := fun (lo hi : Word) t => { tG with s := [(2, ⟨lo, t⟩), (3, ⟨hi, false⟩)] }
    (Issuing (tS (deep 15)) tC (deep 15) ∧ Guarded tC (deep 15) ∧ ∀ l, l < 32 → tC.lanes.getLsbD l = true → ((deep 15).lane l).rstack.length < 16) ∧
    (∀ l, l < 32 → tC.lanes.getLsbD l = true → ((deep 1).lane l).rstack ≠ []) ∧ 16 ≤ ((deep 16).lane 31).rstack.length ∧ ((deep 0).lane 0).rstack = [] ∧
    ((tgt 0xFFFFFFFC 0x00FFFFFF false).sPairT 2 = false ∧ canonical ((tgt 0xFFFFFFFC 0x00FFFFFF false).sPair 2) = true ∧
      ((tgt 0xFFFFFFFC 0x00FFFFFF false).sPair 2).toNat % 4 = 0) ∧
    (canonical ((tgt 0 0x01000000 false).sPair 2) = false ∧ ((tgt 2 0 false).sPair 2).toNat % 4 ≠ 0 ∧ (tgt 0 0 true).sPairT 2 = true ∧ (tgt 0 0 true).st 2 = true) := by
  refine ⟨⟨⟨rfl, rfl, rfl⟩, rfl, ?_⟩, ?_, ?_, rfl, ?_, ?_⟩ <;> decide +kernel

/-- UniformWithoutEffect: a result outstanding. Convergence: none, and lanes that are still to come, or all there. -/
theorem wit_Convergence : (let g := { tG with pend := [⟨9, none, [], .waiting, false, none, 0, false⟩] }; Issuing (tS g) tC g ∧ Guarded tC g ∧ settled g = false) ∧
    (Issuing (tS tG) tC tG ∧ tG.pend = [] ∧ tG.lanes.length = 32 ∧ (∀ k, real tG k → tC.lanes.getLsbD k = true)) ∧
    (let c : Issue := { tC with lanes := 1 }
     real tG 0 ∧ c.lanes.getLsbD 0 = true ∧ real tG 31 ∧ c.lanes.getLsbD 31 = false ∧ (tG.lane 31).st = .ready) :=
  ⟨⟨⟨rfl, rfl, rfl⟩, rfl, rfl⟩, ⟨⟨rfl, rfl, rfl⟩, rfl, rfl, fun k h => (by decide : ∀ k, k < 32 → tC.lanes.getLsbD k = true) k h.1⟩,
    ⟨by decide, rfl, rfl⟩, rfl, ⟨by decide, rfl, rfl⟩, rfl, rfl⟩

/-- LanesAndGroupsEnd: a lane that goes on beside those that end, all lanes at an end, and a lane and a group that the events may end. -/
theorem wit_LanesAndGroupsEnd : (Settled (tS tG) tC tG ∧ tG.handling = none) ∧ (∃ k, real tG k ∧ ({ tC with lanes := 1 } : Issue).lanes.getLsbD k = false) ∧
    (tG.frames = [] ∧ opsOpen (tS tG) tG = false ∧ tG.holds.switch = false ∧ tG.loc = .resident) ∧
    (let g := { tG with frames := [20] }; Settled (tS g) tC g ∧ g.handling = none ∧ g.frames ≠ []) ∧
    (let g := { tG with lanes := List.replicate 32 { st := .stopped } }
     let s := tE (tS g) (.endEvent 5 31)
     s.model.ev = some (.endEvent 5 31) ∧ FMap.get? s.groups 5 = some g ∧ (g.lane 31).st = .stopped ∧ g.frames = [] ∧ opsOpen s g = false ∧ inFlight s 5 = false ∧
       g.loc = .resident ∧ g.holds.switch = false) ∧
    (let g := { tG with lanes := List.replicate 32 {} }
     let s := tE (tS g) (.groupEnd 5)
     s.model.ev = some (.groupEnd 5) ∧ FMap.get? s.groups 5 = some g ∧ g.over = true ∧ g.frames = [] ∧ opsOpen s g = false ∧ inFlight s 5 = false ∧ mayEnd g = true) :=
  ⟨⟨⟨rfl, rfl⟩, rfl⟩, ⟨31, ⟨by decide, rfl, rfl⟩, by decide⟩, ⟨rfl, rfl, rfl, rfl⟩, ⟨⟨rfl, rfl⟩, rfl, List.cons_ne_nil _ _⟩, ⟨rfl, rfl, rfl, rfl, rfl, rfl, rfl, rfl⟩,
    ⟨rfl, rfl, by decide, rfl, rfl, rfl, rfl⟩⟩

/-- A group with an open frame of no children under a launch with a free record. -/
def tF : Group := { tG with frames := [20], launch := 30 }
def tSF (count depth : Nat) (free : List DWord) (g : Group) : State :=
  { tS g with frames := [(20, { addr := 0x4000, gid := 5, launch := 30, count := count, depth := depth })], launches := [(30, { dies := [0], free := free })] }

/-- FramesOpenAndClose: a record to take at the last depth that may be opened, none to take, the depth at which ADDR is raised; ends that are due while
accesses are in flight; no frame, a frame with no child left, a frame with one. -/
theorem wit_FramesOpenAndClose :
    (Issuing (tSF 0 63 [0x4080] tF) tC tF ∧ Guarded tC tF ∧ (FMap.get? (tSF 0 63 [0x4080] tF).launches tF.launch).map (·.free) = some [0x4080] ∧
      frameDepth (tSF 0 63 [0x4080] tF) tF < 64 ∧ endsOwed (tSF 0 63 [0x4080] tF) tF = false ∧ (liveFrames (tSF 0 63 [0x4080] tF) 0).length < 4096) ∧
    (let g := { tG with lanes := tG.lanes.set 31 { st := .stopped } }
     let s := { tS g with flight := [tA (.load 4 .words)] }
     Issuing s tC g ∧ frameDepth s g < 64 ∧ endsOwed s g = true ∧ inFlight s tC.gid = true) ∧
    ((FMap.get? (tSF 0 63 [] tF).launches tF.launch).map (·.free) = some []) ∧ 64 ≤ frameDepth (tSF 0 64 [] tF) tF ∧
    (Settled (tS tG) tC tG ∧ tG.frames = []) ∧
    (Settled (tSF 0 1 [] tF) tC tF ∧ (FMap.get? (tSF 0 1 [] tF).frames 20).map (·.count) = some 0 ∧ ∃ u, closeFrame (tSF 0 1 [] tF) tC.gid tF 20 = .done u) ∧
    (FMap.get? (tSF 1 1 [] tF).frames 20).map (·.count) = some 1 :=
  ⟨⟨⟨rfl, rfl, rfl⟩, rfl, rfl, by decide, by decide, by decide⟩, ⟨⟨rfl, rfl, rfl⟩, by decide, by decide +kernel, rfl⟩, rfl, by decide, ⟨⟨rfl, rfl⟩, rfl⟩, ⟨⟨rfl, rfl⟩, rfl, done_of (by decide +kernel)⟩, rfl⟩

/-- A kernel table of one kernel of one group and eight registers, whose one entry is 0x1000. -/
def tMem : MemSys := { bytes := [(0x800C, 8), (0x800E, 1), (0x8019, 0x81), (0x8020, 1), (0x8101, 0x10)] }
def tK : Kernel := { regs := 8, groups := 1, entries := [0x1000] }
def tSK (s : State) : State := { s with mem := tMem, ctxs := FMap.mapV s.ctxs (fun _ x => { x with ktab := 0x8000, nkern := 1 }) }

/-- Spawns: an entry whose kernel is found, from an open frame with a record free, and numbers left to the last; no frame; a tagged entry. -/
theorem wit_Spawns :
    (let g := { tF with s := [(2, ⟨0x1000, false⟩)] }
     let s := tSK (tSF 0xFFFFFFDF 1 [0x4080] g)
     let r := entryKernel s 0 0 (g.sPair 2) (holdOf s g tC.lanes)
     Issuing s tC g ∧ Guarded tC g ∧ inFlight s tC.gid = false ∧ g.sPairT 2 = false ∧ r.1 = .ok (some tK) ∧ FMap.get? r.2.frames 20 = FMap.get? s.frames 20 ∧
       FMap.get? r.2.launches g.launch = FMap.get? s.launches 30 ∧ FMap.get? r.2.groups tC.gid = some g ∧ freeKernel tK = true ∧
       fitsEmpty tK (effCarve s 0 0) = true) ∧
    (Guarded tC tG ∧ tG.sPairT 2 = false ∧ tG.frames = []) ∧ ({ tG with s := [(2, ⟨0, true⟩)] } : Group).sPairT 2 = true := by
  unfold Issuing Guarded; decide +kernel

/-- Barriers: an arrival that completes the phase and one that does not, at the largest count, past it; a stale token and the phase's own; a cluster
barrier, and none for a free-standing group. -/
theorem wit_Barriers :
    (let g := { tG with s := [(1, ⟨2047, false⟩), (2, ⟨2048, false⟩), (3, ⟨1, false⟩)] }
     let s := { tS g with clusters := [(0, { blocks := [7] })] }
     Issuing s tC g ∧ Guarded tC g ∧ Settled s tC g ∧ HasBar s g false ∧ HasBar s g true ∧ barOf s g false 0 = some {} ∧ barOf s g true 7 = some {} ∧
       g.st 1 = false ∧ (g.sv 1).toNat < 2048 ∧ 2048 ≤ (g.sv 2).toNat ∧ tC.gid ∉ ({} : Bar).waiters ∧ (g.sv 3).getLsbD 0 ≠ ({} : Bar).phase ∧
       (g.sv 0).getLsbD 0 = ({} : Bar).phase) ∧
    (let g := { tG with kind := .child }; Issuing (tS g) tC g ∧ Settled (tS g) tC g ∧ g.free = true) := by
  refine ⟨⟨⟨rfl, rfl, rfl⟩, rfl, ⟨rfl, rfl⟩, ⟨_, rfl, fun h => nomatch h⟩, ⟨_, rfl, fun _ => ⟨rfl, rfl, rfl⟩⟩, ?_⟩, ⟨rfl, rfl, rfl⟩, ⟨rfl, rfl⟩, rfl⟩
  decide +kernel

/-- CounterWaits: an aligned word that translates, at the operand and below it; a misaligned address. -/
theorem wit_CounterWaits :
    let g := { tG with s := [(2, ⟨0x2000, false⟩), (4, ⟨1, false⟩), (6, ⟨4, false⟩)] }
    let s := tS g
    let r := xlNeeds s 0 0 0 0 (g.sPair 2) [.read] { gid := some tC.gid, child := holdOf s g tC.lanes }
    let q := homeRead (claimLine r.2 0 0 (0x2000 / 128)) 0 0x2000 8
    (Issuing s tC g ∧ Settled s tC g) ∧ Guarded tC g ∧ g.sPairT 2 = false ∧ g.sPairT 4 = false ∧ addrBad (g.sPair 2) 8 = false ∧ addrBad (g.sPair 6) 8 = true ∧
      r.1 = .ok ⟨0x2000, false⟩ ∧ mpCheck r.2 0 0x2000 false = none ∧ placeErr r.2 0 0x2000 = none ∧ q.1 = false ∧
      viewMark q.2 0 (holdOf s g tC.lanes) 0x2000 = false ∧
      ((viewLoc q.2 0 (holdOf s g tC.lanes) 0x2000 true).1.toNat ≥ (g.sPair 0).toNat ∧
        (viewLoc q.2 0 (holdOf s g tC.lanes) 0x2000 true).1.toNat < (g.sPair 4).toNat) := by
  refine ⟨⟨⟨rfl, rfl, rfl⟩, ⟨rfl, rfl⟩⟩, rfl, ?_⟩
  decide +kernel

/-- CounterWaits at .sys: a word behind a CXL port, which MPOLICY permits. -/
theorem wit_CounterWaits_sys :
    let g := { tG with s := [(3, ⟨0x10, false⟩)] }
    let s := { tS g with
      dies := [(0, { mpolicy := 2, mg := { world := 1, fwin := [(0, { lo := 0x5E00000000000000#64, hi := 0 })] } })],
      cores := [(0, { tlb := [⟨0, 0x1000000000 / 2 ^ 30, 30, 2 ^ 51, 0x0F, 0⟩] })] }
    let r := xlNeeds s 0 0 0 0 (g.sPair 2) [.read] { gid := some tC.gid, child := holdOf s g tC.lanes }
    let q := homeRead (claimLine r.2 0 0 (0x1000000000 / 128)) 0 (2 ^ 51) 8
    Issuing s tC g ∧ r.1 = .ok ⟨2 ^ 51, false⟩ ∧ mpCheck r.2 0 (2 ^ 51) true = none ∧ placeErr r.2 0 (2 ^ 51) = none ∧ q.1 = false ∧
      viewMark q.2 0 (holdOf s g tC.lanes) (2 ^ 51) = false := by
  refine ⟨⟨rfl, rfl, rfl⟩, ?_⟩
  decide +kernel

/-- ControlRegisters: every ring that the addresses distinguish, at the address where denial begins; an operand without a tag and with one. -/
theorem wit_ControlRegisters :
    let g := { tG with ring := 2, s := [(4, ⟨0, true⟩)] }
    Issuing (tS g) tC g ∧ Guarded tC g ∧ csrDenied g 0x802 = false ∧ assignedCsr 0x802 = true ∧ csrDenied g 0xC14 = true ∧ csrDenied tG 0x400 = true ∧
      csrDenied tG 0x000 = false ∧ ((tS g).ctx? g.die g.ctx).isSome = true ∧ ((tS g).ctx g.die g.ctx).trapvec.length = 3 ∧
      ((tS g).ctx g.die g.ctx).traptmo.length = 3 ∧ g.sPairT 2 = false ∧ g.sPairT 4 = true := by
  unfold Issuing Guarded; decide +kernel

/-- SmallSystem: the debug enable clear and set, a ready pending group of the quarter, TRAP's rungs for the user ring at its limit, ERET outside a handler. -/
theorem wit_SmallSystem :
    (Issuing (tS tG) tC tG ∧ Guarded tC tG ∧ (dbgWin (tS tG) 0 0).en = false ∧ tG.handling = none ∧ tG.ring = 0 ∧ 3 ≤ (3#3).toNat ∧ ¬ 3 ≤ (2#3).toNat) ∧
    (dbgWin { tS tG with dies := [(0, { mg := { dbg := [(0, { en := true })] } })] } 0 0).en = true ∧
    (let s := { tS tG with groups := [(5, tG), (6, { tG with active := false })] }
     Issuing s tC tG ∧ tG.active = true ∧ tG.pend = [] ∧ (∀ p, (tC.gid, p) ∈ s.groups → p = tG) ∧ (6, { tG with active := false }) ∈ quarterGroups s 0 0 0 ∧
       FMap.get? s.groups 6 = some { tG with active := false } ∧ ({ tG with active := false } : Group).couldIssue = true) :=
  ⟨⟨⟨rfl, rfl, rfl⟩, rfl, rfl, rfl, rfl, by decide, by decide⟩, rfl, ⟨rfl, rfl, rfl⟩, rfl, rfl, by simp [tC], by simp [quarterGroups, tG], rfl, by decide⟩

/-- AddressSpaceForms: the least ring and a mapped address space, one past the last, the user ring, another's; tagged operands; and the two events. -/
theorem wit_AddressSpaceForms :
    let g := { tG with ring := 2, s := [(1, ⟨4095, false⟩), (2, ⟨4096, false⟩), (3, ⟨7, false⟩), (4, ⟨0, true⟩)] }
    let s := { tS g with pkg := { asidmap := [(4095, ⟨true, 0⟩)] } }
    (Issuing s tC g ∧ Guarded tC g ∧ (g.sv 1).toNat < 4096 ∧ 1 ≤ g.ring.toNat ∧ asidOwned s 0 4095 = true ∧ inFlight s tC.gid = false ∧ 4096 ≤ (g.sv 2).toNat ∧
      asidOwned s 0 7 = false ∧ (g.sv 3).toNat < 4096 ∧ tG.ring.toNat = 0 ∧ g.st 1 = false ∧ g.st 4 = true ∧ g.sPairT 2 = false ∧ g.sPairT 4 = true ∧
      2 ≤ g.ring.toNat ∧ tG.ring.toNat < 2) ∧
    (let h := { tG with wait := .asgen 4095 62 false, pend := [⟨62, none, [some (.s 1)], .waiting, false, none, 0, false⟩] }
     let t := tE (tS h) (.asgenInForce 5)
     let w := { t with pkg := { gens := [(4095, 0xFFFF)] }, flight := [{ tA (.load 4 .words) with asid := 4095 }] }
     t.model.ev = some (.asgenInForce 5) ∧ FMap.get? t.groups 5 = some h ∧ h.wait = .asgen 4095 62 false ∧ t.gen 4095 ≠ 0xFFFF#16 ∧ (∃ p ∈ h.pend, p.id = 62) ∧
       w.gen 4095 = 0xFFFF#16 ∧ w.flight.any (fun a => a.asid == 4095) = true) ∧
    (let h := { tG with wait := .tlbi 2 0 0x2000 false }
     let t := tE (tS h) (.tlbiComplete 5)
     t.model.ev = some (.tlbiComplete 5) ∧ FMap.get? t.groups 5 = some h ∧ h.wait = .tlbi 2 0 0x2000 false) := by
  refine ⟨⟨⟨rfl, rfl, rfl⟩, rfl, ?_⟩, ⟨rfl, rfl, rfl, by decide, ⟨_, .head _, rfl⟩, rfl, rfl⟩, rfl, rfl, rfl⟩
  decide +kernel

/-- WordsThatCannotIssue: a fetch that meets a missing page, of a group and of a handler group that has issued nothing. -/
theorem wit_WordsThatCannotIssue : (let s := tE (tS tG) (.fetchFault .page 0x1000)
    s.model.ev = some (.fetchFault .page 0x1000) ∧ Issuing s tC tG ∧ tG.lanes.length = 32 ∧ (∀ k r, tG.kind ≠ .handler k r none) ∧ real tG 31) ∧
    (let g := { tG with kind := .handler 50 0 none }
     let s := tE { tS g with traps := [(50, {})] } (.fetchFault .page 0x1000)
     s.model.ev = some (.fetchFault .page 0x1000) ∧ Issuing s tC g ∧ g.lanes.length = 32 ∧ FMap.get? s.traps 50 = some {} ∧ 50 < s.model.nextId) :=
  ⟨⟨rfl, ⟨rfl, rfl, rfl⟩, rfl, (fun _ _ h => nomatch h), by decide, rfl, rfl⟩, rfl, ⟨rfl, rfl, rfl⟩, rfl, rfl, by decide⟩

/-- A context whose group rung has a handler at 0x1000 and a valid trap area at 0x800000. -/
def tX : Ctx := { dies := [0], asctl := 1, ktab := 0x8000, nkern := 1, stopbase := 0x800001, trapvec := [0x1001, 0x1001, 0x1001] }

/-- TrapsAreDelivered: a trap that waits, with the lowest slot free and its area to be written; a slotted one whose handler's entry is a kernel that may be
fetched; a handler group one cycle past its limit. -/
theorem wit_TrapsAreDelivered :
    (let x : Trap := { core := 0 }
     let s := tE { tS tG with mem := tMem, ctxs := [(0, tX)], traps := [(50, x)] } (.trapDelivery 50)
     s.model.ev = some (.trapDelivery 50) ∧ 50 < s.model.nextId ∧ FMap.get? s.traps 50 = some x ∧ mayDeliver s x = true ∧ x.st = .waiting ∧ liveRung s 0 0 5 0 = 0 ∧
       x.slot = none ∧ (freeSlot s 0 (areaOf s 0 0 0)).1 = .ok (some 0) ∧
       (unitWrite (freeSlot s 0 (areaOf s 0 0 0)).2 0 (areaOf s 0 0 0) (slotAddr (freeSlot s 0 (areaOf s 0 0 0)).2 0 (areaOf s 0 0 0) 0) ({ x with rung := 0, area := areaOf s 0 0 0, slot := some 0, st := .slotted }.bytes 1)).1 = .ok ()) ∧
    (let x : Trap := { core := 0, slot := some 0, st := .slotted }
     let s := tE { tS tG with mem := tMem, ctxs := [(0, tX)], traps := [(50, x)] } (.trapDelivery 50)
     let entry := trapVec s 0 0 0 &&& ~~~3#64
     let r := entryKernel s 0 0 entry
     let f := translate r.2.fresh.2.fresh.2 0 0 0 (BitVec.ofNat 2 (rungRing 0)) .fetch entry
     FMap.get? s.traps 50 = some x ∧ mayDeliver s x = true ∧ (∀ e ∈ s.traps, e.1 = 50) ∧ handlersAt s 0 0 < 8 ∧ x.core ≠ 0xFFFF ∧
       handlerPlace s 0 0 (x.gslot / 16) = some (0, 0) ∧ 0 < (s.core 0 0).handlers.length ∧ r.1 = .ok (some tK) ∧ handlerKernel tK = true ∧
       f.1 = .ok ⟨0x1000, false⟩ ∧ placeErr f.2 0 0x1000 = none) ∧
    (let g := { tG with kind := .handler 50 0 (some 3) }
     let s := tE { tS g with dies := [(0, { cycle := 0x1000004 })], traps := [(50, {})] } (.handlerTimeout 5)
     FMap.get? s.groups 5 = some g ∧ g.holds.trap = none ∧ (trapTmo s 0 0 0).toNat % 2 ^ 32 ≠ 0 ∧ 3 + (trapTmo s 0 0 0).toNat % 2 ^ 32 < (s.die 0).cycle) := by
  refine ⟨?_, ?_, ?_⟩ <;> decide +kernel

/-- TrapsReturn: a handler group whose slot holds ACTION RESUME for a group that the trap holds, and one whose slot holds ESCALATE. -/
theorem wit_TrapsReturn :
    let g := { tG with kind := .handler 50 0 (some 3) }
    let h := { tG with holds := { trap := some 50 } }
    let x : Trap := { core := 0, slot := some 0, st := .running 5, party := .group 6 0xFFFFFFFF, lanes := 0xFFFFFFFF }
    let s := fun (a : Byte) => { tS g with
      mem := { bytes := if a = 0 then [] else [(0x900002, a)] }, ctxs := [(0, tX)], traps := [(50, x)], groups := [(5, g), (6, h)] }
    let ok := fun (a : Byte) =>
      let u := endIssue (producerNow (s a) 0 0 false) 5
      let r := unitRead u 0 0 (slotAddr u 0 0 0) 128
      FMap.get? u.traps 50 = some x ∧ (match r.1 with | .ok (b, _) => decide (field b 2 1 = a.toNat) | .error _ => false) = true ∧ FMap.get? r.2.groups 6 = some h ∧
        (writeSlotState r.2 x 0 3).1 = .ok ()
    (∀ a, Issuing (s a) tC g ∧ Settled (s a) tC g) ∧ Guarded tC g ∧ h.lanes.length = 32 ∧ (∀ l, l < 32 → (h.lane l).redo = []) ∧ ok 0 ∧ ok 3 := by
  refine ⟨fun a => ⟨⟨rfl, rfl, rfl⟩, rfl, rfl⟩, rfl, rfl, ?_, ?_, ?_⟩ <;> decide +kernel

/-- An issue of lane 31 alone. -/
def tL : Issue := { tC with lanes := 0x80000000 }
def tSL (g : Group) : State := { tS g with model := { cur := some tL, nextId := 100 } }

/-- GlobalLoadsAndStores: registers without tags, addresses aligned, canonical and mapped for reading and writing; a tagged register; misaligned addresses; a
deep register at the end of the declaration and past it. -/
theorem wit_GlobalLoadsAndStores :
    let g := { tG with s := [(2, ⟨0x2000, false⟩), (4, ⟨1, false⟩)], v := [(3 * 32 + 31, ⟨0, true⟩)] }
    let s := tSL g
    Issuing s tL g ∧ subOpen s tL.gid = false ∧ (∀ l, active tL g l = true → ¬ (g.sPairTN 2 = true ∨ g.vt 1 l = true)) ∧
      (∀ l, active tL g l = true → addrBad (g.sPairN 2 + (g.vv 1 l).signExtend 64) 16 = false ∧ laneDet s g l = none) ∧
      (∃ u, Translates s.fresh.2 g [.read] (fun _ => True) ((activeLanes tL g).map (fun l => (laneBy s tL g l, g.sPairN 2 + (g.vv 1 l).signExtend 64, 0x2000))) u) ∧
      (∃ u, Translates s.fresh.2 g [.write] (fun _ => True) ((activeReal tL g).map (fun l => (laneBy s tL g l, g.sPairN 2 + (g.vv 1 l).signExtend 64, 0x2000))) u) ∧
      (active tL g 31 = true ∧ (g.lane 31).helper = false ∧ g.vt 3 31 = true ∧ addrBad (g.sPairN 4 + (g.vv 1 31).signExtend 64) 2 = true) ∧
      (15#7).toNat < g.ndeep ∧ g.ndeep ≤ (16#7).toNat ∧ g.pend = [] ∧ (g.readDeep 15 31).tag = false :=
  ⟨⟨rfl, rfl, rfl⟩, rfl, all_active (by decide +kernel), all_active (by decide +kernel), ⟨_, ⟨⟨_, _, rfl, rfl, rfl⟩, by simp⟩⟩, ⟨_, ⟨⟨_, _, rfl, rfl, rfl⟩, by simp⟩⟩,
    ⟨rfl, rfl, rfl, by decide +kernel⟩, by decide, by decide, rfl, rfl⟩

/-- A block with 4096 bytes of scratchpad, two tiles, and a line absent; the group's lanes address it through s1. -/
def tSp (g : Group) : State :=
  { tSL g with blocks := [(7, { groups := [5], kernel := { spad := 4096 }, tiles := [0, 1], absent := [63] })] }

/-- ScratchpadLoadsAndStores, ScratchpadAtomics: the last place before the absent line; the absent line; past the grant, which R152 refuses. -/
theorem wit_Scratchpad :
    let g := { tG with s := [(2, ⟨4032 - 16, false⟩), (4, ⟨4096 - 16, false⟩), (6, ⟨4096, false⟩)], v := [(1 * 32 + 31, ⟨4032 - 16, false⟩), (4 * 32 + 31, ⟨4032 - 16, false⟩)] }
    let s := tSp g
    Issuing s tL g ∧ ((g.readS 2).tag = false ∧ ∀ l, active tL g l = true → g.vt 0 l = false ∧ ∀ j, j < 4 → (g.readV (0 + j) l).tag = false) ∧
      (∀ l, active tL g l = true → ∃ b o, spadRef s g ((g.readS 2).val + g.vv 0 l) 16 = some (b, o) ∧ spadAbsent s b o 16 = false) ∧
      (active tL g 31 = true ∧ (g.lane 31).helper = false ∧ spadRef s g ((g.readS 6).val + g.vv 0 31) 16 = none) ∧
      (spadRef s g ((g.readS 4).val + g.vv 0 31) 16 = some (7, 4080) ∧ spadAbsent s 7 4080 16 = true) ∧
      (inFlight s tL.gid = false ∧ (0#2).toNat ≤ 1 ∧ (1#2).toNat ≤ 1 ∧ (∀ l, active tL g l = true → g.vPairT 4 l = false) ∧
        ∀ l, active tL g l = true → hiHalf (g.vPair 4 l) = 0 ∧ ownCore s g (g.vv 4 l) = true ∧
          ∃ b o, spadRef s g (g.vv 4 l) 8 = some (b, o) ∧ spadAbsent s b o 8 = false) := by
  have one : ∀ l, active tL tG l = true → l = 31 := by
    intro l h
    have : l < 32 := by simp only [active, Bool.and_eq_true, decide_eq_true_eq] at h; exact h.1.1
    revert h; revert this; revert l; decide +kernel
  refine ⟨⟨rfl, rfl, rfl⟩, ⟨rfl, fun l h => ?_⟩, fun l h => ?_, ⟨rfl, rfl, by decide +kernel⟩, by decide +kernel, rfl, by decide, by decide, fun l h => ?_, fun l h => ?_⟩ <;>
    obtain rfl := one l h
  · decide +kernel
  · exact ⟨7, 4016, by decide +kernel, by decide +kernel⟩
  · decide +kernel
  · exact ⟨by decide +kernel, by decide +kernel, 7, 4016, by decide +kernel, by decide +kernel⟩

/-- HomeReads, GlobalAtomics, UniformAccesses: addresses of every form that may be used and translate, with nothing in flight. -/
theorem wit_HomeReads :
    let g := { tG with s := [(2, ⟨0x2000, false⟩), (4, ⟨1, false⟩), (8, ⟨0, true⟩)], v := [(2 * 32 + 31, ⟨0x2000, false⟩)] }
    let s := tSL g
    (Issuing s tL g ∧ Guarded tL g ∧ inFlight s tL.gid = false ∧ g.sPairTN 2 = false ∧ ∀ l, active tL g l = true → g.vt 0 l = false) ∧
      (addrBad (g.sPairN 2 + (g.vv 0 31).signExtend 64) 4 = false ∧ addrBad (g.sPairN 2 + BitVec.ofNat 64 (16 * ((g.vv 0 31).toNat / 256 / 64))) 16 = false) ∧
      (∀ k, k = 4 ∨ k = 16 → ∃ u, Translates s g [.read] (fun _ => True) ((activeLanes tL g).map (fun l =>
        (laneBy s tL g l, if k = 4 then g.sPairN 2 + (g.vv 0 l).signExtend 64 else g.sPairN 2 + BitVec.ofNat 64 (16 * ((g.vv 0 l).toNat / 256 / 64)), 0x2000))) u ∧
        AtRest u ∧ inPackage u 0x2000 = true ∧ poisonedLine u g.die 0x2000 = false) ∧
      (∀ l, active tL g l = true → (g.vv 0 l).toNat % 256 < 32 ∧ (g.lane l).helper = false) ∧
      (2 ≤ (2#2).toNat ∧ (∀ l, active tL g l = true → g.vPairT 2 l = false) ∧ (9#4).toNat ≤ 9 ∧ (∀ l ∈ activeReal tL g, addrBad (g.vPair 2 l) 8 = false ∧ laneDet s g l = none) ∧
        ∃ u, Translates s.fresh.2 g [.read, .write] (fun pa => mpCheck s g.die pa false = none) ((activeReal tL g).map (fun l => (laneBy s tL g l, g.vPair 2 l, 0x2000))) u) ∧
      (holdOf s g tL.lanes = none ∧ holdsOf s g tL.lanes = [none] ∧ subOpen s tL.gid = false ∧ addrBad (g.sPair 2) 8 = false ∧ addrBad (g.sPair 4) 4 = true ∧ g.st 8 = true ∧
        (∃ u, Translates s.fresh.2 g [.read] (fun _ => True) [({ gid := some tL.gid, child := holdOf s g tL.lanes }, g.sPair 2 + BitVec.ofNat 64 (63 * 4), 0x20FC)] u) ∧
        ∃ u, Translates s.fresh.2 g [.write] (fun _ => True) [({ gid := some tL.gid }, g.sPair 2, 0x2000)] u) := by
  refine ⟨⟨⟨rfl, rfl, rfl⟩, rfl, rfl, rfl, all_active (by decide +kernel)⟩, by decide +kernel, fun k h => ?_, all_active (by decide +kernel),
    ⟨by decide, all_active (by decide +kernel), by decide, by decide +kernel, ⟨_, ⟨_, _, rfl, rfl, rfl⟩, by decide +kernel⟩⟩, rfl, by decide +kernel, rfl, by decide +kernel,
    by decide +kernel, rfl, ⟨_, ⟨⟨_, _, rfl, rfl, rfl⟩, by simp⟩⟩, ⟨_, ⟨⟨_, _, rfl, rfl, rfl⟩, by simp⟩⟩⟩
  obtain rfl | rfl := h <;> exact ⟨_, ⟨⟨_, _, rfl, rfl, rfl⟩, by simp⟩, at_rest rfl rfl rfl (by decide +kernel), by decide +kernel, by decide +kernel⟩

/-- HomeReads: a map entry of a raw block, with a word of its vectors and one past them; an ill-formed entry; a poisoned one; and a poisoned block. -/
theorem wit_HomeReads_entry :
    let s := { tSL tG with mem := { bytes := [(0x2002, 1), (0x2009, 1), (0x200A, 1), (0x200D, 1)], poison := [0x3000 / 128] } }
    let e := homeBytes s 0 0x2000 16
    let p := { s with mem := { s.mem with poison := [0x10000 / 128] } }
    kvSeen s 0 e = 0 ∧ kvDim e * kvEs (kvEfmt e) / 2 = 32 ∧ kvPoisoned s 0 none e = false ∧ kvRaw e = true ∧ poisonedLine s 0 0x2000 = false ∧
      kvSeen s 0 (homeBytes s 0 0x2800 16) = 4 ∧ poisonedLine s 0 0x3000 = true ∧ kvPoisoned p 0 none e = true ∧
      (0x20#32).toNat % 256 ≥ 32 ∧ (31#32).toNat % 256 < 32 ∧ inFlight { s with flight := [tA (.load 4 .words)] } tL.gid = true := by decide +kernel

/-- AccumulatorAccess, UniformAccesses in the scratchpad: the block's last tile, idle and busy, and the first it has not; a place of the scratchpad. -/
theorem wit_AccumulatorAccess :
    let s := tSp tG
    Issuing s tL tG ∧ active tL tG 31 = true ∧ tileOf s tG (1#2).toNat = some 1 ∧ tileOf s tG (2#2).toNat = none ∧
      (∀ l, active tL tG l = true → tG.vt 0 l = false ∧ tG.vt 1 l = false) ∧ ((s.core 0 0).tiles.getD 1 {}).busy = 0 ∧
      ((({ s with cores := [(0, { tiles := [{}, { busy := 1 }, {}, {}] })] } : State).core 0 0).tiles.getD 1 {}).busy ≠ 0 ∧
      spadRef s tG (tG.sv 0 + loHalf (BitVec.ofNat 64 (63 * 8))) 8 = some (7, 504) ∧ spadAbsent s 7 504 8 = false ∧ ownCore s tG (tG.sv 0) = true :=
  ⟨⟨rfl, rfl, rfl⟩, rfl, rfl, rfl, all_active (by decide +kernel), rfl, by decide, by decide +kernel, by decide +kernel, by decide +kernel⟩

/-- Memory with one command block of each kind from 0x2000 on, the lists that they name from 0x3000 on, and a poisoned line at 0x4000. -/
def tBlocks : MemSys :=
  { bytes := [(0x2000, 1), (0x2020, 1),
              (0x2080, 5), (0x2082, 0x40), (0x20A0, 1), (0x20A4, 1), (0x20E1, 0x30),
              (0x2100, 1), (0x2101, 1), (0x2104, 128), (0x2106, 128), (0x2108, 1),
              (0x2180, 0x40), (0x219D, 1), (0x21A0, 64), (0x21A2, 32), (0x21A4, 64),
              (0x2200, 64), (0x2220, 1), (0x222C, 1), (0x2231, 0x30),
              (0x2280, 4), (0x2281, 5), (0x2289, 0x31),
              (0x2300, 1), (0x2308, 1), (0x230C, 1), (0x230E, 1), (0x2310, 8),
              (0x2380, 1), (0x2384, 1), (0x2387, 1),
              (0x2440, 4), (0x2441, 5), (0x2449, 0x33),
              (0x3010, 1), (0x3100, 1), (0x3300, 2), (0x3344, 1)], poison := [128] }

/-- What a read at an issue gives: bytes of which a test holds, without poison. -/
def tReads (s : State) (g : Group) (p : DWord) (n : Nat) (f : List Byte → State → Bool) (bad : Bool := false) : Bool :=
  match vRead s g.die g.core g.ctx g.ring (holdOf s g tC.lanes) p n with
  | (.ok (b, d), u) => d == bad && f b u
  | _ => false

/-- EngineCommandsTaken, what comes before the block: a queue with room and a full one, a tagged pair, a misaligned address, a poisoned block. -/
theorem wit_EngineCommandsTaken :
    let g := { tG with s := [(2, ⟨0x2000, false⟩), (4, ⟨0, true⟩), (6, ⟨0x2001, false⟩), (8, ⟨0x4000, false⟩)] }
    let s := { tS g with mem := tBlocks }
    let full := { s with cores := [(0, { mq := List.replicate 4 9, chan1 := { chains := List.replicate 8 9 } })],
                         dies := [(0, { umx := List.replicate 8 9, coll := List.replicate 16 9, helm := List.replicate 16 9, lunit := List.replicate 16 9 })] }
    let fullMau := { s with dies := [(0, { mau0 := List.replicate 64 9 })] }
    (Issuing s tC g ∧ Guarded tC g ∧ g.sPairT 4 = true ∧ g.sPairT 2 = false ∧ inFlight s tC.gid = false ∧ addrBad (g.sPair 2) 128 = false ∧
      addrBad (g.sPair 6) 64 = true ∧ ((s.core 0 0).chan 1).chains.length < 8 ∧ (s.core 0 0).mq.length < 4 ∧ mauFull s tC g (g.sPair 2) = false ∧
      mauFull fullMau tC g (g.sPair 2) = true ∧ 4 ≤ (full.core 0 0).mq.length ∧ 8 ≤ ((full.core 0 0).chan 1).chains.length ∧ 8 ≤ (full.die 0).umx.length) ∧
    tReads s g (g.sPair 8) 128 (fun _ _ => true) true = true := by
  refine ⟨⟨⟨rfl, rfl, rfl⟩, rfl, ?_⟩, ?_⟩ <;> decide +kernel

/-- EngineCommandsTaken: a record that is owned, one that is not, one whose list is read early; a matrix command and one that is malformed. -/
theorem wit_EngineCommandsTaken_core :
    let s := { tS tG with mem := tBlocks, blocks := [(7, { groups := [5], tiles := [3] })] }
    tReads s tG 0x2000 128 (fun b _ => rOwn b && !rEarly b && !recFieldsBad b) = true ∧ tReads s tG 0x2100 128 (fun b _ => rOwn b) = true ∧
    tReads s tG 0x2480 128 (fun b _ => !rOwn b) = true ∧
    tReads s tG 0x2080 128 (fun b u => rOwn b && rEarly b && !recFieldsBad b && listOk b && rExt b 1 == 1 &&
      tReads u tG (BitVec.ofNat 64 (rAux b)) (4 * rExt b 1) (fun _ _ => true)) = true ∧
    tReads s tG 0x2100 64 (fun b u => !mcmdBad b 32 1 && !csysRefused u tG (bit (mFlags b) 2) (field b 32 8) && !(dbgWin u 0 0).prc &&
      (scaleTag tG b).isNone) = true ∧ tReads s tG 0x2480 64 (fun b _ => mcmdBad b 32 1) = true := by decide +kernel

/-- EngineCommandsTaken: blocks of ATTN and UNMASK that are taken and that are malformed, with a layer group and with none. -/
theorem wit_EngineCommandsTaken_die :
    let s := { tS tG with mem := tBlocks }
    tReads s tG 0x2180 128 (fun b u => !attnBad u 0 b && !csysRefused u tG (bit (aFlags b) 1) (field b 72 8) && aDie b == 0) = true ∧
    tReads s tG 0x2480 128 (fun b u => attnBad u 0 b && unmaskBad b && uNlg b == 0) = true ∧
    tReads s tG 0x2200 128 (fun b u => !unmaskBad b && uNlg b == 1 && tReads u tG (BitVec.ofNat 64 (field b 48 8)) 32 (fun l v =>
      !(layersOf l).any layerBad && !csysRefused v tG (bit (uFlags b) 1) (field b 64 8))) = true := by decide +kernel

/-- EngineCommandsTaken: blocks of COLL with a team on one die and with a team on two packages, a manifest, a graph, each taken and malformed, with MPOLICY
allowing them and not. -/
theorem wit_EngineCommandsTaken_package :
    let s := fun p => { tS tG with mem := tBlocks, dies := [(0, { mpolicy := p })] }
    tReads (s 0) tG 0x2280 64 (fun b u => !collBad b && tReads u tG (BitVec.ofNat 64 (field b 8 8)) 64 (fun h v => tNm h == 1 &&
      tReads v tG (BitVec.ofNat 64 (field b 8 8)) 68 (fun m w => !teamBad m 0 && (tRemote m).isEmpty && !csysRefused w tG (bit (cFlags b) 0) (field b 32 8)))) = true ∧
    (∀ p, p = 0 ∨ p = 4 → tReads (s p) tG 0x2440 64 (fun b u => !collBad b && tReads u tG (BitVec.ofNat 64 (field b 8 8)) 64 (fun h v => tNm h == 2 &&
      tReads v tG (BitVec.ofNat 64 (field b 8 8)) 72 (fun m w => !teamBad m 0 && !(tRemote m).isEmpty && (w.die 0).mpolicy.getLsbD 2 == (p == 4)))) = true) ∧
    tReads { s 4 with fit := .m } tG 0x2440 64 (fun b u => !collBad b && tReads u tG (BitVec.ofNat 64 (field b 8 8)) 72 (fun m _ => !(tRemote m).isEmpty)) = true ∧
    tReads (s 8) tG 0x2340 128 (fun _ _ => true) = true ∧
    (∀ p, p = 0 ∨ p = 8 → tReads (s p) tG 0x2300 128 (fun b u => !manifestBad b && (u.die 0).mpolicy.getLsbD 3 == (p == 8)) = true) ∧
    tReads (s 0) tG 0x2380 64 (fun b u => !graphBad b && tReads u tG 0x23C0 128 (fun l v => !nodesBad b l && gPatchlen b == 1 &&
      tReads v tG 0x3000 1 (fun _ _ => true))) = true ∧
    tReads (s 0) tG 0x2480 128 (fun b _ => manifestBad b && graphBad b && collBad (b.drop 64 ++ [7])) = true := by
  refine ⟨?_, fun p h => ?_, ?_, ?_, fun p h => ?_, ?_, ?_⟩
  · decide +kernel
  · obtain rfl | rfl := h <;> decide +kernel
  · decide +kernel
  · decide +kernel
  · obtain rfl | rfl := h <;> decide +kernel
  · decide +kernel
  · decide +kernel

/-- A driver group that names context 1, whose switch stands as given; a header of its image at 0x10000. -/
def tW : Group := { tG with ring := 1, s := [(2, ⟨0x10000, false⟩), (4, ⟨1, false⟩), (6, ⟨0, true⟩), (8, ⟨0x800, false⟩)] }
def tSW (sw : SwSt) (w : Option Switch) : State :=
  { tS tW with mem := { bytes := [(0x10000, 1), (0x10001, 1), (0x10002, 1), (0x10007, 1)] }, ctxs := [(0, { dies := [0], asctl := 1 }), (1, { dies := [0], sw := sw, switch := w })] }
def tRec : Switch := { owner := some 5, headerOwed := false, image := 0x10000, recs := [{ core := 3 }] }
def allParts : List (Nat × Nat) := [(0, 0), (0, 1), (0, 2), (0, 3), (0, 4), (0, 5)]

/-- SwitchForms: operands that are legal, tagged, not legal; contexts that a form may name and may not. -/
theorem wit_SwitchForms :
    (Issuing (tSW .run none) tC tW ∧ Guarded tC tW ∧ tG.ring = 0 ∧ tW.ring ≠ 0 ∧ tW.st 6 = true ∧ tW.st 4 = false ∧ tW.sPairT 2 = false ∧ tW.sPairT 8 = false ∧
      inFlight (tSW .run none) tC.gid = false ∧ baseBad (tW.sPair 2).toNat 4096 = false ∧ baseBad (tW.sPair 8).toNat 4096 = true) ∧
    (∀ sw w, formCtx (tSW sw w) tW (tW.sv 4) = some (1, { dies := [0], sw := sw, switch := w }) ∧ formCtx (tSW sw w) tW 0 = none ∧ formCtx (tSW sw w) tW 64 = none) := by
  refine ⟨⟨⟨rfl, rfl, rfl⟩, rfl, ?_⟩, fun sw w => ?_⟩
  · decide +kernel
  · cases sw <;> exact ⟨rfl, rfl, rfl⟩

/-- A read or a write of an image that succeeds, of which a test holds. -/
def tGot (r : Except (AErr × DWord) (List (Nat × List Byte) × Bool) × State) (f : List (Nat × List Byte) → State → Bool) : Bool :=
  match r with
  | (.ok (ps, false), u) => f ps u
  | _ => false

/-- SwitchForms: a saved and owned context whose header is read, and the record of its operation, which is of its kind or is not, cores being found for it, or
none. -/
theorem wit_SwitchForms_place : ∀ full ok : Bool,
    let w : Switch := { tRec with engs := [90] }
    let s := { tSW .saved (some w) with
      mem := { bytes := [(0x10000, 1), (0x10001, 1), (0x10002, 1), (0x10007, 1), (0x11000, if ok then 2 else 1)] }, cores := (List.range 192).map (fun k =>
      (k, { tlb := [⟨0, 0, 30, 0, 0x0F, 0⟩], reserved := if full then some 2 else none })) }
    tGot (getPieces (groupRd s tC tW) s 0x10000 [(0, 4096)] [] false) (fun ps u =>
      headerOk 0 1 (pick ps 0 4096) && !headerOk 0 2 (pick ps 0 4096) &&
        tGot (getPieces (groupRd u tC tW) u 0x10000 [(4096, 256 * w.engs.length)] [] false) (fun es v =>
          engsOk v w.engs (pick es 4096 256) == ok && (findCores v 0 [3]).isNone == full)) = true := by
  intro full ok; cases full <;> cases ok <;> decide +kernel

/-- Whether an owned context whose units are at rest spills its frames and writes its header at 0x1000000000. -/
def tHeader (w : Switch) (s : State) : Bool :=
  match spillAll s 0 1 (s.frames.map (·.1)) with
  | (true, u) =>
    (match putPieces (groupWr u tC tW) u 0x1000000000 (({ w.filled u 0 1 with image := 0x1000000000 } : Switch).front u 0 1) with | (.ok _, _) => true | _ => false)
  | _ => false

/-- SwitchForms: such a context, its image behind a port that is lost, whose writes have no effect (R365). -/
theorem wit_SwitchForms_header : tHeader { owner := some 5, image := 0x1000000000 }
    { tSW .stopped (some { owner := some 5, image := 0x1000000000 }) with
      dies := [(0, { mg := { world := 1, fwin := [(0, { lo := 0x5E00000000000000#64, hi := 0, lost := true })] } })],
      cores := [(0, { tlb := [⟨0, 0x1000000000 / 2 ^ 30, 30, 2 ^ 51, 0x0F, 0⟩] })] } = true := by decide +kernel

/-- SwitchForms: no switch owned, and one owned whose only record is saved or loaded part by part, the last part and one before it; every part done. -/
theorem wit_SwitchForms_parts :
    ownedCtx (tSW .run none) tC tW = none ∧
    (∀ sw ps, (sw = .stopped ∨ sw = .placed) → ownedCtx (tSW sw (some { tRec with parts := ps })) tC tW =
      some (1, { dies := [0], sw := sw, switch := some { tRec with parts := ps } }, { tRec with parts := ps })) ∧
    (tW.sv 10).toNat < tRec.recs.length ∧ tRec.recs.length ≤ (tW.sv 4).toNat ∧ ({ tRec with parts := allParts } : Switch).complete = true ∧ tRec.complete = false ∧
    (let s := tSW .stopped (some { tRec with parts := allParts.take 5 })
     (match putPieces (groupWr s tC tW) s (tRec.recAt s 0) (CoreRec.part { core := 3 } s 0) with
      | (.ok _, u) => (match putPieces (groupWr u tC tW) u (tRec.image + 1) [(0, [1])] with | (.ok _, _) => true | _ => false)
      | _ => false) = true) ∧
    (let s := tSW .placed (some tRec)
     5 ∉ ({ core := 3 } : CoreRec).groups ∧ CoreRec.Sound { core := 3 } s 0 ∧
     (match getPieces (groupRd s tC tW) s (tRec.recAt s 0) (CoreRec.spans { core := 3 } s 0) [] false with
      | (.ok (ps, false), u) => (loadPart u 0 { core := 3 } 0 ps).isSome
      | _ => false) = true) := by
  refine ⟨by decide +kernel, fun sw ps h => ?_, by decide, by decide, by decide, by decide, ?_, ?_⟩
  · obtain rfl | rfl := h <;> rfl
  · decide +kernel
  · unfold CoreRec.Sound; decide +kernel

/-- The group that awaits the access's result, and a state with that access in flight. -/
def tP (st : PendSt) (ds : List (Option Dst)) : Group := { tG with pend := [⟨61, some 31, ds, st, true, none, 0x80000000, false⟩] }
def tFl (k : AccKind) : State := { tS (tP .waiting [some (.v 3 31)]) with flight := [tA k] }

/-- AccessesPerformed: an access of any kind whose turn has come, with nothing in its way; a result that has come back, also of an access executed again,
one that is a fault, a store that was refused. -/
theorem wit_AccessesPerformed :
    (∀ k, AtItsHome (tFl k) 0 (tA k) (tP .waiting [some (.v 3 31)]) ∧ NoFailures (tFl k) ∧ poisonedLine (tFl k) 0 0x2000 = false ∧
      batchOf (tFl k) (tA k) = [tA k] ∧ (tE (tFl k) (.homeSliceAtomic 0)).model.ev = some (.homeSliceAtomic 0)) ∧
    (∀ st ds, FMap.get? (tE (tS (tP st ds)) (.varResultWriteback 5 0)).groups 5 = some (tP st ds) ∧ (tP st ds).pend[0]?.map (·.st) = some st ∧
      (tP st ds).wait ≠ .smark ∧ (tP st ds).wait ≠ .awaitPlace ∧ (tP st ds).pend[0]?.map (·.wake) = some false) ∧
    (let p : Pend := ⟨61, some 31, [], .ready [], true, none, 0, true⟩
     let g := { tG with pend := [p], lanes := List.replicate 32 { st := .parked, pc := 0x1000 } }
     p.parks.getLsbD 31 = true ∧ 31 < g.lanes.length ∧ (g.lane 31).st = .parked ∧ (g.lane 31).redo = [] ∧ (tS g).traps = []) ∧
    (let g := { tG with rejects := [(({} : FaultRec), 0x80000000)] }
     FMap.get? (tS g).groups 5 = some g ∧ g.rejects[0]? = some (({} : FaultRec), 0x80000000) ∧ (0x80000000#32).getLsbD 31 = true ∧ (g.lane 31).live = true) := by
  refine ⟨fun k => ⟨⟨rfl, rfl, ?_, rfl, rfl, (by decide : 0 < 128), rfl, ?_, ?_, rfl, rfl, nofun⟩, ⟨rfl, rfl, rfl⟩, rfl, ?_, rfl⟩, fun st ds => ⟨rfl, rfl, nofun, nofun, rfl⟩,
    ⟨rfl, by decide, rfl, rfl, rfl⟩, rfl, rfl, rfl, rfl⟩
  · have h : regionOf Fitting.c 0x2000 = .package 0 0 0x2000 := by decide +kernel
    simp only [isLocal, show regionOf (tFl k).fit (tA k).pa = .package 0 0 0x2000 from h]; rfl
  · intro d x h
    rcases d with _ | d <;> cases h
  · show (0 : Nat) < 16; decide
  · cases k <;> simp [batchOf, tA, tFl]

/-- OwnershipAndLinks: a notice of another owner's object, and a claim by a die that is not its owner. -/
theorem wit_OwnershipAndLinks :
    let e : ObjEnt := ⟨0, 64, 127, 0, some 1, false⟩
    let s := { tS tG with pkg := { notices := [⟨0, 3, 2, 0⟩] }, dies := [(0, { dm := { objs := [(objKey 0 3, e)] } })] }
    s.pkg.notices[0]? = some ⟨0, 3, 2, 0⟩ ∧ FMap.get? (s.die 0).dm.objs (objKey 0 3) = some e ∧ e.owner ≠ some 2 ∧ (∃ o, e.owner = some o ∧ o ≠ 0) :=
  ⟨rfl, rfl, by decide, 1, rfl, by decide⟩

/-- OwnershipAndLinks: what the owner of an object holds dirty of it, alone. -/
theorem wit_OwnershipAndLinks_dirty :
    let e : ObjEnt := ⟨1 * 64, 64, 127, 0, some 1, false⟩
    let x : L2Line := { line := 0x41, users := [{ asid := 0, ctx := 0, vline := 0x41 }], bytes := [(3, 7)], dirty := [3] }
    let s := { tS tG with
      dies := [(0, { mg := { world := 1 }, dm := { objs := [(objKey 64 3, e)] } }), (1, { mg := { world := 1 }, dm := { objs := [(objKey 64 3, e)], l2 := [x] } })],
      ctxs := [(64, { dies := [1] })] }
    noticeWaits { s with pkg := { notices := [⟨64, 3, 2, 0⟩] } } 0 ⟨64, 3, 2, 0⟩ = false ∧ objHolds s 1 e x = true ∧ LoneDirty s 1 x ∧ CopiesLocal s := by
  have key : ∀ {s : State} {x : L2Line}, s.dies.all (fun d => d.2.dm.l2.all (fun y => decide (d.1 = 1 ∧ y = x))) = true →
      ∀ k, ∀ y ∈ (s.die k).dm.l2, k = 1 ∧ y = x := by
    intro s x h k
    have : ∀ m : FMap Die, m.all (fun d => d.2.dm.l2.all (fun y => decide (d.1 = 1 ∧ y = x))) = true → ∀ y ∈ (FMap.getD m k {}).dm.l2, k = 1 ∧ y = x := by
      intro m
      induction m with
      | nil => intro _ y hy; cases hy
      | cons d m ih =>
        intro hm y hy
        simp only [List.all_cons, Bool.and_eq_true] at hm
        unfold FMap.getD FMap.get? at hy
        split at hy
        · next hk => subst hk; simpa using List.all_eq_true.mp hm.1 y hy
        · exact ih hm.2 y hy
    exact this _ h
  intro e x s
  refine ⟨by decide +kernel, by decide +kernel, ⟨.head _, rfl, by decide +kernel, by decide +kernel, fun k y hy _ _ _ => key (by decide +kernel) k y hy⟩, rfl,
    fun k y hy _ _ => ?_⟩
  rw [(key (s := s) (x := x) (by decide +kernel) k y hy).2]
  decide +kernel

/-- OwnershipAndLinks: lines of package memory, fresh and not, a line and a page that are bad, absent from the slice and the bridge; a dirty line of the
home slice, with a link that fails for it and without; the errors of the link that came before. -/
theorem wit_OwnershipAndLinks_bridge :
    let x : L2Line := { line := 1, bytes := [(0, 7)], dirty := [0], own := true }
    let s := { tS tG with mem := { pages := [(0, { fresh := 1 })], damaged := [1], badPages := [0] } }
    let w := fun fails => { tS tG with dies := [(0, { mg := { linkErrs := [1, 0] }, dm := { l2 := [x] } })], mem := { linkFails := fails } }
    regionOf s.fit 0x80 = .package 0 0 0x80 ∧ 0x80 < 2 ^ 52 ∧ freshLine s 0x80 = false ∧ freshLine s 0x7F = true ∧ HasWay s 0 0x80 ∧ s.mem.linkFails = [] ∧
      ownFind (s.die 0) (lineOf 0x80) = none ∧ (s.br 0).mscSectors 0 (lineOf 0x80) = 0 ∧ lineOf 0x80 ∈ s.mem.damaged ∧ 0x80 / 4096 ∈ s.mem.badPages ∧
      (s.br 0).hasCounters 0 0 = false ∧ NoFailures (tS tG) ∧
      (∀ fails, ownFind ((w fails).die 0) (lineOf 0x80) = some x) ∧ x.dirty ≠ [] ∧ (lineOf 0x80, true) ∉ (w []).mem.linkFails ∧
      (lineOf 0x80, true) ∈ (w [(1, true)]).mem.linkFails ∧ 1 ≤ ((w []).die 0).mg.linkErrs.getD 0 0 := by
  refine ⟨by decide +kernel, by decide, by decide +kernel, by decide +kernel, ?_, rfl, by decide +kernel, by decide +kernel, by decide +kernel, by decide +kernel,
    by decide +kernel, ⟨rfl, rfl, rfl⟩, fun _ => rfl, nofun, by decide +kernel, by decide +kernel, by decide +kernel⟩
  show (0 : Nat) < 16; decide

/-- OwnershipAndLinks: a load whose line is absent and whose link fails. -/
theorem wit_OwnershipAndLinks_link :
    let s := { tFl (.load 4 .words) with mem := { linkFails := [(lineOf 0x2000, false)] } }
    AtItsHome s 0 (tA (.load 4 .words)) (tP .waiting [some (.v 3 31)]) ∧ s.mem.damaged = [] ∧ s.mem.badPages = [] ∧ (lineOf 0x2000, false) ∈ s.mem.linkFails ∧
      ownFind (s.die 0) (lineOf 0x2000) = none ∧ 0 < (tA (.load 4 .words)).span.2 := by
  refine ⟨⟨rfl, rfl, by decide +kernel, rfl, rfl, by decide, rfl, ?_, ?_, rfl, rfl, nofun⟩, rfl, rfl, by decide, rfl, by decide⟩
  · intro d x h
    rcases d with _ | d <;> cases h
  · show (0 : Nat) < 16; decide

/-- OwnershipAndLinks: a load of a berth that is ACTIVE, and of one that is not, with no copy of the line. -/
theorem wit_OwnershipAndLinks_berth : ∀ b : Bool,
    let a := { tA (.load 4 .words) with pa := 0x1000000000000, cbit := true }
    let g := tP .waiting [some (.v 3 31)]
    let s := { tS g with flight := [a], dies := [(0, { mg := { moor := if b then [(0, { lo := 0x4000000000000000 })] else [] } })] }
    s.flight[0]? = some a ∧ firstOfGroup s 0 a = true ∧ regionOf s.fit a.pa = .berth 0 0 ∧ a.pend = some 61 ∧ FMap.get? s.groups a.gid = some g ∧
      g.wait ≠ .awaitPlace ∧ s.gen a.asid = a.gen ∧ a.child = [] ∧ copyFind s a.die (lineOf a.pa) = none ∧ berthState s a.die 0 = (if b then 1 else 0) ∧
      a.byHelper g = false ∧ objOf s a.die a.ctx (a.va.toNat / 128) = none ∧ NoDirtyCopy s a.pa ∧ a.span.1 < 128 ∧ NoFailures s ∧
      (placeErr s a.die a.pa = none ↔ b = true) ∧ metaBad s a.die 0 a.pa = false := by
  intro b
  refine ⟨rfl, rfl, (by decide +kernel : regionOf Fitting.c 0x1000000000000 = .berth 0 0), rfl, rfl, nofun, rfl, rfl, rfl, ?_, rfl, rfl, ?_,
    (by decide : 0 < 128), ⟨rfl, rfl, rfl⟩, ?_, ?_⟩
  · cases b <;> decide +kernel
  · intro d x h
    rcases d with _ | d <;> cases h
  · cases b <;> decide +kernel
  · cases b <;> decide +kernel

/-- GroupsComeForward: an exchange that is due, a back-off that is over, a window that has passed; children of each kind that may be placed, the strands in
one quad. -/
theorem wit_GroupsComeForward :
    (let g := { tG with active := false }
     let s := { tS g with dies := [(0, { cycle := 1024 })], groups := [(5, g), (6, tG)] }
     g.couldIssue = true ∧ ((quarterGroups s 0 0 0).filter (fun e => e.2.active)).find? (fun e =>
       ((quarterGroups s 0 0 0).filter (fun e => e.2.active)).all (fun f => decide (e.2.entered ≤ f.2.entered))) = some (6, tG) ∧
       g.readySince + 1024 ≤ (s.die 0).cycle ∧ (s.core 0 0).swap.getD 0 0 + 64 ≤ (s.die 0).cycle ∧ 0 < s.fit.dies ∧
       (s.core 0 191).window + 1024 ≤ (s.die 0).cycle) ∧
    (∀ sm, let g := { tG with wait := .ldy 7 sm, pend := [⟨9, none, [], .waiting, false, none, 0, false⟩] }
     let s := { tS g with dies := [(0, { cycle := 7 })] }
     g.wait = .ldy 7 sm ∧ 7 ≤ (s.die g.die).cycle ∧ settled g = false) ∧
    (let c : Child := { kernel := tK, entry := 0x1000 }
     let s := { tS tG with children := [(40, { c with kind := .group }), (41, c), (42, { c with index := 1 }), (43, { c with record := 0x4080 }),
       (44, { c with kind := .block, launch := 30 })], launches := [(30, { dies := [0] })] }
     let cs := [41, 42].filterMap (fun i => (FMap.get? s.children i).map (fun y => (i, y)))
     mayPlace s 0 0 = true ∧ (∀ i ∈ [41, 42], (FMap.get? s.children i).map (·.st) = some .held) ∧ groupRoom s 0 1 0 0 tK = true ∧ (strandQuads cs).length ≤ 8 ∧
       namesWhere s.children (fun _ y => y.kind == .strand && y.st == .held && y.launch == 0 && y.record == 0) = [41, 42] ∧
       (headLaunch s 0).map (·.1) = some 30 ∧ (({ dies := [0] } : Launch).owes 0) = false ∧ restoreFirst s 0 0 = false ∧ (heldBlocks s 0 30).head? = some 44 ∧
       coreRoom s 0 1 0 tK = true) := by
  refine ⟨?_, fun sm => ⟨rfl, Nat.le_refl 7, rfl⟩, ?_⟩ <;> decide +kernel

/-- GroupsComeForward: a group whose merge is refused, its frame's child having written under an old generation where no page is mapped any more. -/
theorem wit_GroupsComeForward_refused :
    let g := { tF with wait := .awaitPlace }
    let s := { tSF 0 1 [] g with children := [(40, { frame := 20, det := true, st := .ended, held := [⟨2 ^ 33, 0x2000, 9, .store [1] none, false⟩] })] }
    FMap.get? s.groups 5 = some g ∧ (FMap.getD s.frames 20 {}).count = 0 ∧ mayPlace s 0 0 = true ∧
      (match closeFrame s 5 g 20 with | .refused cause va u => cause == 0x03 && va == 2 ^ 40 && (FMap.get? u.groups 5).isSome | _ => false) = true := by
  refine ⟨rfl, rfl, ?_⟩
  decide +kernel

/-- GroupsComeForward: a group whose frame's last child has ended, at its AWAIT, resident and in a continuation slot. -/
theorem wit_GroupsComeForward_cont :
    (∀ sv : Bool, let g := { tF with wait := .await, loc := if sv then .cont 0x10000 else .resident }
     let s := tSF 0 1 [] g
     FMap.get? s.groups 5 = some g ∧ g.frames = [20] ∧ (FMap.getD s.frames 20 {}).count = 0 ∧ mayPlace s 0 0 = true ∧ g.holds.trap = none ∧
       ∃ u, closeFrame s 5 g 20 = .done u) ∧
    (let g := { tF with wait := .await, loc := .cont 0x10000, nregs := 8, ndeep := 8 }
     let s := tSF 0 1 [] g
     contCore s g (FMap.getD s.frames 20 {}) = some 0 ∧
       (match closeFrame s 5 g 20 with
        | .done u => (match unitRead u 0 0 0x10000 (glen 8 8) with
          | (.ok (b, _), v) => (match loadGroup (FMap.getD v.groups 5 g) b with | some z => z.lanes.all (fun x => x.redo.isEmpty) | none => false)
          | _ => false)
        | _ => false) = true) := by
  refine ⟨fun sv => ?_, ?_⟩
  · cases sv <;> exact ⟨rfl, rfl, rfl, rfl, rfl, done_of (by decide +kernel)⟩
  · decide +kernel

/-- A matrix command of one row, one column and one K-block at the head of a core's queue, with operands in the slips, and a state that holds it. -/
def tM (st : OpSt) : EngOp := { kind := .mcmd, gid := 5, params := [1, 1, 0, 1, 1, 0, 1, 0, 1, 0, 0, 0] ++ List.replicate 52 0, st := st }
def tSM (st : OpSt) (n : Nat) : State :=
  { tS tG with ops := [(80, tM st)], cores := [(0, { mq := [80], slipA := { bytes := List.replicate n 1 }, slipB := { bytes := List.replicate n 1 } })] }

/-- MatrixEngineWorks: a command to start; one whose operands for a K-block are there, no byte more; one that reads its scales from memory; one whose K-block
is staged. -/
theorem wit_MatrixEngineWorks :
    (matrixAt (tSM .queued 0) 0 0 = some (80, tM .queued) ∧ opFrozen (tSM .queued 0) (tM .queued) = false ∧ (tM .queued).st = .queued) ∧
    (let s := tSM .running 128
     let x := tM .running
     matrixAt s 0 0 = some (80, x) ∧ opFrozen s x = false ∧ x.flags.getLsbD 4 = false ∧ x.staged = none ∧ scalesHere x = true ∧
       x.die = 0 ∧ x.core = 0 ∧ mM x.params * rowBytes (mFmtA x.params) = 128 ∧ mN x.params * rowBytes (mFmtB x.params) = 128 ∧ (s.core 0 0).slipA.bytes.length = 128) ∧
    (let x := { tM .running with params := [0, 1, 0, 2, 1, 0, 1, 0, 1, 0, 0, 0] ++ List.replicate 52 0 }
     let s := { tSM .running 128 with ops := [(80, x)] }
     matrixAt s 0 0 = some (80, x) ∧ opFrozen s x = false ∧ x.staged = none ∧ scalesHere x = false ∧
       ∃ y u, memScales s { x with staged := some [] } x.kb (List.range (mM x.params + 1)) [] false = (.ok y, u)) ∧
    (let x := { tM .running with staged := some (List.replicate 256 1) }
     let s := { tSM .running 0 with ops := [(80, x)] }
     matrixAt s 0 0 = some (80, x) ∧ opFrozen s x = false ∧ x.flags.getLsbD 4 = false ∧ x.staged.isSome = true ∧ scalesHere x = true ∧ x.recAddr = 0 ∧
       mKb x.params ≤ x.kb + 1) := by
  refine ⟨by decide +kernel, ?_, ?_, ?_⟩
  · exact ⟨by decide +kernel, by decide +kernel, rfl, rfl, by decide, rfl, rfl, by decide, by decide, by decide +kernel⟩
  · exact ⟨by decide +kernel, by decide +kernel, rfl, by decide, ok_of (by decide +kernel)⟩
  · exact ⟨by decide +kernel, by decide +kernel, rfl, rfl, by decide, rfl, by decide⟩

/-- TileArithmetic: a tile that is empty, and one with an element of the largest magnitude; a contribution of zero and others; K-blocks of FP4 with scales that are numbers and
that are not, of integers and of E4M3, each of a row and a column, with an infinite element and none; TRI clear, and an element above the diagonal; a number written in, and a NaN. -/
theorem wit_TileArithmetic :
    (FMap.sorted ([(5, 2 ^ 47)] : FMap Int) = true ∧ (∀ e ∈ ([(5, 2 ^ 47)] : FMap Int), e.2 ≠ 0 ∧ e.2.natAbs ≤ 2 ^ 47) ∧
      FMap.sorted ([(5, ⟨3, -10000⟩)] : FMap Contrib) = true ∧ (∀ e ∈ ([(5, ⟨3, -10000⟩)] : FMap Contrib), -10000 ≤ e.2.ce) ∧ worth ⟨3, -10000⟩ ≠ 0 ∧ worth ⟨0, 0⟩ = 0) ∧
    (∀ f : Fin 3, let a : Byte := [0, 1, 3].getD f.val 0
      let p : List Byte := [a, a, 0, 0, 1, 0, 1, 0, 1, 0, 0, 0] ++ List.replicate 52 0
      mPairOk (mFmtA p) (mFmtB p) = true ∧ mM p = 1 ∧ mN p = 1 ∧ (List.replicate (2 * rowBytes (mFmtA p)) (1 : Byte)).length = rowBytes (mFmtA p) * mM p + rowBytes (mFmtB p) * mN p ∧
        mFmtA p = [0, 1, 3].getD f.val 0 ∧ triKeeps p 0 0 = true ∧ triKeeps [a, a, 0, 8, 1, 0, 1, 0, 1, 0, 0, 0, 255, 255] 0 0 = false) ∧
    scaleE 0 = 0 ∧ scaleE 0x7F000000#32 ≠ 0 ∧ scaleE 0x7F000000#32 ≠ 255 ∧
    elemAt 1 (List.replicate 128 0x7F) 0 0 0 = none ∧ (fv32 nan32).isNan = true ∧ (∃ n m e, fv32 0x3F800000#32 = .fin n m e ∧ m ≠ 0) := by
  refine ⟨⟨by decide, by simp, by decide, by simp, ?_, ?_⟩, ?_, ?_⟩
  · simp [worth]
  · simp [worth]
  · decide +kernel
  · exact ⟨by decide +kernel, by decide +kernel, by decide +kernel, by decide +kernel, by decide +kernel, _, _, _, rfl, by decide +kernel⟩

/-- A chain at the head of channel 0, with the record it has taken, or the address of its next. -/
def tCh (st : OpSt) (b : List Byte) : EngOp := { kind := .chain 0, gid := 5, addr := 0x2000, params := b, st := st }
def tSC (st : OpSt) (b : List Byte) (r : Option Rec) (next : Option DWord) : State :=
  { tS tG with ops := [(80, tCh st b)], mem := { tBlocks with poison := [128] }, blocks := [(7, { groups := [5], kernel := { spad := 4096 } })],
               cores := [(0, { tlb := [⟨0, 0, 30, 0, 0x0F, 0⟩], chan0 := { chains := [80], cur := r, next := next } })] }
def tRecB (mode ext0 : Byte) : List Byte := padTo 128 (padTo 32 [2 * mode + 1] ++ [ext0])

/-- BargeEngineWorks, taking: a chain to start; a next record that is owned, one that is not, one whose line is poisoned. -/
theorem wit_BargeEngineWorks_take :
    ((tSC .queued (tRecB 0 4) none none).core 0 0).chan0.chains.head? = some 80 ∧ opFrozen (tSC .queued (tRecB 0 4) none none) (tCh .queued (tRecB 0 4)) = false ∧
    (∀ a bad own, (a, bad, own) ∈ ([(0x2000, false, true), (0x2480, false, false), (0x4000, true, false)] : List (DWord × Bool × Bool)) →
      let x := tCh .running (tRecB 0 4)
      let s := tSC .running (tRecB 0 4) none (some a)
      opFrozen s x = false ∧ aheadCopy s x ((s.core 0 0).chan 0) a = none ∧
        (match opRead s x a 128 with | (.ok (b, d), _) => d == bad && rOwn b == own && !rEarly b | _ => false) = true) := by
  refine ⟨rfl, by decide +kernel, fun a bad own h => ?_⟩
  simp only [List.mem_cons, Prod.mk.injEq, List.not_mem_nil, or_false] at h
  obtain ⟨rfl, rfl, rfl⟩ | ⟨rfl, rfl, rfl⟩ | ⟨rfl, rfl, rfl⟩ := h <;> exact ⟨by decide +kernel, by decide +kernel, by decide +kernel⟩

/-- BargeEngineWorks, the walk: a record whose bytes move, one that waits for its slip, a slip with room whose claim is its own, a record at its end. -/
theorem wit_BargeEngineWorks_walk :
    (∀ m : Bool, let r : Rec := { addr := 0x2000, bytes := tRecB (if m then 5 else 0) 4 }
     let s := tSC .running r.bytes (some r) none
     let s := if m then { s with cores := [(0, { chan0 := { chains := [80], cur := some r }, slipA := { claim := some 1 } })] } else s
     let x := tCh .running r.bytes
     chanAt s 0 0 0 = some (80, x, r) ∧ opFrozen s x = false ∧ r.finished = false ∧ r.cancelled = false ∧ r.waiting = false ∧
       (match (landPiece s x 0 r).1 with | .moved _ _ _ _ => !m | .wait => m | _ => false) = true) ∧
    (let r : Rec := { bytes := tRecB 5 4, waiting := true }
     let s := tSC .running r.bytes (some r) none
     chanAt s 0 0 0 = some (80, tCh .running r.bytes, r) ∧ ((s.core 0 0).slip (rSlip r.bytes)).bytes.length < 65536 ∧ mayClaim s 0 0 0 (rSlip r.bytes) = true) ∧
    (let r : Rec := { bytes := tRecB 5 4, finished := true }
     chanAt (tSC .running r.bytes (some r) none) 0 0 0 = some (80, tCh .running r.bytes, r) ∧ rMode r.bytes = 5 ∧ r.wrote = false) := by
  refine ⟨fun m => ?_, ?_, ?_⟩
  · cases m <;> exact ⟨by decide +kernel, by decide +kernel, rfl, rfl, rfl, by decide +kernel⟩
  · exact ⟨by decide +kernel, by decide, by decide +kernel⟩
  · exact ⟨by decide +kernel, by decide, rfl⟩

theorem is_local {s : State} {d b o pa : Nat} (h : regionOf s.fit pa = .package d b o) : isLocal s d pa = true := by simp [isLocal, h]

theorem in_package {s : State} {d b o pa : Nat} (h : regionOf s.fit pa = .package d b o) : inPackage s pa = true := by simp [inPackage, h]

theorem h2000 : regionOf Fitting.c 0x2000 = .package 0 0 0x2000 := by decide +kernel

/-- AddressesThatFail, translation: EN clear; an entry of the core's TLB that alone answers, one that permits reading and not writing; no entry, and a walk to a 1 GiB page, and
one to an entry that is not valid. -/
theorem wit_AddressesThatFail :
    (({} : Ctx).xlOn = false ∧ ((tS tG).ctx 0 0).xlOn = true ∧ canonical 0 = true ∧ canonical (2 ^ 48) = true) ∧
    (let e : TlbEntry := ⟨0, 0, 30, 0, 0x0B, 0⟩
     Permits e.perms.toNat .read 0 ∧ ¬ Permits e.perms.toNat .write 0 ∧ (0x3FFFFFFF#64).toNat / 2 ^ e.bits = e.vpage ∧ ∀ f ∈ [e], f = e) ∧
    (let s := { tS tG with
       mem := { bytes := [(0x10000, 1), (0x10001, 0x10), (0x10002, 1), (0x11000, 1), (0x11001, 0x20), (0x11002, 1), (0x12000, 0x43)] },
       dies := [(0, { mg := { world := 1 } })], cores := [], ctxs := [(0, { dies := [0], asctl := 0x10000001 })] }
     (s.core 0 0).tlb = [] ∧ (s.die 0).dm.tlb = [] ∧ AtRest s ∧ (s.die 0).dm.l2 = [] ∧ ({ gid := some 5 } : By).ops s = [] ∧ (s.ctx 0 0).root = 0x10000 ∧
       Walks s 0 0 4 0x10000 (some (30, 0, 3 + 64 - 64)) ∧ Walks s 0 (2 ^ 48) 4 0x10000 none) := by
  refine ⟨by decide, ⟨by unfold Permits; decide, by unfold Permits; decide, by decide, by simp⟩, rfl, rfl, at_rest rfl rfl rfl (by decide +kernel), rfl, rfl, by decide, ?_, ?_⟩
  · refine ⟨by decide +kernel, by decide +kernel, ?_⟩
    rw [if_neg (by decide +kernel), if_neg (by decide +kernel)]
    refine ⟨by decide +kernel, by decide +kernel, ?_⟩
    rw [if_neg (by decide +kernel), if_neg (by decide +kernel)]
    refine ⟨by decide +kernel, by decide +kernel, ?_⟩
    rw [if_neg (by decide +kernel), if_pos (by decide +kernel)]
    decide +kernel
  · refine ⟨by decide +kernel, by decide +kernel, ?_⟩
    rw [if_pos (by decide +kernel)]

/-- AddressesThatFail, lanes: one whose page is not there, one whose page denies the write, one whose page is another world's memory, each of the issue alone; an access that
arrives under a passed generation, with a result outstanding and with none. -/
theorem wit_AddressesThatFail_lanes :
    let g := { tG with s := [(2, ⟨0x2000, false⟩), (4, ⟨0x40002000, false⟩), (6, ⟨0x80002000, false⟩)] }
    let s := { tSL g with
      cores := [(0, { tlb := [⟨0, 0, 30, 0, 0x0B, 0⟩, ⟨0, 2, 30, 2 ^ 41, 0x0F, 0⟩] })], dies := [(0, { mg := { world := 1 } })] }
    (Issuing s tL g ∧ subOpen s tL.gid = false ∧ inFlight s tL.gid = false ∧ activeLanes tL g = [31] ∧ activeReal tL g = [31] ∧ (g.lane 31).st = .ready) ∧
    (∀ k, k = 2 ∨ k = 4 ∨ k = 6 → g.sPairTN k = false ∧ g.vt 1 31 = false ∧ addrBad (g.sPairN k + (g.vv 1 31).signExtend 64) 16 = false) ∧
    (∃ u, Tries s.fresh.2 g [.read] [(laneBy s tL g 31, 0x40002000, .error .page)] u) ∧ (∃ u, Tries s.fresh.2 g [.read] [(laneBy s tL g 31, 0x2000, .ok 0x2000)] u) ∧
    (∃ u, Tries s.fresh.2 g [.write] [(laneBy s tL g 31, 0x2000, .error .protect)] u) ∧ (∃ u, Tries s.fresh.2 g [.write] [(laneBy s tL g 31, 0x80002000, .error .world)] u) ∧
    (∀ k pend, let a := { tA k with gen := 1, pend := pend }
      let s := { tS tG with flight := [a] }
      s.flight[0]? = some a ∧ firstOfGroup s 0 a = true ∧ s.gen a.asid ≠ a.gen ∧ inPackage s a.pa = true ∧ FMap.get? s.groups a.gid = some tG ∧ tG.wait ≠ .awaitPlace ∧
        batchOf s a = [a] ∧ a.byHelper tG = false) ∧ (tA (.store [7])).publishes = false ∧ (tA (.store [7])).isAtomic = false ∧
    (tA (.atomic .add true 1 0 true false false)).publishes = false ∧ (tA (.atomic .add true 1 0 true false false)).isAtomic = true := by
  refine ⟨⟨⟨rfl, rfl, rfl⟩, rfl, rfl, by decide +kernel, by decide +kernel, rfl⟩, fun k h => ?_, ⟨_, _, _, Prod.mk.eta.symm, by decide +kernel, rfl⟩, ⟨_, _, _, Prod.mk.eta.symm, by decide +kernel, rfl⟩, ⟨_, _, _, Prod.mk.eta.symm, by decide +kernel, rfl⟩, ⟨_, _, _, Prod.mk.eta.symm, by decide +kernel, rfl⟩,
    fun k pend => ⟨rfl, rfl, (by decide : (0#16 : BitVec 16) ≠ 1#16), ?_, rfl, nofun, ?_, rfl⟩, rfl, rfl, rfl, rfl⟩
  · obtain rfl | rfl | rfl := h <;> decide +kernel
  · exact in_package h2000
  · cases k <;> simp [batchOf, tA]

/-- A group whose lanes are a child of a deterministic frame, which holds what is given. -/
def tD : Group := { tG with lanes := List.replicate 32 { st := .ready, pc := 0x1000, child := some 40 }, s := [(2, ⟨0x2000, false⟩)] }
def tDS (held : List HeldOp) (s : State) : State := { s with children := [(40, { frame := 20, det := true, held := held })] }

/-- A held store at an address, and a held add. -/
def tHs (pa : Nat) : HeldOp := ⟨pa / 128, pa, 0, .store [1, 2, 3, 4] none, false⟩
def tHa (pa : Nat) : HeldOp := ⟨pa / 128, pa, 0, .atomic .add false 5 0, false⟩

/-- ChildrenHoldTheirWrites, at issue and at the place: a shadow area of one line that is free, and one that is taken; a held store and a held add on the location read. -/
theorem wit_ChildrenHoldTheirWrites :
    (∀ h, h = [] ∨ h = [tHs 0x4000] →
      let s := tDS h { tSL tD with ctxs := [(0, { dies := [0], asctl := 1, determ := 0 })] }
      Issuing s tL tD ∧ tD.sPairTN 2 = false ∧ addrBad (tD.sPairN 2 + (tD.vv 1 31).signExtend 64) 16 = false ∧ activeReal tL tD = [31] ∧ laneDet s tD 31 = some 40 ∧
        (∃ u, Translates s.fresh.2 tD [.write] (fun _ => True) [(laneBy s tL tD 31, 0x2000, 0x2000)] u) ∧ (Room s 0 0 [(40, 0x2000 / 128)] ↔ h = [])) ∧
    (∀ k, let a := { tA k with child := [40] }
      let h := [tHs 0x2000, tHa 0x2000, tHs 0x2080]
      let s := tDS h { tS (tP .waiting [some (.v 3 31)]) with flight := [a] }
      AtHomeFor [40] s 0 a (tP .waiting [some (.v 3 31)]) ∧ NoFailures s ∧ (FMap.get? s.children 40).map (·.held) = some h ∧ CleanHeld h ∧ poisonedLine s 0 0x2000 = false ∧
        Location h 0x2000 4 ∧ NoAtomic h 0x2004 4 ∧ batchOf s a = [a]) := by
  refine ⟨fun h hh => ?_, fun k => ⟨⟨rfl, rfl, ?_, rfl, rfl, (by decide : 0 < 128), rfl, ?_, ?_, rfl, rfl, nofun⟩, ⟨rfl, rfl, rfl⟩, rfl, ?_, rfl, ?_, ?_, ?_⟩⟩
  · obtain rfl | rfl := hh <;>
    exact ⟨⟨rfl, rfl, rfl⟩, rfl, by decide +kernel, by decide +kernel, by decide +kernel, ⟨_, ⟨_, _, rfl, rfl, rfl⟩, by simp⟩, by unfold Room; decide +kernel⟩
  · exact is_local h2000
  · intro d x h
    rcases d with _ | d <;> cases h
  · show (0 : Nat) < 16; decide
  · intro o ho d hd; simp [tHs, tHa] at ho; rcases ho with rfl | rfl | rfl <;> simp at hd
  · refine ⟨by decide, fun o ho op w x y hd => ?_⟩
    simp [tHs, tHa] at ho; rcases ho with rfl | rfl | rfl <;> simp at hd <;> obtain ⟨rfl, rfl, rfl, rfl⟩ := hd <;> decide
  · intro o ho op w x y hd
    simp [tHs, tHa] at ho; rcases ho with rfl | rfl | rfl <;> simp at hd <;> obtain ⟨rfl, rfl, rfl, rfl⟩ := hd <;> decide
  · cases k <;> simp [batchOf, tA, tDS]

/-- ChildrenHoldTheirWrites, the merge: two children of a frame that hold a store and an add each; an enclosing child with room for their lines, and one without. -/
theorem wit_ChildrenHoldTheirWrites_merge :
    let kid := fun (i : Nat) (h : List HeldOp) => ({ frame := 20, index := i, det := true, held := h } : Child)
    let ks := [(41, kid 0 [tHs 0x2000, tHa 0x2000]), (42, kid 1 [tHa 0x2000, tHs 0x2080])]
    (let s := { tS { tG with frames := [20] } with children := ks }
     (s.children.filter (fun e => e.2.frame == 20)).Perm ks ∧ ks.Pairwise (fun e f => e.2.index < f.2.index) ∧
       (∀ o ∈ ks.flatMap (fun e => e.2.held), o.gen = s.gen (s.ctx 0 0).asid ∧ placeErr s 0 o.pa = none ∧ inPackage s o.pa = true ∧ poisonedLine s 0 o.pa = false ∧
         o.pa % 4 = 0 ∧ o.pa % 128 + 4 ≤ 128) ∧ AtRest s ∧ groupDet s { tG with frames := [20] } = none) ∧
    (∀ n : DWord, n = 0 ∨ n = 2 ^ 57 →
      let g := { tD with frames := [20] }
      let s := { tS g with children := (40, { frame := 19, det := true }) :: ks, frames := [(20, { gid := 5 })], ctxs := [(0, { dies := [0], asctl := 1, determ := n })] }
      groupDet s g = some 40 ∧ (FMap.get? s.children 40).isSome = true ∧ (FMap.get? s.frames 20).map (·.count) = some 0 ∧ Settled s tC g ∧
        heldPairs s 0 0 = [(41, 64), (42, 64), (42, 65)] ∧ heldLines (ks.flatMap (fun e => e.2.held)) = [64, 65]) := by
  refine ⟨⟨?_, by decide +kernel, by decide +kernel, at_rest rfl rfl rfl (by decide +kernel), by decide +kernel⟩, fun n hn => ?_⟩
  · exact List.Perm.of_eq (by decide +kernel)
  · obtain rfl | rfl := hn <;> exact ⟨by decide +kernel, rfl, rfl, ⟨rfl, rfl⟩, by decide +kernel, by decide +kernel⟩

/-- BargeEngineWorks, the write-back: a record at its end whose bytes can be written, one whose page is not there, one in a lost range. -/
theorem wit_BargeEngineWorks_writeback :
    (∀ k : Fin 3, let r : Rec := { addr := [0x2000, 0x40000000, 0x80000000].getD k.val 0, bytes := tRecB 5 4, finished := true }
     let s := { tSC .running r.bytes (some r) none with
       cores := [(0, { tlb := [⟨0, 0, 30, 0, 0x0F, 0⟩, ⟨0, 2, 30, 2 ^ 51, 0x0F, 0⟩], chan0 := { chains := [80], cur := some r } })],
       dies := [(0, { mg := { world := 1, fwin := [(0, { lo := 0x5E00000000000000#64, hi := 0, lost := true })] } })] }
     let x := tCh .running r.bytes
     let w := recDone s 0 0 0 x r
     chanAt s 0 0 0 = some (80, x, r) ∧ opFrozen s x = false ∧ r.wrote = false ∧ x.kind = .chain 0 ∧
       (match (opWrites w x [(r.addr, leBytes 4 0 ++ leBytes 4 r.undeliv, false), (r.addr + 124, leBytes 4 (min r.moved (2 ^ 32 - 1)), false)]).1 with
        | .ok () => k == 0 | .error (e, _) => if k = 1 then e == .page else k == 2 && e == .lost) = true) := by
  decide +kernel

/-- An operation of an engine with its parameters, alone. -/
def tOp (k : OpKind) (b : List Byte) (st : OpSt) : EngOp := { kind := k, gid := 5, addr := 0x2000, params := b, st := st }
def tSO (x : EngOp) (bytes : List Host.Cell) : State :=
  { tS tG with ops := [(80, x)], mem := { bytes := bytes }, dies := [(0, { mg := { world := 1 }, dm := { tlb := [⟨0, 0, 30, 0, 0x0F, 0⟩] }, mau0 := [80], umx := [80], helm := [80], lunit := [80] })] }

/-- A sweep of one head of 64 elements over the positions below P1, and a round over 8 positions whose bitmap is at 0x3000. -/
def tSweep (p1 seg : Byte) : List Byte := padTo 128 (padTo 28 [0x40] ++ [p1, 0, 0, 0, 64, 0, 1, 0, seg])
def tRound : List Byte := padTo 128 (padTo 8 [0, 0x31] ++ padTo 24 [0, 0x30] ++ [8])

/-- SweepsAndRounds, a sweep: one that starts; a tile within its segment; the segment's last tile. -/
theorem wit_SweepsAndRounds_sweep :
    (let x := tOp .attn (tSweep 65 128) .queued
     let s := tSO x []
     opFrozen s x = false ∧ x.flags.getLsbD 4 = false ∧ (mauQueue (s.die (aDie x.params)) (aStack x.params)).contains 80 = true ∧
       inTurn s (mauQueue (s.die (aDie x.params)) (aStack x.params)) 80 = true ∧
       (match readHeads s x (List.range (aQh x.params)) [] [] with | (.ok _, _) => true | _ => false) = true) ∧
    (let x := { tOp .attn (tSweep 65 128) .running with extra := List.replicate 256 0 }
     let s := tSO x []
     opFrozen s x = false ∧ x.extra ≠ [] ∧ x.curTile < aSegEnd x.params x.segTile ∧ x.curTile + 1 < aSegEnd x.params x.segTile ∧
       (match tileEntry s x x.curTile with | (.ok _, _) => true | _ => false) = true) ∧
    (let x := { tOp .attn (tSweep 65 64) .running with extra := List.replicate 256 0 }
     let s := tSO x []
     x.curTile < aSegEnd x.params x.segTile ∧ aSegEnd x.params x.segTile ≤ x.curTile + 1 ∧ x.recAddr = 0 ∧
       (match tileEntry s x x.curTile with
        | (.ok (e, bad, base), u) =>
          let ts := tileStatus u x e bad
          let y := { x with curTile := x.curTile + 1, stats := x.stats ++ [ts.1],
                            entering := x.entering ++ (if ts.1 = 0 then tileEntrants x.params x.curTile base e ts.2.1 else []) }
          (match opWrites (ts.2.2.putOp 80 y) y (segWrites y) with | (.ok _, _) => true | _ => false)
        | _ => false) = true) := by
  refine ⟨?_, ?_, ?_⟩ <;> decide +kernel

/-- SweepsAndRounds, a round: one that begins with a masked position, and its first write. -/
theorem wit_SweepsAndRounds_round :
    (let x := tOp .unmask tRound .queued
     let s := tSO x [(0x3000, 5)]
     opFrozen s x = false ∧
       (match opRead s x (BitVec.ofNat 64 (field tRound 8 8)) (ceilDiv (uNpos tRound) 8) with
        | (.ok (mask, false), u) =>
          let ps := maskedOf mask (uNpos tRound)
          (match readWords (u.updOp 80 (fun x => { x with lost := ps.length, entering := [(0, mask)] })) x (field tRound 0 8) ps [] false with
           | (.ok (cs, false), v) =>
             let ranked := (ps.zip cs).foldr rankIn []
             let chosen := (ranked.take (commits tRound ranked)).map (·.1)
             !chosen.isEmpty && (match readWords v x (field tRound 16 8) chosen [] false with | (.ok (_, false), _) => true | _ => false)
           | _ => false)
        | _ => false) = true) ∧
    (let x := { tOp .unmask tRound .running with stats := [2], staged := some [0, 0, 0, 0], entering := [(0, [4])] }
     let s := tSO x []
     opFrozen s x = false ∧ x.entering ≠ [] ∧ (umxWrites x).length = 2 ∧
       ((umxWrites x)[0]?.map (fun z => match umxWrite s x z with | (.ok _, _) => true | _ => false)) = some true) := by
  refine ⟨?_, ?_⟩ <;> decide +kernel

/-- SweepsAndRounds, an end: a record to write, an add to make, neither; a chain's last record; the word an add is made at. -/
theorem wit_SweepsAndRounds_end :
    (let x := { tOp .mcmd (List.replicate 64 0) .adding with recAddr := 0x3000, cnt := 0x3100 }
     let s := tSO x []
     addHeldUp s x = false ∧ (match opWrite s x false x.recAddr x.record with | (.ok _, _) => true | _ => false) = true ∧
       (match counterAdd s x x.cnt x.inc x.csys x.owed (x.flags.getLsbD 4) with | (.ok _, _) => true | _ => false) = true) ∧
    (let r : Rec := { bytes := tRecB 0 4, wrote := true, finished := true }
     chanAt (tSC .running r.bytes (some r) none) 0 0 0 = some (80, tCh .running r.bytes, r) ∧ rCnt r.bytes = 0 ∧ rNext r.bytes = 0 ∧
       baseBad (rNext (padTo 128 [1, 0, 0, 0, 0, 0, 0, 0, 0x80])) 128 = false) := by
  refine ⟨?_, ?_⟩
  · decide +kernel
  · exact ⟨by decide +kernel, by decide, by decide, by decide⟩

/-- A state whose L2s hold no line of another die's memory. -/
theorem noDirty_of {s : State} (h : s.dies.all (fun e => e.2.dm.l2.all (·.own)) = true) (pa : Nat) : NoDirtyCopy s pa := by
  intro d x hx ho
  unfold State.die FMap.getD at hx
  cases hd : FMap.get? s.dies d with
  | none => rw [hd] at hx; exact absurd hx (by simp)
  | some y =>
    rw [hd] at hx
    have hm : ∀ (m : FMap Die), FMap.get? m d = some y → ∃ e ∈ m, e.2 = y := by
      intro m
      induction m with
      | nil => intro h; exact absurd h (by simp [FMap.get?])
      | cons e m ih =>
        intro h
        by_cases hk : e.1 = d
        · exact ⟨e, .head _, by simpa [FMap.get?, hk] using h⟩
        · obtain ⟨e', h1, h2⟩ := ih (by simpa [FMap.get?, hk] using h)
          exact ⟨e', .tail _ h1, h2⟩
    obtain ⟨e, he, rfl⟩ := hm _ hd
    have := List.all_eq_true.mp (List.all_eq_true.mp h e he) x hx
    simp_all

/-- SweepsAndRounds: the state in which an add at 0x3100 has claimed its line and made its producer half. -/
def tAdd : Option (Xl × State) :=
  match xlNeeds (tSO {} []) 0 (EngOp.tlbCore {}) 0 0 0x3100 [.write] { child := none } with
  | (.ok p, u) => some (p, producerNow (homeRead (claimLine u 0 0 (0x3100 / 128)) 0 p.pa 8).2 0 0 false)
  | _ => none

/-- SweepsAndRounds: an add whose word is the die's own, its line neither poisoned nor away from home. -/
theorem wit_SweepsAndRounds_add : ∃ p v, tAdd = some (p, v) ∧ mpCheck v 0 p.pa false = none ∧ isLocal v 0 p.pa = true ∧ p.pa % 8 = 0 ∧
    poisonedLine v 0 p.pa = false ∧ (v.die 0).dm.expSnoop = [] ∧ NoDirtyCopy v p.pa ∧ HasWay v 0 p.pa ∧ NoFailures v := by
  have h : (match tAdd with
    | some (p, v) => decide (mpCheck v 0 p.pa false = none ∧ isLocal v 0 p.pa = true ∧ p.pa % 8 = 0 ∧ poisonedLine v 0 p.pa = false ∧ (v.die 0).dm.expSnoop = [] ∧
        v.dies.all (fun e => e.2.dm.l2.all (·.own)) = true ∧ ((v.die 0).dm.l2.filter (fun y => l2Set y.place == l2Set (lineOf p.pa))).length < 16 ∧
        (v.mem.linkFails = [] ∧ v.mem.damaged = [] ∧ v.mem.badPages = []))
    | none => false) = true := by decide +kernel
  cases e : tAdd with
  | none => rw [e] at h; exact absurd h (by simp)
  | some y =>
    rw [e] at h
    obtain ⟨h1, h2, h3, h4, h5, h6, h7⟩ := of_decide_eq_true h
    exact ⟨y.1, y.2, rfl, h1, h2, h3, h4, h5, noDirty_of h6 _, h7.1, h7.2⟩

/-- A barrier of a team of one, and of one with a member on another package. -/
def tColl (nm : Byte) : EngOp := { tOp .coll (padTo 64 [4, 5]) .running with extra := padTo 64 [nm] ++ padTo 8 [0, 0, 0, 0, 1] }

/-- CollectivesAndManifests: members that agree, that may differ, one that may be lost. -/
theorem wit_CollectivesAndManifests :
    (detects (tSO (tColl 2) []) (tColl 2) = true ∧ 1 ≤ (tRemote (tColl 2).extra).length + lostLocal (tSO (tColl 2) []) (tColl 2)) ∧
    (tColl 1).flags.getLsbD 8 = false ∧ (tColl 1).flags.getLsbD 4 = false ∧ (tColl 1).recAddr = 0 ∧ (tColl 1).lost = 0 ∧
    (match collReady (tSO (tColl 1) []) 80 (tColl 1) [] with
     | some v => (match FMap.get? v.ops 80 with
       | some y => y.st == .running && y.staged.isSome && y.recAddr == 0 &&
           decide ((y.staged.getD []).length = elemBytes y.params (dstCount y.params y.extra) ∧ 0 < elemBits (cFmt y.params)) &&
           (match collPut v 80 (collWrites v y (fun _ => true)) with | (none, _) => true | _ => false)
       | none => false)
     | none => false) = true := by
  refine ⟨?_, ?_, ?_, ?_, ?_, ?_⟩ <;> decide +kernel

/-- CollectivesAndManifests: a manifest to send with a session, with one that is lost and with none, and its answer. -/
theorem wit_CollectivesAndManifests_send :
    let x := tOp .ship (List.replicate 128 0) .queued
    let s := tSO x []
    let y : Session := { spec := { die := 0, tport := 0, sender := true, ctx := 0, prio := 0, slots := 0 }, manifestKey := 1, stationKey := 0 }
    let t := fun b => { s with pkg := { sessions := [(3, { y with lost := b })], packets := [⟨80, 3, 1, x.params, 0⟩] } }
    let sess := fun (u : State) => u.pkg.sessions.find? (fun e =>
      e.2.live && e.2.spec.sender && e.2.spec.peer.isNone && e.2.spec.die == 0 && e.2.spec.tport == mTport x.params)
    (s.die 0).helm.find? (fun k => match FMap.get? s.ops k with | some x => x.st == .queued | none => false) = some 80 ∧ sess s = none ∧
      x.recAddr = 0 ∧ x.cnt = 0 ∧ (∀ b, sess (t b) = some (3, { y with lost := b })) ∧ (t false).pkg.packets.find? (fun p => p.op == 80) = some ⟨80, 3, 1, x.params, 0⟩ ∧
      (let z := { x with recAddr := 0x3000, progress := 1 + 256, flags := 1#32, st := .adding }
       (match opWrite ((t false).putOp 80 z) z false 0x3000 (leBytes 8 257) with | (.ok _, _) => true | _ => false) = true) := by
  decide +kernel

/-- R208: barriers of dies 0, 1 and 2 of one team, issued by dies 0 and 1 with other formats. Die 0 finds the difference: die 1 is to end with MISMATCH,
and die 2 when it issues. -/
theorem test_coll_mismatch_reaches_every_member :
    (let team := fun (r : Byte) => padTo 64 [3, 0, 0, 0, r] ++ [0, 0, 0, 0, 0, 4, 0, 0, 0, 8, 0, 0]
     let x : EngOp := { tOp .coll (padTo 64 [4, 5]) .running with extra := team 0 }
     let y : EngOp := { tOp .coll (padTo 64 [4, 7]) .running with extra := team 1, die := 1 }
     let s := { tSO x [] with ops := [(80, x), (81, y)] }
     match collEnd s 80 true [] with
     | some t => detects s x && ((FMap.getD t.ops 80 {}).flags == 0x101#32) && ((FMap.getD t.ops 81 {}).flags == 0x100#32) &&
         ((t.die 2).collOwed.any (fun e => e.rank == 2 && e.keys.contains (collKey y))) && (t.die 1).collOwed.isEmpty
     | none => false) = true := by decide +kernel

/-- A manifest for the kernel of the tables, and a package where it may be received: the pages of its ranges in an extent of the die's tenant. -/
def tMan (grid : Byte) : List Byte := padTo 128 [1, 0, 0, 0, 0, 0, 0, 0, grid, 0, 0, 0, 1, 0, 1, 0, 8]
def tSMan (ext : Bool) : State :=
  { tS tG with
    fit := .m, mem := { bytes := tMem.bytes ++ [(0x40000, 1), (0x40001, 0x10), (0x40002, 4), (0x41000, 1), (0x41001, 0x20), (0x41002, 4), (0x42000, 0x4F)] },
    ctxs := [(0, { dies := [0], asctl := 0x40000001, ktab := 0x8000, nkern := 1 })],
    dies := [(0, { mg := { world := 1 }, dm := { extents := if ext then [(0, ⟨1, [], false⟩)] else [] } })] }

/-- CollectivesAndManifests, a manifest received: its tag under the session's key, its number new and not, a grid it cannot have, a kernel that is found, its
ranges in an extent and not, a slot free. -/
theorem wit_CollectivesAndManifests_check :
    (let x : Session := { spec := { die := 0, tport := 0, sender := false, ctx := 0, prio := 0, slots := 0x9000 }, manifestKey := 1, stationKey := 0 }
     let s := { tSMan true with pkg := { sessions := [(3, x)] } }
     FMap.get? s.pkg.sessions 3 = some x ∧ x.spec.peer = none ∧ x.live = true ∧ FMap.get? s.pkg.sessions 4 = none ∧ (tMan 1).length = 128 ∧ unitHeld s 0 0 (.manifest 3 1) = false ∧
       x.verified.toNat < 1 ∧ (0 : Nat) ≤ x.verified.toNat ∧ x.refuse.contains 1 = false ∧ (s.ctx? 0 0).isSome = true ∧ x.slots.findIdx? (·.isNone) = some 0) ∧
    (∀ ext grid, (ext, grid) ∈ ([(true, 1), (false, 1), (true, 0)] : List (Bool × Byte)) →
      let y : Session := { spec := { die := 0, tport := 0, sender := false, ctx := 0, prio := 0, slots := 0x9000 }, manifestKey := 1, stationKey := 0 }
      gridOk (field (tMan grid) 8 4) (field (tMan grid) 12 2) (field (tMan grid) 14 2) = (grid == 1) ∧
      (match readKernel (noteVerified { tSMan ext with pkg := { sessions := [(3, y)] } } 3 1) 0 0 (field (tMan grid) 2 2) with
       | (.ok kn, u) => kernelCode u 0 0 kn (field (tMan grid) 4 1) [0] 1 == 0 && rangesOk u 0 0 (tMan grid) == ext &&
           (match unitWrite u 0 0 0x9000 (tMan grid) with | (.ok _, _) => true | _ => false)
       | _ => false) = true) := by
  refine ⟨?_, fun ext grid h => ?_⟩
  · decide +kernel
  · simp only [List.mem_cons, Prod.mk.injEq, List.not_mem_nil, or_false] at h
    obtain ⟨rfl, rfl⟩ | ⟨rfl, rfl⟩ | ⟨rfl, rfl⟩ := h <;> decide +kernel

/-- A launch line READY at 0x9000, for a grid of gy blocks of the kernel of the tables; the same bytes are a node's record. -/
def tLine (gy : Byte) : List Host.Cell :=
  tMem.bytes ++ ([(0x9000, 1), (0x9010, 1)] ++ (if gy = 0 then [] else [(0x9014, gy)]) ++ [(0x9016, 1)])
def tSLn (gy : Byte) : State :=
  { tS tG with mem := { bytes := tLine gy }, ctxs := [(0, { dies := [0], asctl := 1, ktab := 0x8000, nkern := 1, llines := 0x8C80, llen := 0x80 })] }

/-- Whether a take of a record at 0x9000 gives a code, its judgement and its write of the state made. -/
def tTake (s : State) (node : Option Nat) (code : Nat) : Bool :=
  match unitRead s 0 0 0x9000 128 with
  | (.ok (b, _), u) => lState b == 1 && lCnt b == 0 && (match judge u 0 0 b node (lDies b [0]) with
    | (.ok (k, _), v) => k == code && (match unitWrite v 0 0 0x9000 [if k = 0 then 2 else 3, b8 k] with | (.ok _, _) => true | _ => false)
    | _ => false)
  | _ => false

/-- A refused node's launch, its record written, ends without an add, and its instance is as it was. -/
def tRefused (s : State) (i : Nat) (x : Inst) : Bool :=
  match unitRead s 0 0 0x9000 128 with
  | (.ok (b, _), u) => (match judge u 0 0 b (some 0) (lDies b [0]) with
    | (.ok (c, k), v) => (match unitWrite v 0 0 0x9000 [3, b8 c] with
      | (.ok _, w) =>
        let l := { launchOf 0 0 0 b k (lDies b [0]) (lArg b) (.line 0 0) with st := .ended }
        c != 0 && l.cnt == 0 && FMap.get? (foldNames (w.fresh.2.putLaunch w.fresh.1 l) l.dies (fun s d => producerNow s d l.ctx true)).insts i == some x
      | _ => false)
    | _ => false)
  | _ => false

/-- GraphsAndLaunches, launches: the last of a context's lines, taken and refused; records to reserve; a launch at its end, from each source, with a counter
and with none. -/
theorem wit_GraphsAndLaunches_launch :
    (∀ gy : Byte, gy = 0 ∨ gy = 1 → (tSLn gy).ctx? 0 0 = some ((tSLn gy).ctx 0 0) ∧ ((tSLn gy).ctx 0 0).dies.head? = some 0 ∧
      ((tSLn gy).ctx 0 0).llen.getLsbD 7 = true ∧ ((tSLn gy).ctx 0 0).rewatch.contains 7 = false ∧ ((tSLn gy).ctx 0 0).llines + BitVec.ofNat 64 (128 * 7) = 0x9000 ∧ unitHeld (tSLn gy) 0 0 (.take 7) = false ∧
      tTake (tSLn gy) none (1 - gy.toNat) = true) ∧
    (let l : Launch := { dies := [0], kernel := { tK with frames := 1 } }
     let s := { tS tG with launches := [(30, l)] }
     l.st = .taken ∧ poolTake s l.die l.ctx l.kernel.frames = some [0]) ∧
    (∀ src : LSrc, let l : Launch := { dies := [0], st := .ended, cnt := 0x3100, inc := 1, src := src }
     let s := { tS tG with launches := [(30, l)] }
     FMap.get? s.launches 30 = some l ∧ l.st = .ended ∧ unitHeld s 0 0 (.launchAdd 30) = false) ∧
    (let l : Launch := { dies := [0], st := .ended, cnt := 0x3100, inc := 1 }
     let s := { tS tG with launches := [(30, l)] }
     (match counterAdd (foldNames (s.putLaunch 30 { l with st := .ended, free := [] }) l.dies (fun s d => producerNow s d l.ctx true))
         { kind := .replay, die := l.die, ctx := l.ctx, ring := 1 } l.cnt l.inc true false false with | (.ok _, _) => true | _ => false) = true) := by
  refine ⟨fun gy h => ?_, ?_, fun _ => ⟨rfl, rfl, rfl⟩, ?_⟩
  · obtain rfl | rfl := h <;> decide +kernel
  · decide +kernel
  · decide +kernel

/-- GraphsAndLaunches, graphs: a replay that may take a slot, a node that is ready, taken and refused, an instance whose nodes have ended. -/
theorem wit_GraphsAndLaunches_graph :
    (let x := tOp .replay (padTo 64 [1, 0, 0, 0, 0, 0, 0, 1, 0, 0x30]) .queued
     let s := tSO x []
     (s.die x.die).lunit.find? (fun k => match FMap.get? s.ops k with | some y => y.inst.isNone | none => false) = some 80 ∧ graphSlot s x = some 0 ∧
       (match opRead s x (x.addr + 64) 128 with
        | (.ok (b, _), u) => (match opRead u x (BitVec.ofNat 64 (gArga x.params)) (gArglen x.params) with
          | (.ok (as, _), v) => (match opWrites v x ((0x3000, b.take 128 ++ as, false) ::
              (patchWrites x.params (b.drop 128) x.extra).map (fun e => ((0x3000 : DWord) + BitVec.ofNat 64 e.1, e.2, false))) with | (.ok _, _) => true | _ => false)
          | _ => false)
        | _ => false) = true) ∧
    (∀ gy : Byte, gy = 0 ∨ gy = 1 → let x : Inst := { base := 0x9000, nnode := 1, parents := [0], nodes := [.waiting] }
     let s := { tSLn gy with insts := [(90, x)] }
     nodeReady x 0 = true ∧ unitHeld s 0 0 (.node 90 0) = false ∧ x.nodes[0]? = some .waiting ∧ x.base + BitVec.ofNat 64 (128 * 0) = 0x9000 ∧
       (FMap.get? s.ops x.op).bind EngOp.child = none ∧ tTake s (some 0) (1 - gy.toNat) = true ∧ (gy = 0 → tRefused s 90 x = true)) ∧
    (let y : Inst := { op := 80, nodes := [.ended] }
     let s := { tSO (tOp .replay [] .running) [] with insts := [(90, y)] }
     FMap.get? s.insts 90 = some y ∧ (FMap.get? s.ops 80).map (·.cnt) = some 0 ∧ (∀ n ∈ y.nodes, n = .ended) ∧ unitHeld s 0 0 (.instAdd 90) = false) := by
  refine ⟨?_, fun gy h => ?_, ?_⟩
  · decide +kernel
  · obtain rfl | rfl := h <;> decide +kernel
  · decide +kernel

/-- A state with one launch of two blocks to place on die 0. -/
def tLn (gang : Bool) (prio : Nat) : Launch := { dies := [0], st := .placing, gx := 2, kernel := { tK with gang := gang }, entry := 0x1000, prio := prio }

/-- BlocksPlaced: a cluster with room, a gang whose share is placed, a head without room behind a context of lower priority. -/
theorem wit_BlocksPlaced :
    (let l := tLn false 0
     let s := { tS tG with launches := [(30, l)] }
     headLaunch s 0 = some (30, l) ∧ l.owes 0 = true ∧ restoreFirst s 0 0 = false ∧ (clusterBlocks l (l.nextCluster 0)).length = 1 ∧ coreRoom s 0 191 0 l.kernel = true) ∧
    (let l := tLn true 0
     let s := { tS tG with launches := [(30, l)] }
     l.share 0 > 0 ∧ (headLaunch s 0).map (·.1) = some 30 ∧ (placeShare s 0 30 (l.share 0) [190, 191]).map (·.1) = some []) ∧
    (let l := tLn false 1
     let s := { tS tG with launches := [(30, l)], ctxs := [(0, { dies := [0] }), (1, { dies := [0] })], dies := [(0, { cycle := 8192, mg := { failedCores := List.range 192 } })],
                           blocks := [(7, { groups := [5], ctx := 1 })] }
     headLaunch s 0 = some (30, l) ∧ (s.die 0).headSince + 8192 ≤ (s.die 0).cycle ∧ headRoom s 0 30 l = false ∧ victimCtx s 0 l = some 1) := by
  refine ⟨?_, ?_, ?_⟩ <;> decide +kernel

/-- SwitchEvents: a request that may be made, one of a context already in a switch, one that may not; a wait that is over; a unit at its boundary; an image that fits
its area and one that does not; an image to restore. -/
theorem wit_SwitchEvents :
    (let s := { tSW .run none with pkg := { hstate := 4 } }
     (s.die 0).mg.retired = false ∧ (s.ctx? 0 1).isSome = true ∧ mayWrite (s.die 0).mg .helm = true ∧ mayWrite (s.die 0).mg (.host 0 0) = false ∧
       (s.ctx 0 1).sw = .run ∧ (s.ctx 0 1).switch = none ∧ ((tSW .saved none).ctx 0 1).sw ≠ .run) ∧
    (let s := { tS tG with ctxs := [(0, { dies := [0], backoff := 8192 })], dies := [(0, { cycle := 8192 })] }
     (s.ctx 0 0).backoff ≠ 0 ∧ (s.ctx 0 0).backoff ≤ (s.die 0).cycle) ∧
    (let w : Switch := { engine := true, units := [.core 0, .umx] }
     w.units.contains .umx = true ∧ unitAtRest (tSW .stopped (some w)) 0 1 .umx = true) ∧
    (let w : Switch := { engine := true, image := 0x10000 }
     let s := { tSW .saved (some w) with
       mem := { bytes := [(0x10000, 1), (0x10001, 1), (0x10007, 1)] }, ctxs := [(1, { dies := [0], asctl := 1, sw := .saved, switch := some w })] }
     unitHeld s 0 1 (.image true) = false ∧ (s.ctx 0 1).retryAt ≤ (s.die 0).cycle ∧
       tGot (getPieces (fun s va n => unitRead s 0 1 va n) s w.image [(0, 4096), (4096, 256 * w.engs.length)] [] false) (fun ps u =>
         headerOk 0 1 (pick ps 0 4096) && engsOk u w.engs (pick ps 4096 (256 * w.engs.length)) &&
         (match getRecs (fun s va n => unitRead s 0 1 va n) u w (w.recs.zip (List.range w.recs.length)) [] with | (.ok _, _) => true | _ => false)) = true) := by
  refine ⟨?_, ?_, ?_, ?_⟩ <;> decide +kernel

/-- SwitchEvents: the record of core 3, with a block, a group and a tile, loads part by part at core 11 from the bytes that it saves to. -/
theorem wit_SwitchEvents_load :
    let r : CoreRec := { core := 3, blocks := [7], groups := [5], tiles := [(2, {})] }
    let w : Switch := { engine := true, recs := [r] }
    let v := { tSW .saved (some w) with
      groups := [(5, { tW with ctx := 1, lanes := List.replicate 32 {} })], blocks := [(7, { ctx := 1, groups := [5], tiles := [2], kernel := { tiles := 1 } })] }
    let ps := (List.range 6).flatMap (r.part v)
    let p := placeCtx v 0 1 w [11] (List.replicate 4096 0) []
    let y := ((p.ctx 0 1).switch).getD w
    emptyCore v 0 11 = true ∧ y.recs.map (·.target) = [some 11] ∧
    ((y.recs.zip [ps]).foldlM (fun q e => (List.range 6).foldlM (fun q k => loadPart q 0 e.1 k e.2) q) p).isSome = true ∧
    (y.recs.flatMap (·.groups)).Nodup ∧ (y.recs.flatMap (·.blocks)).Nodup ∧ (y.recs.flatMap (fun r => r.mq ++ r.chan0.chains ++ r.chan1.chains)).Nodup ∧
    ∀ r ∈ y.recs, CoreRec.Sound r p 0 := by
  unfold CoreRec.Sound
  decide +kernel

/-- Whether the save engine finds that an image at 0x1000000000 fits or not, and may write it. -/
def tSaved (w : Switch) (s : State) (fits : Bool) : Bool :=
  match spillAll s 0 1 (s.frames.map (·.1)) with
  | (true, u) =>
    let y : Switch := { w.filled u 0 1 with headerOwed := false }
    let recs := (y.recs.zip (y.layout u).1).flatMap (fun e => (List.range 6).flatMap (fun k => (e.1.part u k).map (fun p => (e.2 + p.1, p.2))))
    imageFits (s.ctx 0 1) (y.layout u).2 == fits &&
      (match putPieces (fun s va bs => unitWrite s 0 1 va bs) u y.image (y.front u 0 1 ++ recs ++ [(1, [1])]) with | (.ok _, _) => true | _ => false)
  | _ => false

/-- SwitchEvents: an image that fits its area and one that does not, the area behind a port that is lost, whose writes have no effect (R365). -/
theorem wit_SwitchEvents_save : ∀ fits : Bool,
    let w : Switch := { engine := true, image := 0x1000000000 }
    let s := { tSW .stopped (some w) with
      dies := [(0, { mg := { world := 1, fwin := [(0, { lo := 0x5E00000000000000#64, hi := 0, lost := true })] },
                     dm := { tlb := [⟨0, 0x1000000000 / 2 ^ 30, 30, 2 ^ 51, 0x0F, 0⟩] } })],
      ctxs := [(1, { dies := [0], asctl := 1, sw := .stopped, switch := some w, savebase := if fits then 0x100 else 0 })] }
    (s.ctx 0 1).line = none ∧ unitHeld s 0 1 (.image false) = false ∧ tSaved w s fits = true := by
  intro fits
  cases fits <;> decide +kernel

/-- A context with perhaps a line, and a debug window of its number on the group at core 0, slot 0, of a die that HYPID gives to a host's second port. -/
def tDx (l : Option Line) : Ctx := { dies := [0], asctl := 1, stopbase := 0x800001, line := l }
def tSD (host : Bool) (sel : DWord) (d : DbgSt) (l : Option Line) : State :=
  { tS { tG with dbg := d } with
    ctxs := [(0, tDx l)],
    dies := [(0, { cycle := 4096, mg := { hosten := host, hypPbr := 0, hypPort := 1, dbg := [(0, { sel := sel, data := 0x1004 })] }, dm := { tlb := [⟨0, 0, 30, 0, 0x0F, 0⟩] } })] }

/-- StopsAndDebug: a line on its way; a unit that has stopped at its bound, its record to be written; a die whose records are all written, before the delivery. -/
theorem wit_StopsAndDebug :
    (∀ l, (tSD true 0 .run l).ctx? 0 0 = some (tDx l)) ∧
    (let s := tSD true 0 .run (some { since := some 0 })
     stopArea s 0 0 = some 0 ∧ unitOk (.mau 1) = true ∧ (4096#32).toNat ≤ unitSkid (.mau 1) ∧ 0 + (4096#32).toNat ≤ (s.die 0).cycle ∧ areaTaken s 0 0 = false ∧
       unitHeld s 0 0 (.stopRec (.mau 1)) = false ∧ stoppedFrom s 0 0 (.mau 1) ≤ 0 + (4096#32).toNat ∧
       (match unitWrite s 0 0 (((s.ctx 0 0).stopbase &&& ~~~0x7FFFFF#64) + BitVec.ofNat 64 (65536 * 0 + 64 * unitSlot (.mau 1)))
         (stopBytes s 0 0 (.mau 1) 0 4096 4096) with | (.ok _, _) => true | _ => false) = true) ∧
    (let s := tSD true 0 .run (some { since := some 0, done := stopUnits })
     ∀ d ∈ (tDx none).dies, dieStopped s d 0 = true) := by
  refine ⟨fun l => rfl, by decide +kernel, fun d hd => ?_⟩
  obtain rfl := List.mem_singleton.mp hd
  have h : stopUnits.all (fun u => stopUnits.contains u) = true := List.all_eq_true.mpr (fun u h => List.contains_iff_mem.mpr h)
  have e : ((tSD true 0 .run (some { since := some 0, done := stopUnits })).ctx 0 0).line = some { since := some 0, done := stopUnits } := rfl
  simp only [dieStopped, e, h, Bool.or_true, Bool.and_true, Option.isSome]

/-- StopsAndDebug: a group that is stopped, one that runs, none; a host that HYPID names and one that it does not, the last window; the last direct register, a
deep register past the declaration, a program counter. -/
theorem wit_StopsAndDebug_debug :
    (let s := tSD true 0 .run none
     0 < s.fit.dies ∧ (s.die 0).mg.retired = false ∧ isHyp (s.die 0).mg (.host 0 1) = true ∧ isHyp (s.die 0).mg (.host 0 0) = false ∧
       blockAnswers s (0xA0000 + 64 * 63 + 0x18) = true ∧ blockAnswers ({ s with pkg := { hstate := 7 } }) 0xA0000 = false) ∧
    (∀ host d, ((tSD host 0 d none).die 0).mg.hosten = host ∧ dbgTarget (tSD host 0 d none) 0 0 = some (5, { tG with dbg := d }) ∧
      FMap.get? (tSD host 0 d none).groups 5 = some { tG with dbg := d }) ∧
    dbgTarget (tSD true 1 .run none) 0 0 = none ∧
    (dbgSel (31 * 16384) tG = .reg (.v 31 0) ∧ dbgSel (127 * 16384) tG = .reg (.v 127 0) ∧ dbgSel (32 * 16384) tG = .bad ∧
      dbgSel (2 ^ 26 + 16 * 16384) tG = .bad ∧ dbgSel (3 * 2 ^ 26 + 31 * 2 ^ 21) tG = .pc 31 ∧ (Dst.v 127 0).sink = true ∧ (Dst.v 31 0).sink = false ∧
      tG.outstanding (.v 31 0) = false ∧ (tP .waiting [some (.v 31 0)]).outstanding (.v 31 0) = true ∧ (0x1004#64).toNat % 4 = 0) := by
  refine ⟨by decide +kernel, fun host d => ?_, by decide +kernel, by decide +kernel⟩
  cases host <;> cases d <;> exact ⟨rfl, by decide +kernel, rfl⟩

/-- PortEvents: the last bytes of a line of a die that lets the host in, and of one that does not; an atomic's word. -/
theorem wit_PortEvents : ∀ host : Bool,
    let s := { tS tG with dies := [(0, { mg := { hosten := host } })] }
    lineDie s 0x207C 4 = some 0 ∧ (s.die 0).dm.expSnoop = [] ∧ NoFailures s ∧ NoDirtyCopy s 0x207C ∧ HasWay s 0 0x207C ∧ hostMay s 0 = host ∧ atomSize false = 4 ∧
      0x207C % 4 = 0 ∧ poisonedLine s 0 0x207C = false := by
  intro host
  refine ⟨?_, rfl, ⟨rfl, rfl, rfl⟩, noDirty_of rfl _, (by decide : 0 < 16), ?_, rfl, rfl, ?_⟩ <;> cases host <;> decide +kernel

/-- PortEvents: a fabric line whose home is found, a group that waits at it; an entry that a port carries, for a context that has used it, no packet on its way,
and a session that the port carries. -/
theorem wit_PortEvents_port :
    let e : Fwin := { lo := 0x5E00000000000000, hi := 0xB0000, mask := 1 }
    let x : Session := { spec := { die := 0, tport := 0, sender := true, ctx := 0, prio := 0, slots := 0, via := 11 }, manifestKey := 1, stationKey := 0 }
    let g := { tG with wait := .waitge true (2 ^ 51 + 128) 1 }
    let s := { tS g with pkg := { sessions := [(3, x)] }, dies := [(0, { mg := { fwin := [(0, e)] } })] }
    regionOf s.fit (2 ^ 51 + 128) = .fabric 128 ∧ (homeKey s 0 (2 ^ 51 + 128)).isSome = true ∧ FMap.get? s.groups 5 = some g ∧ s.fit.ports.contains 11 = true ∧
      s.pkg.packets = [] ∧ FMap.get? s.pkg.sessions 3 = some x ∧ x.spec.sender = true ∧ x.spec.peer = none ∧ x.spec.via = 11 ∧
      FMap.get? (s.die 0).mg.fwin 0 = some e ∧ bits e.lo.toNat 63 62 = 1 ∧ bits e.hi.toNat 19 16 = 11 ∧ e.lost = false ∧ e.mask.getLsbD 0 = true ∧
      (s.ctx? 0 0).isSome = true ∧ (∀ y ∈ (tS tG).groups, ∀ a v, y.2.wait ≠ .waitge true a v) := by
  refine ⟨?_, ?_, rfl, ?_, rfl, rfl, rfl, rfl, rfl, rfl, ?_, ?_, rfl, ?_, rfl, ?_⟩
  rotate_right
  · intro y h a v
    obtain rfl := List.mem_singleton.mp h
    intro h; cases h
  all_goals decide +kernel

/-- A state of the fitting with four dies, whose die 0 is in world 1. -/
def tSm (d : Die) : State := { tS tG with fit := .m, pkg := { hstate := 4 }, dies := [(0, { d with mg := { d.mg with world := 1 } })] }

/-- GrantsAndLeases: the last extent, free, and one that is granted, with a requester that may write, one that may not and one that it does not name. -/
theorem wit_GrantsAndLeases :
    (let s := tSm {}
     s.fit ≠ .c ∧ helmUp s 0 = true ∧ FMap.get? (s.die 0).dm.extents 1151 = none ∧ (s.die 0).mg.world = 1) ∧
    (∀ c : Bool, let e : Extent := ⟨1, [(7, true), (8, false)], c⟩
     let s := tSm { dm := { extents := [(0, e)] } }
     FMap.get? (s.die 0).dm.extents 0 = some e ∧ lineDie s 0x207C 4 = some 0 ∧ extOf s 0 0x207C = some e ∧ reqIndex e 7 = some 0 ∧ reqIndex e 8 = some 1 ∧
       reqIndex e 9 = none ∧ e.reqs[0]? = some (7, true) ∧ e.reqs[1]? = some (8, false) ∧ 0x207C % atomSize false = 0 ∧ poisonedLine s 0 0x207C = false ∧
       (s.die 0).dm.expSnoop = [] ∧ NoFailures s ∧ NoDirtyCopy s 0x207C ∧ HasWay s 0 0x207C) := by
  refine ⟨?_, fun c => ⟨rfl, ?_, ?_, rfl, rfl, rfl, rfl, rfl, rfl, ?_, rfl, ⟨rfl, rfl, rfl⟩, noDirty_of rfl _, (by decide : 0 < 16)⟩⟩
  · decide +kernel
  all_goals cases c <;> decide +kernel

/-- GrantsAndLeases: a range of a station that is admitted and one that is not, shared and lent. -/
theorem wit_GrantsAndLeases_station : ∀ lease : Bool,
    let e : Adm := { spec := ⟨0, 3, 1, lease⟩ }
    let s := { tS tG with dies := [(0, { mg := { world := 1 } }), (1, { mg := { world := 1, adm := [(2, e)] } })] }
    s.fit.stations.contains 1 = true ∧ (s.die 1).mg.stnen.getLsbD 3 = true ∧ lineDie s 0x207C 4 = some 0 ∧ (s.die 0).dm.expSnoop = [] ∧ NoFailures s ∧ NoDirtyCopy s 0x207C ∧ HasWay s 0 0x207C ∧
      (s.die 1).mg.world ≠ 0 ∧ gangwayOk s 1 0 = true ∧ admitted s 1 3 1 0x207C 4 = some e ∧ (admitted s 1 3 2 0x207C 4).isSome = false ∧
      poisonedLine s 0 0x207C = false := by
  intro lease
  refine ⟨?_, ?_, ?_, rfl, ⟨rfl, rfl, rfl⟩, noDirty_of rfl _, (by decide : 0 < 16), ?_, ?_, ?_, ?_, ?_⟩ <;> cases lease <;> decide +kernel

/-- GrantsAndLeases: a session to set up; a berth that is ACTIVE, one whose drain has ended; a lease to revoke, and one whose time is over. -/
theorem wit_GrantsAndLeases_ends :
    helmUp (tSm {}) 0 = true ∧ NoFailures (tSm {}) ∧
    (let e : Adm := { spec := ⟨0, 3, 1, true⟩ }
     let s := tSm { cycle := 150000000, mg := { adm := [(2, e), (3, { e with revoking := true })] } }
     FMap.get? (s.die 0).mg.adm 2 = some e ∧ e.spec.lease = true ∧ e.revoking = false ∧
       FMap.get? (s.die 0).mg.adm 3 = some { e with revoking := true } ∧ 0 + 150000000 ≤ (s.die 0).cycle) ∧
    (let s := { tS tG with dies := [(0, { cycle := 9, mg := { moor := [(255, { lo := 0x4000000000000000 }), (0, { drainEnd := some 9 })] } })] }
     berthState s 0 255 = 1 ∧ NoFailures s ∧ berthState s 0 1 ≠ 1 ∧ (FMap.getD (s.die 0).mg.moor 0 {}).drainEnd = some 9 ∧ 9 ≤ (s.die 0).cycle) := by
  refine ⟨?_, ⟨rfl, rfl, rfl⟩, ?_, ?_, ⟨rfl, rfl, rfl⟩, ?_, ?_, ?_⟩ <;> decide +kernel

/-- GrantsAndLeases: a written line of the last berth, at a place that may be written while the berth is ACTIVE and while it drains. -/
theorem wit_GrantsAndLeases_berth :
    let x : L2Line := { line := 2 ^ 41 + 255 * 2 ^ 23, bytes := [(127, 9)], dirty := [127] }
    let s := fun (lo : DWord) => { tS tG with dies := [(0, { mg := { world := 1, moor := [(255, { lo := lo })] }, dm := { l2 := [x] } })] }
    berthState (s 0x4000000000000000) 0 255 = 1 ∧ x ∈ ((s 0x4000000000000000).die 0).dm.l2 ∧ ofBerth .c 255 x = true ∧ 127 ∈ x.dirty ∧
    placeErr (s 0x4000000000000000) 0 (x.line * 128) = none ∧ placeErr (s 0x8000000000000000) 0 (x.line * 128) = none := by decide +kernel

/-- ManagementWrites: each requester and state that a write asks for; values of each form; a descriptor that may be bound; a berth and a window that may be written. -/
theorem wit_ManagementWrites :
    (∀ n : Nat, let s := { tS tG with pkg := { hstate := n }, dies := [(0, { mg := { hypPbr := 0, hypPort := 1 } })] }
     0 < s.fit.dies ∧ (s.die 0).mg.retired = false ∧ isHyp (s.die 0).mg (.host 0 1) = true ∧ isHyp (s.die 0).mg (.host 0 0) = false ∧
       mayWrite (s.die 0).mg .deck = true ∧ mayWrite (s.die 0).mg (.host 5 0) = false ∧ s.pkg.hstate = n) ∧
    (ownEvent 0xF00020 1 = false ∧ ownEvent 0 1 = false ∧ stateOk ({ tS tG with pkg := { hstate := 2 } }) 0xF00028 = true ∧ stateOk (tS tG) 0xF00028 = false ∧
      stateOk (tS tG) 0 = true ∧ (0x4000000000000000#64).toNat / 2 ^ 62 = 1 ∧ (0x8000000000000000#64).toNat / 2 ^ 62 = 2 ∧
      (0x8000000000000000#64).getLsbD 63 = true ∧ (0x80000000000001FF#64).toNat % 256 = 255 ∧ (0x80000000000001FF#64).toNat / 256 % 256 = 1) ∧
    (let s := { tS tG with
       ctxs := [], pkg := { hstate := 4, asidmap := [(0, ⟨true, 0⟩)] }, dies := [(0, { mg := { world := 1 } })],
       mem := { bytes := [(0x2003, 0x40), (0x201A, 1), (0x40000, 1), (0x40001, 0x10), (0x40002, 4), (0x41000, 1), (0x41001, 0x20), (0x41002, 4), (0x42000, 0x5F)] } }
     let bind := fun (pa : Nat) (ok : Bool) =>
       let f := homeRead s 0 pa 64
       let u := f.2.carry 0 pa 64 false
       let b := homeBytes u 0 pa 64
       let q := linesInC u 0 0 b
       placeErr s 0 pa = none ∧ f.1 = false ∧ poisonedLine q.2 0 pa = false ∧ q.1 = ok ∧ bindOk q.2 0 0 b = ok
     bind 0x2000 true ∧ bind 0x2040 false ∧ placeErr s 0 0x4000000000000 = some .page ∧ tablesOpen s = true ∧ (∀ k x, k < 64 → s.ctx? 0 k = some x → 0 ∈ x.dies)) ∧
    (let x : Session := { spec := { die := 0, tport := 0, sender := true, ctx := 0, prio := 0, slots := 0, peer := some (3, 1) }, manifestKey := 1, stationKey := 0 }
     let s := { tS tG with pkg := { sessions := [(3, x)] } }
     attested s 0 3 1 = true ∧ attested s 0 3 2 = false) ∧
    (0xA0FF8 % 8 + 8 ≤ 8 ∧ 0xA0FFC % 8 + 4 ≤ 8 ∧ 0xA0FFC < 0xA1000 ∧ 0xF0003F % 8 + 1 ≤ 8 ∧ 0xF0003F < 0x1000000) ∧
    (let s := { tS tG with dies := [(0, { mg := { world := 1 } }), (1, { mg := { world := 1 } })] }
     s.fit = .c ∧ moorOk s 0 0x10000 = true ∧ moorOk s 0 0x20000 = false ∧ (0x4000000000000000#64 : DWord) &&& ~~~moorLoMask = 0 ∧ (0x5E00000000000000#64 : DWord) &&& ~~~fwinLoMask = 0 ∧
       fwinBad s (0x5E00000000000000#64 &&& fwinLoMask).toNat 0xB0000 = false ∧ (0xB0000#64 : DWord) &&& ~~~fwinHiMask = 0 ∧ asidUsed s 1 = false ∧
       asidUsed s 0 = true ∧ ∃ d b o, regionOf s.fit (3 * 2 ^ 30) = .package d b o) := by
  refine ⟨fun n => ⟨(by decide : 0 < Fitting.c.dies), rfl, rfl, rfl, rfl, rfl, rfl⟩, by decide +kernel, ⟨?_, ?_, ?_, ?_, ?_⟩, ?_, by decide +kernel, ?_, ?_, ?_, ?_, ?_, ?_, ?_, ?_, ?_, 0, 0, 3 * 2 ^ 30, ?_⟩
  all_goals first
    | decide +kernel
    | (intro k x _ h; cases h)

/-- PowerAndFailures: a record of the last latch, a snapshot that is due; a package that may start, a version with as many fuses as it asks, and one too old, power
cut at the last fuse's first half; a
core that may fail, a die with a spare, the last port and another. -/
theorem wit_PowerAndFailures :
    (let s := { tS tG with pkg := { hstate := 4 }, dies := [(0, { cycle := 2 ^ 30, mg := { final := some {} } })] }
     0 < s.fit.dies ∧ tablesOpen s = true ∧ (s.die 0).mg.final = some {} ∧ (s.die 0).mg.lastSnap + 2 ^ 30 ≤ (s.die 0).cycle) ∧
    (let fs := (true, false) :: (true, true) :: List.replicate 62 (false, false)
     fuseCount (completeFuses fs) ≤ 2 ∧ 1 < fuseCount (completeFuses fs) ∧ fuseCount fs < 64 ∧ fs.length = 64 ∧
       (let b : BootRun := { version := 64, failing := none, cut := some (63, true) }
        b.cut = some (63, true) ∧ fuseCount (completeFuses fs) ≤ 63 ∧ 63 < b.version)) ∧
    (State.reset.pkg.hstate = 0 ∧ (tS tG).fit.dies = 12 ∧ ((tS tG).die 0).mg.failedCores.length < ((tS tG).die 0).mg.spares ∧
      lastPort (tS tG) 1 = false ∧ lastPort ({ tS tG with dies := [(11, { mg := { retired := true } })] }) 0 = true ∧ coreContexts (tS tG) 0 0 = [0]) := by
  refine ⟨?_, ?_, ?_⟩ <;> decide +kernel

/-- EncodingRoundTrip, StepRunsDecoded: a well-formed instruction with its largest fields. -/
theorem wit_EncodingRoundTrip : (Instr.addB32 127 127 127).wf = true ∧ (Instr.fields ⟨true, 7⟩ (.addB32 127 127 127)).isSome = true := by decide +kernel

/-- MemoryFormKept: the state after reset, and one whose memory lists bytes. -/
theorem wit_MemoryFormKept : Memory.wf State.reset.mem.bytes = true ∧ Memory.wf (tSLn 1).mem.bytes = true ∧ Memory.wf (tSLn 1).mem.far = true ∧ Memory.wf [(1, 0)] = false := by decide +kernel

/-! ## Single steps: results worked out by hand from the rules -/

/-- v1 of lane 31 after one instruction, from v1, v2 and v3 of that lane. -/
def tRun (i : Instr) (d a b : Word) (ta : Bool := false) : Option Reg :=
  match exec i (tS { tG with v := [(63, ⟨d, false⟩), (95, ⟨a, ta⟩), (127, ⟨b, false⟩)] }) with
  | .next t => (FMap.get? t.groups 5).map (fun g => g.readV 1 31)
  | _ => none

/-- R87, R88: wraps, signs, shifts of the register's width, the funnel, fields that end at bit 31. -/
theorem test_lane_integers :
    tRun (.addB32 1 2 3) 0 0xFFFFFFFF 2 = some ⟨1, false⟩ ∧ tRun (.subB32 1 2 3) 0 0 1 = some ⟨0xFFFFFFFF, false⟩ ∧
    tRun (.mulB32 1 2 3) 0 0x10001 0x10001 = some ⟨0x20001, false⟩ ∧ tRun (.macB32 1 2 3) 5 3 0xFFFFFFFF = some ⟨2, false⟩ ∧
    tRun (.shl 1 2 3) 0 1 31 = some ⟨0x80000000, false⟩ ∧ tRun (.shl 1 2 3) 0 1 32 = some ⟨0, false⟩ ∧
    tRun (.shrS32 1 2 3) 0 0x80000000 33 = some ⟨0xFFFFFFFF, false⟩ ∧ tRun (.fsh 1 2 3) 0x80000001 3 33 = some ⟨0xC0000000, false⟩ ∧
    tRun (.bfe 1 2 3) 0 0xF0000000 0x1201C = some ⟨0xFFFFFFFF, false⟩ ∧ tRun (.bfi 1 2 3) 0xAAAAAAAA 0xF 0x41C = some ⟨0xFAAAAAAA, false⟩ ∧
    tRun (.popc 1 2) 0 0xF000000F 0 = some ⟨8, false⟩ ∧ tRun (.clz 1 2) 0 0 0 = some ⟨32, false⟩ := by decide +kernel

/-- R24, R64-R66: a tag passes from a source to the result; a sum rounds to nearest even; the difference of equals is +0. -/
theorem test_lane_floats :
    tRun (.addB32 1 2 3) 0 1 1 true = some ⟨2, true⟩ ∧ tRun (.faddF32 1 2 3) 0 0x3F800000 0x33800000 = some ⟨0x3F800000, false⟩ ∧
    tRun (.faddF32 1 2 3) 0 0x3F800001 0x33800000 = some ⟨0x3F800002, false⟩ ∧ tRun (.faddF32 1 2 3) 0 0x3F800000 0xBF800000 = some ⟨0, false⟩ := by decide +kernel

/-- R49, R216: a word placed where the next step fetches is the instruction that the step runs, after reset, and every lane goes on behind it. -/
theorem test_step_runs_word :
    (∀ w n, (w, n) ∈ ([(0xBDE00000, 32), (0x00E0C082, 32), (0x88E28001, 32)] : List (Nat × Nat)) →
      (match step (State.reset.withFetchWord n w) with
       | .next t => t.groups.map (fun e => (e.2.lane 31).pc) == [if w = 0x88E28001 then 8 else 4]
       | _ => false) = true) := by
  intro w n h
  simp only [List.mem_cons, Prod.mk.injEq, List.not_mem_nil, or_false] at h
  obtain ⟨rfl, rfl⟩ | ⟨rfl, rfl⟩ | ⟨rfl, rfl⟩ := h <;> decide +kernel

/-- StepRunsDecoded: a word, a SLIT, a word that is none, at the head of a group that may issue, its turn come; an event at the head of the agenda; a word that
the core's instruction cache does not hold, at an address that translates. -/
theorem wit_StepRunsDecoded :
    (∀ w : Nat, w = 0xBDE00000 ∨ w = 0x88E28001 ∨ w = 0x8EE00000 →
      let s := State.reset.withFetchWord 32 w
      let s0 : State := { tick s with model := { (tick s).model with agenda := [] } }
      s.model.agenda = [.issue 2] ∧ (match FMap.get? s0.groups 2 with
        | some g0 =>
          let c := choose (enterActive s0 g0)
          canIssue s0 g0 && c.1 == 0 &&
            (match fetchFor (s0.putGroup 2 c.2) 2 c.2 c.1 c.1 with
             | (.word x, u) => x.toNat == w && wordIsSlit x == (w == 0x88E28001) &&
               (match fetchFor u 2 c.2 c.1 (c.1 + 4) with
                | (.word lit, v) =>
                  (match decode x lit with
                   | .ok (h, i) =>
                     let z := fillBuffers (if wordIsSlit x then v else u) 2 c.2 c.1 (if wordIsSlit x then [(c.1, x), (c.1 + 4, lit)] else [(c.1, x)])
                     w != 0x8EE00000 && i.regsOk c.2.nregs && itsTurn s0 2 c.2 (.instr h i x) &&
                       !pendingRead (beginIssue z 2 c.2 x (interval i)) 2 h i (c.2.readyAt c.1)
                   | .error _ => w == 0x8EE00000 && itsTurn s0 2 c.2 (.unassigned x))
                | _ => false)
             | _ => false)
        | none => false) = true) ∧
    (let e := Ev.dbgcmdInvalid 0 0 0 .deck
     let s := { tS tG with model := { agenda := [.event e] } }
     (match exec e.instr (withEvent { tick s with model := { (tick s).model with agenda := [] } } e) with | .next _ => true | _ => false) = true) ∧
    (let s := tS tG
     canonical 0x1000 = true ∧ icacheFind (s.core 0 0) 0 (s.gen 0) 0 0x1000 = none ∧ (match translate s 0 0 0 0 .fetch 0x1000 { gid := some 5 } with
       | (.ok x, u) => (accessErr u 0 x.pa 4 false).isNone && !asgenOpen u 0 && isLocal u 0 x.pa && (copyFind u 0 (lineOf x.pa)).isNone
       | _ => false) = true) := by
  refine ⟨fun w h => ?_, by decide +kernel, by decide +kernel⟩
  obtain rfl | rfl | rfl := h <;> decide +kernel

/-- ResetState: what the rules give of the state after reset. -/
theorem test_reset : State.reset.fit.dies = 12 ∧ State.reset.pkg.hstate = 0 ∧ (State.reset.die 11).limit = 7 ∧ State.reset.groups = [] ∧ State.reset.ctxs = [] := by
  decide +kernel
end Sys2Proof.Tests
end

section
/-! The lane integer and bit-field instructions (R87-R92): what each bit helper of the model gives, then the statement shape by shape. -/

namespace Sys2Proof.Machine

open Sys2Proof.Safety

/-! ## Words as integers -/

/-- A sign-filled shift divides, rounding down. -/
theorem sshiftRight_eq_ofInt_div {n : Nat} (a : BitVec n) (k : Nat) : a.sshiftRight k = BitVec.ofInt n (a.toInt / 2 ^ k) := by
  rw [BitVec.sshiftRight, Int.shiftRight_eq_div_pow]
  norm_cast

/-- What is left of a word divided by 2^31 or more is its sign. -/
theorem toInt_div_two_pow_sign (a : Word) {k : Nat} (hk : 31 ≤ k) : a.toInt / 2 ^ k = if a.toInt < 0 then -1 else 0 := by
  have hlo := a.le_toInt
  have hhi := a.toInt_lt
  have hpow : (2 : Int) ^ 31 ≤ 2 ^ k := pow_le_pow_right₀ (by decide) hk
  split
  case isTrue hneg => exact Int.ediv_eq_neg_one_of_neg_of_le hneg (by omega)
  case isFalse => exact Int.ediv_eq_zero_of_lt (by omega) (by omega)

theorem shrS_eq (a : Word) (k : Nat) : shrS a k = BitVec.ofInt 32 (a.toInt / 2 ^ min k 32) := by
  rw [shrS, sshiftRight_eq_ofInt_div]
  by_cases hk : k < 32
  · rw [min_eq_left (by omega), min_eq_left (by omega)]
  · rw [toInt_div_two_pow_sign a (k := min k 31) (by omega), toInt_div_two_pow_sign a (k := min k 32) (by omega)]

/-- The smaller integer of two words. -/
theorem minS_eq {n : Nat} (a b : BitVec n) : minS a b = if a.toInt ≤ b.toInt then a else b := by
  rw [minS, BitVec.slt_eq_decide]
  by_cases h : a.toInt ≤ b.toInt
  · simp [h]
  · simp [h, not_le.1 h]

/-- The greater integer of two words; of two equal ones the word that both are. -/
theorem maxS_eq {n : Nat} (a b : BitVec n) : maxS a b = if a.toInt ≤ b.toInt then b else a := by
  rw [maxS, BitVec.slt_eq_decide]
  rcases lt_trichotomy a.toInt b.toInt with h | h | h
  · simp [h, h.le]
  · simp [BitVec.toInt_inj.1 h]
  · simp [h.not_ge, h.not_gt]

theorem minN_eq {n : Nat} (a b : BitVec n) : minN a b = if a.toNat ≤ b.toNat then a else b := by
  rw [minN, BitVec.ult_eq_decide]
  by_cases h : a.toNat ≤ b.toNat
  · simp [h]
  · simp [h, not_le.1 h]

theorem maxN_eq {n : Nat} (a b : BitVec n) : maxN a b = if a.toNat ≤ b.toNat then b else a := by
  rw [maxN, BitVec.ult_eq_decide]
  rcases lt_trichotomy a.toNat b.toNat with h | h | h
  · simp [h, h.le]
  · simp [BitVec.toNat_inj.1 h]
  · simp [h.not_ge, h.not_gt]

theorem satS32_eq (x : Int) : satS32 x = BitVec.ofInt 32 (max (-2 ^ 31) (min (2 ^ 31 - 1) x)) := by
  unfold satS32
  split
  · rw [min_eq_left (by omega), max_eq_right (by decide)]; rfl
  · rw [min_eq_right (by omega)]
    split
    · rw [max_eq_left (by omega)]; rfl
    · rw [max_eq_right (by omega)]

theorem neg_ite_sign_eq_natAbs (a : Word) : (if a.getLsbD 31 then -a else a) = BitVec.ofNat 32 a.toInt.natAbs := by
  have hmsb : a.msb = a.getLsbD 31 := rfl
  rw [← hmsb, BitVec.msb_eq_toInt, ← BitVec.ofInt_natCast]
  by_cases h : a.toInt < 0
  · rw [Int.ofNat_natAbs_of_nonpos h.le]; simp [h, BitVec.ofInt_neg]
  · rw [Int.natAbs_of_nonneg (not_lt.1 h)]; simp [h]

/-! ## Halves of a pair -/

/-- The high half of a 64-bit value, from the signed integer it stands for. -/
theorem highHalf_eq_ofInt (x : DWord) : x.extractLsb' 32 32 = BitVec.ofInt 32 (x.toInt / 2 ^ 32) := by
  apply BitVec.eq_of_toNat_eq
  rw [BitVec.extractLsb'_toNat, BitVec.toNat_ofInt, BitVec.toInt_eq_toNat_cond, Nat.shiftRight_eq_div_pow]
  split <;> omega

theorem mulHighS_eq (a b : Word) : mulHighS a b = BitVec.ofInt 32 (a.toInt * b.toInt / 2 ^ 32) := by
  have hlo : -2 ^ 62 ≤ a.toInt * b.toInt := BitVec.le_toInt_mul_toInt
  have hhi : a.toInt * b.toInt ≤ 2 ^ 62 := BitVec.toInt_mul_toInt_le
  rw [mulHighS, highHalf_eq_ofInt, BitVec.toInt_mul, BitVec.toInt_signExtend_of_le (by decide), BitVec.toInt_signExtend_of_le (by decide),
    Int.bmod_eq_of_le (by omega) (by omega)]

theorem mulHighN_eq (a b : Word) : mulHighN a b = BitVec.ofNat 32 (a.toNat * b.toNat / 2 ^ 32) := by
  have h : a.toNat * b.toNat < 2 ^ 64 := (Nat.mul_lt_mul'' a.isLt b.isLt).trans_eq (by decide)
  apply BitVec.eq_of_toNat_eq
  rw [mulHighN, BitVec.extractLsb'_toNat, BitVec.toNat_mul, BitVec.toNat_setWidth_of_le (by decide), BitVec.toNat_setWidth_of_le (by decide),
    Nat.mod_eq_of_lt h, Nat.shiftRight_eq_div_pow, BitVec.toNat_ofNat]

/-- The word pair of a funnel shift, put together by a shift. -/
theorem append_eq_shift_or (a d : Word) : a ++ d = a.setWidth 64 <<< 32 ||| d.setWidth 64 := by
  rw [BitVec.append_def, BitVec.shiftLeftZeroExtend_eq]; rfl

/-! ## Bits of a field -/

/-- The length of a field as far as it lies in the word (R88). -/
def fieldWidth (b : Word) : Nat := min (fieldLen b) (32 - fieldPos b)

theorem fieldWidth_le (b : Word) : fieldWidth b ≤ 32 := by
  rw [fieldWidth]; omega

theorem fieldWidth_eq_zero (b : Word) : fieldWidth b = 0 ↔ fieldLen b = 0 ∨ fieldPos b ≥ 32 := by
  rw [fieldWidth]; omega

/-- The low bits of a word, as many as a field has. -/
def lowOnes (w : Nat) : Word := shrN 0xFFFFFFFF#32 (32 - w)

theorem lowOnes_bit (w i : Nat) (hi : i < 32) : (lowOnes w).getLsbD i = decide (i < w) := by
  have hones : 0xFFFFFFFF#32 = BitVec.allOnes 32 := rfl
  rw [lowOnes, hones, shrN]
  split
  · rw [BitVec.getLsbD_ushiftRight, BitVec.getLsbD_allOnes]
    exact decide_eq_decide.2 (by omega)
  · have hw : ¬ i < w := by omega
    simp [hw]

theorem highOnes_bit (w i : Nat) (hi : i < 32) : (shlW 0xFFFFFFFF#32 w).getLsbD i = decide (w ≤ i) := by
  have hones : 0xFFFFFFFF#32 = BitVec.allOnes 32 := rfl
  rw [hones, shlW]
  split
  · rw [BitVec.getLsbD_shiftLeft, BitVec.getLsbD_allOnes]
    simp [hi, Nat.sub_lt_of_lt hi, ← decide_not]
  · have hw : ¬ w ≤ i := by omega
    simp [hw]

/-- BFE by the field's width (R88). -/
theorem bfe_eq (a b : Word) (sx : Bool) :
    bfe a b sx = if fieldLen b = 0 ∨ fieldPos b ≥ 32 then 0 else
      let f := (a >>> fieldPos b) &&& lowOnes (fieldWidth b)
      if sx && f.getLsbD (fieldWidth b - 1) then f ||| shlW 0xFFFFFFFF#32 (fieldWidth b) else f := rfl

/-- BFI by the field's width (R88). -/
theorem bfi_eq (d a b : Word) :
    bfi d a b = if fieldLen b ≠ 0 ∧ fieldPos b < 32 then
      (d &&& ~~~(lowOnes (fieldWidth b) <<< fieldPos b)) ||| ((a <<< fieldPos b) &&& (lowOnes (fieldWidth b) <<< fieldPos b)) else d := rfl

/-- Bit i of a BFE result is bit pos + i of the source below the field's width, and the field's top bit or zero from there on. -/
theorem bfe_bit (a b : Word) (sx : Bool) (i : Nat) (hi : i < 32) :
    (bfe a b sx).getLsbD i = if fieldWidth b = 0 then false else
      if i < fieldWidth b then a.getLsbD (fieldPos b + i) else sx && a.getLsbD (fieldPos b + fieldWidth b - 1) := by
  rw [bfe_eq]
  simp only [← fieldWidth_eq_zero]
  by_cases hw : fieldWidth b = 0
  · simp [hw]
  · have h32 : fieldWidth b ≤ 32 := fieldWidth_le b
    have field : ∀ j, j < 32 → ((a >>> fieldPos b) &&& lowOnes (fieldWidth b)).getLsbD j = (a.getLsbD (fieldPos b + j) && decide (j < fieldWidth b)) :=
      fun j hj => by rw [BitVec.getLsbD_and, BitVec.getLsbD_ushiftRight, lowOnes_bit _ _ hj]
    have top : fieldPos b + (fieldWidth b - 1) = fieldPos b + fieldWidth b - 1 := by omega
    have last : fieldWidth b - 1 < fieldWidth b := by omega
    rw [if_neg hw, if_neg hw, field _ (by omega), top, decide_eq_true last, Bool.and_true]
    by_cases hs : (sx && a.getLsbD (fieldPos b + fieldWidth b - 1)) = true
    · rw [if_pos hs, BitVec.getLsbD_or, field i hi, highOnes_bit _ _ hi, hs]
      by_cases hiw : i < fieldWidth b
      · simp [hiw]
      · simp [hiw, not_lt.1 hiw]
    · rw [if_neg hs, field i hi, Bool.eq_false_of_not_eq_true hs]
      by_cases hiw : i < fieldWidth b <;> simp [hiw]

/-- Bit i of a BFI result is bit i − pos of the source within the field, and the old bit outside it. -/
theorem bfi_bit (d a b : Word) (i : Nat) (hi : i < 32) :
    (bfi d a b).getLsbD i = if fieldPos b ≤ i ∧ i < fieldPos b + fieldWidth b then a.getLsbD (i - fieldPos b) else d.getLsbD i := by
  rw [bfi_eq]
  by_cases hf : fieldLen b ≠ 0 ∧ fieldPos b < 32
  · have mask : (lowOnes (fieldWidth b) <<< fieldPos b).getLsbD i = decide (fieldPos b ≤ i ∧ i < fieldPos b + fieldWidth b) := by
      rw [BitVec.getLsbD_shiftLeft, lowOnes_bit _ _ (by omega), Bool.eq_iff_iff]
      simp only [Bool.and_eq_true, Bool.not_eq_true', decide_eq_true_eq, decide_eq_false_iff_not]
      omega
    rw [if_pos hf, BitVec.getLsbD_or, BitVec.getLsbD_and, BitVec.getLsbD_and, BitVec.getLsbD_not, mask]
    by_cases hin : fieldPos b ≤ i ∧ i < fieldPos b + fieldWidth b
    · have hpos : ¬ i < fieldPos b := not_lt.2 hin.1
      simp [hin, hi, hpos, -BitVec.getLsbD_eq_getElem]
    · simp only [hin, decide_false, Bool.not_false, Bool.and_true, Bool.and_false, Bool.or_false, hi, decide_true, if_false]
  · have hw : fieldWidth b = 0 := (fieldWidth_eq_zero b).2 (by omega)
    rw [if_neg hf, hw, if_neg (by omega)]

/-! ## Counts and order of bits -/

theorem length_filter_eq_sum {α : Type} (p : α → Bool) (xs : List α) : (xs.filter p).length = (xs.map (fun x => (p x).toNat)).sum := by
  induction xs with
  | nil => rfl
  | cons x xs ih => cases h : p x <;> simp [h, ih, Nat.add_comm]

theorem popCount_eq_sum (a : Word) : (BitVec.ofNat 32 (popCount a)).toNat = ((List.range 32).map (fun i => (a.getLsbD i).toNat)).sum := by
  have h : popCount a ≤ 32 := (List.length_filter_le _ _).trans_eq List.length_range
  rw [BitVec.toNat_ofNat, Nat.mod_eq_of_lt (by omega), popCount, length_filter_eq_sum]

/-- The leading zero bits end at the first one bit from the top. -/
theorem leadingZeros_eq_findIdx (a : Word) : leadingZeros a = (List.range 32).findIdx (fun i => a.getLsbD (31 - i)) := by
  have e := List.takeWhile_eq_take_findIdx_not (xs := List.range 32) (p := fun i => !a.getLsbD (31 - i))
  rw [leadingZeros, e]
  simp only [Bool.not_not, List.length_take, List.length_range]
  exact min_eq_left (List.findIdx_le_length.trans_eq List.length_range)

theorem leadingZeros_le (a : Word) : leadingZeros a ≤ 32 := by
  rw [leadingZeros_eq_findIdx]
  exact List.findIdx_le_length.trans_eq List.length_range

theorem leadingZeros_zero (a : Word) (i : Nat) (hi : i < leadingZeros a) : a.getLsbD (31 - i) = false := by
  rw [leadingZeros_eq_findIdx] at hi
  simpa using List.not_of_lt_findIdx hi

theorem leadingZeros_one (a : Word) (h : leadingZeros a < 32) : a.getLsbD (31 - leadingZeros a) = true := by
  rw [leadingZeros_eq_findIdx] at h ⊢
  simpa using List.findIdx_getElem (w := h.trans_eq List.length_range.symm)

theorem clz_toNat (a : Word) : (BitVec.ofNat 32 (leadingZeros a)).toNat = leadingZeros a :=
  Nat.mod_eq_of_lt ((leadingZeros_le a).trans_lt (by decide))

/-- A reversed word is the mask of the mirrored places of its one bits. -/
theorem bitReverse_eq_maskOf (a : Word) : bitReverse a = maskOf ((lanesOf a).map (31 - ·)) := by
  rw [maskOf, List.foldl_map, lanesOf, List.foldl_filter]; rfl

theorem bitReverse_bit (a : Word) (i : Nat) (hi : i < 32) : (bitReverse a).getLsbD i = a.getLsbD (31 - i) := by
  rw [bitReverse_eq_maskOf, maskOf_bit _ _ hi, Bool.eq_iff_iff, decide_eq_true_eq, List.mem_map]
  constructor
  · rintro ⟨j, hj, rfl⟩
    obtain ⟨hj32, hbit⟩ := (mem_lanesOf a j).1 hj
    rwa [Nat.sub_sub_self (by omega)]
  · intro hbit
    exact ⟨31 - i, (mem_lanesOf a _).2 ⟨by omega, hbit⟩, by omega⟩

/-! ## The instructions -/

/-- An instruction whose meaning writes one register in each lane. -/
theorem exec_writes_one {s : State} {c : Issue} {g : Group} {i : Instr} {f : Group → Nat → List (Dst × Reg)} {d : Nat} {x : Nat → Reg}
    (hI : Issuing s c g) (h : exec i s = laneFixed s f) (hf : ∀ l, f g l = [(.v d l, x l)]) :
    ∃ t, exec i s = .next t ∧ WritesV s t c g (fun r l => if r = d then some (x l) else none) :=
  h ▸ laneFixed_one s c g hI f d x hf

/-- An instruction whose meaning writes a pair in each lane. -/
theorem exec_writes_pair {s : State} {c : Issue} {g : Group} {i : Instr} {f : Group → Nat → List (Dst × Reg)} {d : Nat} {x : Nat → DWord}
    {tag : Nat → Bool} (hI : Issuing s c g) (h : exec i s = laneFixed s f) (hf : ∀ l, f g l = pairWrites d l (x l) (tag l)) :
    ∃ t, exec i s = .next t ∧
      WritesV s t c g (fun r l => if r = d then some ⟨loHalf (x l), tag l⟩ else if r = d + 1 then some ⟨hiHalf (x l), tag l⟩ else none) :=
  h ▸ laneFixed_pair s c g hI f d x tag hf

/-- Settles O1: each form has its shape's result, its function of the operands being the bit helper of its meaning. -/
theorem laneIntegers : Obligations.LaneIntegers := by
  unfold Obligations.LaneIntegers
  refine ⟨⟨?threeSource, ?bitFields⟩, ⟨?oneSource, ?twoAddress⟩, ?immediates, ?specialValues⟩
  case threeSource =>
    refine ⟨lane3_result _ exec_addB32 (fun _ _ => rfl), lane3_result _ exec_subB32 (fun _ _ => rfl), ?addB64,
      lane3_result _ exec_mulB32 (fun _ _ => rfl), lane3_result _ exec_mulhS32 mulHighS_eq, lane3_result _ exec_mulhN32 mulHighN_eq,
      lane3d_result _ exec_macB32 (fun _ _ _ => rfl), lane3_result _ exec_minS32 minS_eq, lane3_result _ exec_maxS32 maxS_eq,
      lane3_result _ exec_and (fun _ _ => rfl), lane3_result _ exec_or (fun _ _ => rfl), lane3_result _ exec_xor (fun _ _ => rfl),
      lane3_result _ exec_shl (fun _ _ => rfl), lane3_result _ exec_shrN32 (fun _ _ => rfl),
      lane3_result _ exec_shrS32 (fun a b => shrS_eq a b.toNat), lane3d_result _ exec_fsh (fun d a b => by rw [append_eq_shift_or])⟩
    case addB64 => exact fun s c g d a b hI => exec_writes_pair hI (exec_addB64 d a b s) (fun _ => rfl)
  case bitFields =>
    exact ⟨_, _, _, lane3_result _ exec_bfe (fun _ _ => rfl), lane3d_result _ exec_bfi (fun _ _ _ => rfl), rfl,
      fun a b i hi => ⟨bfe_bit a b _ i hi, fun d => bfi_bit d a b i hi⟩⟩
  case oneSource =>
    refine ⟨lane2_result _ exec_mov (fun _ => rfl), fun n => lane2_result _ (fun d a => exec_shlImm d a n) (fun _ => rfl),
      lane2_result _ exec_not (fun _ => rfl), fun n => lane2_result _ (fun d a => exec_shrN32Imm d a n) (fun _ => rfl),
      lane2_result _ exec_neg (fun a => (BitVec.zero_sub a).symm),
      fun n => lane2_result _ (fun d a => exec_shrS32Imm d a n) (fun a => sshiftRight_eq_ofInt_div a n.toNat),
      lane2_result _ exec_absS32 neg_ite_sign_eq_natAbs, fun k => lane2_result _ (fun d a => exec_rotImm d a k) (fun _ => rfl),
      ?bitCounts, ?movSpecial⟩
    case bitCounts =>
      refine ⟨_, _, _, lane2_result _ exec_popc (fun _ => rfl), lane2_result _ exec_clz (fun _ => rfl), lane2_result _ exec_brev (fun _ => rfl),
        popCount_eq_sum, fun a => ?_, bitReverse_bit⟩
      rw [clz_toNat]
      exact ⟨leadingZeros_le a, leadingZeros_zero a, leadingZeros_one a⟩
    case movSpecial => exact fun s c g d j hI => exec_writes_one hI (exec_movSpecial d j s) (fun _ => rfl)
  case twoAddress =>
    refine ⟨lane2d_result _ exec_minN32 minN_eq, lane2d_result _ exec_maxN32 maxN_eq, lane2d_result _ exec_rot (fun _ _ => rfl),
      lane2d_result _ exec_rotr (fun _ _ => rfl), lane2d_result _ exec_addS32Sat (fun d a => satS32_eq (d.toInt + a.toInt)),
      lane2d_result _ exec_subS32Sat (fun d a => satS32_eq (d.toInt - a.toInt)), ?sel, ?selNot⟩
    case sel => exact fun s c g d a n hI => exec_writes_one hI (exec_sel d a n s) (fun _ => rfl)
    case selNot => exact fun s c g d a n hI => exec_writes_one hI (exec_selNot d a n s) (fun _ => rfl)
  case immediates =>
    refine ⟨?lea, ?leaX4, ?movi, ?addi⟩
    case lea => exact fun s c g d a k hI => exec_writes_pair hI (exec_lea d a k s) (fun _ => rfl)
    case leaX4 => exact fun s c g d a k hI => exec_writes_pair hI (exec_leaX4 d a k s) (fun _ => rfl)
    case movi => exact fun s c g d j hI => exec_writes_one hI (exec_movi d j s) (fun _ => rfl)
    case addi => exact fun s c g d j hI => exec_writes_one hI (exec_addi d j s) (fun _ => rfl)
  case specialValues =>
    intro s g l
    have strand : special s g 12 l = (g.lane l).strand := (BitVec.ofNat_toNat _ _).trans (BitVec.setWidth_eq _)
    exact ⟨rfl, rfl, rfl, rfl, rfl, rfl, rfl, rfl, rfl, rfl, rfl, rfl, strand, rfl, rfl, rfl⟩

end Sys2Proof.Machine
end

section
/-! The uniform instructions beside the integer forms (R118, R122-R126): what the check for tagged sources lets through and what it stops, then the
statement shape by shape. -/

namespace Sys2Proof.Machine

open Sys2Proof.Safety

/-! ## Tagged sources (R118) -/

/-- With no source tagged an instruction goes on. -/
theorem orPoison_clean (s : State) (c : Issue) {g : Group} {rs : List Nat} (k : Out) (h : ∀ r ∈ rs, (g.readS r).tag = false) :
    orPoison s c g rs k = k := by
  have none_tagged : rs.find? (fun r => (g.readS r).tag) = none := List.find?_eq_none.2 (fun r hr => by simp [h r hr])
  rw [orPoison, none_tagged]

/-- With a source tagged the group is stopped by POISON. -/
theorem orPoison_tagged {s : State} {c : Issue} {g : Group} {rs : List Nat} (k : Out) (hg : FMap.get? s.groups c.gid = some g)
    (h : ∃ r ∈ rs, (g.readS r).tag = true) : ∃ t, orPoison s c g rs k = .next t ∧ Poisoned s t c g := by
  obtain ⟨r, hr⟩ := Option.isSome_iff_exists.1 (List.find?_isSome.2 h)
  rw [orPoison, hr]
  exact ⟨_, rfl, poisonFault_spec s c g _ _ _ hg⟩

theorem pairRegs_clean {g : Group} {a : BitVec 6} (h : g.sPairT a = false) : ∀ r ∈ pairRegs a, (g.readS r).tag = false := by
  simpa [pairRegs] using Bool.or_eq_false_iff.1 h

theorem pairRegs_tagged {g : Group} {a : BitVec 6} (h : g.sPairT a = true) : ∃ r ∈ pairRegs a, (g.readS r).tag = true := by
  simpa [pairRegs] using Bool.or_eq_true_iff.1 h

/-! ## Comparisons and immediates -/

/-- A uniform instruction depends on its meaning for its own issue alone. -/
theorem uniform_congr {s : State} {c : Issue} {g : Group} (hI : Issuing s c g) {k k' : Issue → Group → Out} (h : k c g = k' c g) :
    uniform s k = uniform s k' := by
  rw [uniform, uniform, withIssue_eq s c g hI, withIssue_eq s c g hI, h]

theorem cmpUni_iff (a b : Word) :
    (cmpUni 0 a b = true ↔ a = b) ∧ (cmpUni 1 a b = true ↔ a ≠ b) ∧ (cmpUni 2 a b = true ↔ a.toInt < b.toInt) ∧
    (cmpUni 3 a b = true ↔ a.toInt ≤ b.toInt) ∧ (cmpUni 4 a b = true ↔ a.toNat < b.toNat) ∧ (cmpUni 5 a b = true ↔ a.toNat ≤ b.toNat) ∧
    (cmpUni 6 a b = true ↔ a &&& b ≠ 0) ∧ (cmpUni 7 a b = true ↔ a &&& b = 0) :=
  ⟨beq_iff_eq, bne_iff_ne, BitVec.slt_iff_toInt_lt, BitVec.sle_iff_toInt_le, BitVec.ult_iff_toNat_lt, BitVec.ule_iff_toNat_le, bne_iff_ne, beq_iff_eq⟩

theorem bitOf_eq_toNat (b : Bool) : bitOf b = b.toNat := by cases b <;> rfl

/-- The bit of a table that two predicates choose (R126). -/
theorem lutBit_eq (t : BitVec 4) (x y : Bool) : lutBit t x y = t.getLsbD (2 * x.toNat + y.toNat) := by
  rw [lutBit, bitOf_eq_toNat, bitOf_eq_toNat]

/-- An instruction whose meaning writes one uniform register. -/
theorem exec_writes_uniform {s : State} {c : Issue} {g : Group} {i : Instr} {f : Group → List (Dst × Reg)} {d : Nat} {x : Reg}
    (hI : Issuing s c g) (h : exec i s = uniFixed s f) (hf : f g = [(.s d, x)]) :
    ∃ t, exec i s = .next t ∧ WritesS s t c g (fun r => if r = d then some x else none) :=
  h ▸ uniFixed_one s c g hI f d x hf

/-- A register combined with a zero-extended immediate. -/
theorem uniSelf_zext_result {i : BitVec 6 → BitVec 15 → Instr} (f : Word → Word → Word)
    (h : ∀ d j s, exec (i d j) s = uniSelf s d (fun x => f x (j.setWidth 32))) : UniSelf i (fun x j => f x (BitVec.ofNat 32 j.toNat)) := by
  simp only [← BitVec.ofNat_toNat] at h
  exact uniSelf_result h

/-- SSET from sources without a tag writes its comparison (R122). -/
theorem sset_clean (s : State) (c : Issue) (g : Group) (e : BitVec 3) (a b : BitVec 6) (k : BitVec 3) (hI : Issuing s c g)
    (ha : g.st a = false) (hb : g.st b = false) :
    ∃ t, exec (.sset e a b k) s = .next t ∧ WritesQ s t c g e.toNat (cmpUni k (g.sv a) (g.sv b)) := by
  have clean : ∀ r ∈ [a.toNat, b.toNat], (g.readS r).tag = false := by simpa using ⟨ha, hb⟩
  have written : exec (.sset e a b k) s = uniFixed s (fun g => [(.q e.toNat, preg (cmpUni k (g.sv a) (g.sv b)))]) :=
    uniform_congr hI (orPoison_clean s c _ clean)
  rw [written]
  exact uniFixed_pred s c g hI _ _ _ rfl

/-- SSET from a tagged source raises POISON (R118). -/
theorem sset_tagged (s : State) (c : Issue) (g : Group) (e : BitVec 3) (a b : BitVec 6) (k : BitVec 3) (hI : Issuing s c g) (hG : Guarded c g)
    (h : g.st a = true ∨ g.st b = true) : ∃ t, exec (.sset e a b k) s = .next t ∧ Poisoned s t c g := by
  rw [exec_sset, execSset, uniform_true s c g hI _ hG]
  exact orPoison_tagged _ hI.2.1 (by simpa [Group.st] using h)

/-- Settles O14: each form has its shape's result; SSET is its comparison once no source is tagged. -/
theorem uniformOthers : Obligations.UniformOthers := by
  unfold Obligations.UniformOthers
  refine ⟨sset_clean, sset_tagged, cmpUni_iff, ?select, uniSelf_result exec_saddi, ?immediate, uniSelf_zext_result (fun x y => x &&& y) exec_sandi,
    uniSelf_zext_result (fun x y => x ||| y) exec_sori, uniSelf_zext_result (fun x y => x ^^^ y) exec_sxori, ?literal, uniSelf_result exec_slitAdd,
    uniSelf_result exec_slitAnd, uniSelf_result exec_slitOr, uniSelf_result exec_slitXor, ?specialValue, ?predicateLogic⟩
  case select => exact fun s c g d a b n hI => exec_writes_uniform hI (exec_ssel d a b n s) rfl
  case immediate => exact fun s c g d j hI => exec_writes_uniform hI (exec_smovi d j s) rfl
  case literal => exact fun s c g d x hI => exec_writes_uniform hI (exec_slit d x s) rfl
  case specialValue => exact fun s c g d j hI => exec_writes_uniform hI (exec_sreg d j s) rfl
  case predicateLogic =>
    intro s c g e f h k hI
    rw [← lutBit_eq]
    exact uniFixed_pred s c g hI _ _ _ rfl

end Sys2Proof.Machine
end

section
/-! The branches (R127-R131): where the issuing lanes go and what becomes of their return stacks, and the targets and stacks that are refused. -/

namespace Sys2Proof.Machine

open Sys2Proof.Safety

/-! ## Targets -/

theorem wordOff_eq_ofInt {n : Nat} (o : BitVec n) : wordOff o = BitVec.ofInt 64 (4 * o.toInt) := by
  rw [wordOff, BitVec.shiftLeft_eq_mul_twoPow, BitVec.signExtend, mul_comm, BitVec.ofInt_mul]
  rfl

/-- A jump's target may be used when it is canonical and a multiple of 4 (R129). -/
theorem targetBad_eq_false_iff (a : DWord) : targetBad a = false ↔ canonical a = true ∧ a.toNat % 4 = 0 := by
  have low : a.extractLsb' 0 2 = 0#2 ↔ a.toNat % 4 = 0 := by
    rw [← BitVec.toNat_inj, BitVec.extractLsb'_toNat, Nat.shiftRight_zero]; rfl
  rw [targetBad, Bool.or_eq_false_iff, Bool.not_eq_false', bne_eq_false_iff_eq, low]

theorem targetBad_eq_true {a : DWord} (h : canonical a = false ∨ a.toNat % 4 ≠ 0) : targetBad a = true := by
  refine Bool.eq_true_of_not_eq_false fun hb => ?_
  obtain ⟨hc, h4⟩ := (targetBad_eq_false_iff a).1 hb
  exact h.elim (fun hn => by simp [hc] at hn) (· h4)

/-! ## Return stacks -/

/-- The return stacks of the issuing lanes changed. -/
def restack (c : Issue) (g : Group) (f : List DWord → List DWord) : Group := g.updLanes c.lanes (fun _ x => { x with rstack := f x.rstack })

theorem restack_length (c : Issue) (g : Group) (f : List DWord → List DWord) : (restack c g f).lanes.length = g.lanes.length :=
  List.length_mapIdx

theorem restack_rstack (c : Issue) (g : Group) (f : List DWord → List DWord) (l : Nat) (hl : l < g.lanes.length) :
    ((restack c g f).lane l).rstack = if c.lanes.getLsbD l = true then f (g.lane l).rstack else (g.lane l).rstack := by
  rw [restack, lane_updLanes _ _ _ _ hl]
  split <;> rfl

/-- With room in every issuing lane's stack the return address is pushed in each (R128). -/
theorem pushAll_room {c : Issue} {g : Group} (h : ∀ l, l < 32 → c.lanes.getLsbD l = true → (g.lane l).rstack.length < 16) :
    pushAll c g = some (restack c g (fun k => (c.pc + 4) :: k)) := by
  have none_full : (lanesOf c.lanes).any (fun l => decide ((g.lane l).rstack.length ≥ 16)) = false := by
    simpa [mem_lanesOf] using h
  rw [pushAll, none_full]
  rfl

theorem pushAll_full {c : Issue} {g : Group} (h : ∃ l, l < 32 ∧ c.lanes.getLsbD l = true ∧ (g.lane l).rstack.length ≥ 16) : pushAll c g = none := by
  have full : (lanesOf c.lanes).any (fun l => decide ((g.lane l).rstack.length ≥ 16)) = true := by
    simpa [mem_lanesOf, and_assoc] using h
  rw [pushAll, if_pos full]

/-! ## Moves -/

/-- A jump from a group whose registers are as before and whose return stacks are as the move says. -/
theorem jumpTo_moves_of {c : Issue} {g g' : Group} {f : List DWord → List DWord} (s : State) (pcs : Nat → DWord) (hregs : regs g' = regs g)
    (hlen : g'.lanes.length = g.lanes.length)
    (hstack : ∀ l, l < g.lanes.length → (g'.lane l).rstack = if c.lanes.getLsbD l = true then f (g.lane l).rstack else (g.lane l).rstack) :
    Moves s (jumpTo s c g' pcs) c g pcs f := by
  obtain ⟨quiet, -, h, hget, kregs, -, hat, -, kstack⟩ := retireAt_spec s c { g' with ldy := 0 } pcs
  exact ⟨quiet, h, hget, kregs.trans hregs, at_length hlen hat, fun l _ hl => (kstack l (hl.trans_eq hlen.symm)).trans (hstack l hl)⟩

/-- A jump that leaves the return stacks alone. -/
theorem jumpTo_moves (s : State) (c : Issue) (g : Group) (pcs : Nat → DWord) : Moves s (jumpTo s c g pcs) c g pcs (fun k => k) :=
  jumpTo_moves_of s pcs rfl rfl (fun _ _ => (ite_self _).symm)

/-- A jump from a group whose return stacks alone have changed. -/
theorem jumpTo_restack_moves (s : State) (c : Issue) (g : Group) (pcs : Nat → DWord) (f : List DWord → List DWord) :
    Moves s (jumpTo s c (restack c g f) pcs) c g pcs f :=
  jumpTo_moves_of s pcs rfl (restack_length c g f) (restack_rstack c g f)

/-- The broadcast address is no part of what a move says. -/
theorem moves_withB {s t : State} {c : Issue} {g : Group} {pcs : Nat → DWord} {f : List DWord → List DWord} (h : Moves s t c g pcs f) (b : DWord) :
    Moves s (t.updGroup c.gid (fun g => { g with b := b })) c g pcs f := by
  obtain ⟨quiet, k, hget, hregs, hat, hstack⟩ := h
  refine ⟨quiet.trans (quiet_updGroup t c.gid _), { k with b := b }, ?_, hregs, hat, hstack⟩
  rw [State.get_updGroup, if_pos rfl, hget]
  rfl

/-- A jump from a group that has written one uniform register. -/
theorem jumpTo_write_uniform (s : State) (c : Issue) (g : Group) (d : Nat) (x : Reg) (pcs : Nat → DWord) :
    let t := jumpTo s c (g.write [(.s d, x)]) pcs
    Quiet s t c.gid ∧ ∃ h, FMap.get? t.groups c.gid = some h ∧ (∀ r, h.readS r = if r = d ∧ r ≠ 63 then x else g.readS r) ∧
      h.v = g.v ∧ h.deep = g.deep ∧ h.p = g.p ∧ h.q = g.q ∧ At c g h pcs := by
  obtain ⟨quiet, -, h, hget, hregs, -, hat, -⟩ := retireAt_spec s c { g.write [(.s d, x)] with ldy := 0 } pcs
  obtain ⟨wregs, wlen⟩ := write_parts g [(.s d, x)]
  obtain ⟨hv, hdeep, hs, hp, hq⟩ := regs_eq (hregs.trans wregs)
  obtain ⟨gv, gdeep, gp, gq, glanes, -⟩ := set_s_parts g d x
  exact ⟨quiet, h, hget, fun r => (readS_of_s hs r).trans (set_readS g d r x), hv.trans gv, hdeep.trans gdeep, hp.trans gp, hq.trans gq,
    at_length (wlen.trans (congrArg List.length glanes)) hat⟩

/-! ## The instructions under a true guard -/

section

variable {s : State} {c : Issue} {g : Group} (hI : Issuing s c g) (hG : Guarded c g)
include hI hG

theorem bra_moves (o : BitVec 21) :
    ∃ t, exec (.bra o) s = .next t ∧ Moves s t c g (fun _ => c.pc + BitVec.ofInt 64 (4 * o.toInt)) (fun k => k) := by
  rw [exec_bra, execBra, uniform_true s c g hI _ hG, wordOff_eq_ofInt]
  exact ⟨_, rfl, jumpTo_moves s c g _⟩

theorem call_moves (o : BitVec 21) (room : ∀ l, l < 32 → c.lanes.getLsbD l = true → (g.lane l).rstack.length < 16) :
    ∃ t, exec (.call o) s = .next t ∧ Moves s t c g (fun _ => c.pc + BitVec.ofInt 64 (4 * o.toInt)) (fun k => (c.pc + 4) :: k) := by
  rw [exec_call, execCall, uniform_true s c g hI _ hG, pushAll_room room, wordOff_eq_ofInt]
  exact ⟨_, rfl, jumpTo_restack_moves s c g _ _⟩

theorem call_traps (o : BitVec 21) (full : ∃ l, l < 32 ∧ c.lanes.getLsbD l = true ∧ (g.lane l).rstack.length ≥ 16) :
    ∃ t, exec (.call o) s = .next t ∧ Traps s t c g cAddr 0 := by
  rw [exec_call, execCall, uniform_true s c g hI _ hG, pushAll_full full]
  exact ⟨_, rfl, groupFault_spec s c g _ _ hI.2.1⟩

/-- JMP from a clean pair goes to a good target, and raises ADDR at a bad one. -/
theorem jmp_clean (a : BitVec 6) (clean : g.sPairT a = false) : exec (.jmp a) s =
    if targetBad (g.sPair a) then .next (groupFault s c cAddr (g.sPair a)) else .next (jumpTo s c g (fun _ => g.sPair a)) := by
  rw [exec_jmp, execJmp, uniform_true s c g hI _ hG, orPoison_clean s c _ (pairRegs_clean clean)]

/-- JMP.call from a clean pair pushes and goes to a good target, and raises ADDR at a bad one or a full stack. -/
theorem jmpCall_clean (a : BitVec 6) (clean : g.sPairT a = false) : exec (.jmpCall a) s =
    if targetBad (g.sPair a) then .next (groupFault s c cAddr (g.sPair a))
    else (pushAll c g).elim (.next (groupFault s c cAddr 0)) (fun h => .next (jumpTo s c h (fun _ => g.sPair a))) := by
  rw [exec_jmpCall, execJmpCall, uniform_true s c g hI _ hG, orPoison_clean s c _ (pairRegs_clean clean)]
  cases pushAll c g <;> rfl

theorem jmp_moves (a : BitVec 6) (clean : g.sPairT a = false) (good : targetBad (g.sPair a) = false) :
    ∃ t, exec (.jmp a) s = .next t ∧ Moves s t c g (fun _ => g.sPair a) (fun k => k) := by
  rw [jmp_clean hI hG a clean, good]
  exact ⟨_, rfl, jumpTo_moves s c g _⟩

theorem jmpCall_moves (a : BitVec 6) (clean : g.sPairT a = false) (good : targetBad (g.sPair a) = false)
    (room : ∀ l, l < 32 → c.lanes.getLsbD l = true → (g.lane l).rstack.length < 16) :
    ∃ t, exec (.jmpCall a) s = .next t ∧ Moves s t c g (fun _ => g.sPair a) (fun k => (c.pc + 4) :: k) := by
  rw [jmpCall_clean hI hG a clean, good, pushAll_room room]
  exact ⟨_, rfl, jumpTo_restack_moves s c g _ _⟩

theorem jmp_traps (a : BitVec 6) (clean : g.sPairT a = false) (bad : targetBad (g.sPair a) = true) :
    ∃ t, exec (.jmp a) s = .next t ∧ Traps s t c g cAddr (g.sPair a) := by
  rw [jmp_clean hI hG a clean, bad]
  exact ⟨_, rfl, groupFault_spec s c g _ _ hI.2.1⟩

theorem jmpCall_traps (a : BitVec 6) (clean : g.sPairT a = false) (bad : targetBad (g.sPair a) = true) :
    ∃ t, exec (.jmpCall a) s = .next t ∧ Traps s t c g cAddr (g.sPair a) := by
  rw [jmpCall_clean hI hG a clean, bad]
  exact ⟨_, rfl, groupFault_spec s c g _ _ hI.2.1⟩

theorem jmpCall_traps_full (a : BitVec 6) (clean : g.sPairT a = false) (good : targetBad (g.sPair a) = false)
    (full : ∃ l, l < 32 ∧ c.lanes.getLsbD l = true ∧ (g.lane l).rstack.length ≥ 16) :
    ∃ t, exec (.jmpCall a) s = .next t ∧ Traps s t c g cAddr 0 := by
  rw [jmpCall_clean hI hG a clean, good, pushAll_full full]
  exact ⟨_, rfl, groupFault_spec s c g _ _ hI.2.1⟩

theorem jmp_poisons (a : BitVec 6) (tagged : g.sPairT a = true) : ∃ t, exec (.jmp a) s = .next t ∧ Poisoned s t c g := by
  rw [exec_jmp, execJmp, uniform_true s c g hI _ hG]
  exact orPoison_tagged _ hI.2.1 (pairRegs_tagged tagged)

theorem jmpCall_poisons (a : BitVec 6) (tagged : g.sPairT a = true) : ∃ t, exec (.jmpCall a) s = .next t ∧ Poisoned s t c g := by
  rw [exec_jmpCall, execJmpCall, uniform_true s c g hI _ hG]
  exact orPoison_tagged _ hI.2.1 (pairRegs_tagged tagged)

/-- A branch on a predicate (R129). -/
theorem jumpIf_moves (n : BitVec 3) (o : BitVec 15) (v : Bool) : ∃ t, jumpIf s n o v = .next t ∧
    Moves s t c g (fun l => if g.pred n.toNat l = v then c.pc + BitVec.ofInt 64 (4 * o.toInt) else c.pc + 4) (fun k => k) := by
  rw [jumpIf, uniform_true s c g hI _ hG, wordOff_eq_ofInt]
  exact ⟨_, rfl, jumpTo_moves s c g _⟩

theorem jmpF_moves (n : BitVec 3) (o : BitVec 15) : ∃ t, exec (.jmpF n o) s = .next t ∧
    Moves s t c g (fun l => if g.pred n.toNat l = true then c.pc + 4 else c.pc + BitVec.ofInt 64 (4 * o.toInt)) (fun k => k) := by
  have swap : ∀ l, (if g.pred n.toNat l = true then c.pc + 4 else c.pc + BitVec.ofInt 64 (4 * o.toInt)) =
      if g.pred n.toNat l = false then c.pc + BitVec.ofInt 64 (4 * o.toInt) else c.pc + 4 := fun l => by
    cases g.pred n.toNat l <;> rfl
  simp only [swap]
  exact jumpIf_moves hI hG n o false

theorem ret_moves (h : ∀ l, l < 32 → c.lanes.getLsbD l = true → (g.lane l).rstack ≠ []) :
    ∃ t, exec .ret s = .next t ∧ Moves s t c g (fun l => (g.lane l).rstack.headD 0) List.tail := by
  have none_empty : (lanesOf c.lanes).any (fun l => (g.lane l).rstack.isEmpty) = false := by simpa [mem_lanesOf] using h
  have moves := jumpTo_restack_moves s c g (fun l => (g.lane l).rstack.headD 0) List.tail
  rw [exec_ret, execRet, uniform_true s c g hI _ hG, none_empty]
  refine ⟨_, rfl, ?_⟩
  split
  · exact moves_withB moves _
  · exact moves

theorem ret_traps (h : ∃ l, l < 32 ∧ c.lanes.getLsbD l = true ∧ (g.lane l).rstack = []) :
    ∃ t, exec .ret s = .next t ∧ Traps s t c g cAddr 0 := by
  have empty : (lanesOf c.lanes).any (fun l => (g.lane l).rstack.isEmpty) = true := by simpa [mem_lanesOf, and_assoc] using h
  rw [exec_ret, execRet, uniform_true s c g hI _ hG, if_pos empty]
  exact ⟨_, rfl, groupFault_spec s c g _ _ hI.2.1⟩

/-- LOOP from a clean counter: it falls through at the last turn, with the counter at 0, and else goes back, with the counter one less (R131). -/
theorem loop_clean (d : BitVec 6) (o : BitVec 15) (clean : g.st d = false) : ∃ t, exec (.loop d o) s = .next t ∧ Quiet s t c.gid ∧
    ∃ h, FMap.get? t.groups c.gid = some h ∧
      (∀ r, h.readS r = if r = d.toNat ∧ r ≠ 63 then ⟨if (g.sv d).toNat ≤ 1 then 0 else g.sv d - 1, false⟩ else g.readS r) ∧
      h.v = g.v ∧ h.deep = g.deep ∧ h.p = g.p ∧ h.q = g.q ∧
      At c g h (fun _ => if (g.sv d).toNat ≤ 1 then c.pc + 4 else c.pc + BitVec.ofInt 64 (4 * o.toInt)) := by
  rw [exec_loop, execLoop, uniform_true s c g hI _ hG, orPoison_clean s c _ (by simpa [Group.st] using clean), wordOff_eq_ofInt]
  by_cases last : (g.sv d).toNat ≤ 1
  · simp only [last, if_true]
    exact ⟨_, rfl, jumpTo_write_uniform s c g _ _ _⟩
  · simp only [last, if_false]
    exact ⟨_, rfl, jumpTo_write_uniform s c g _ _ _⟩

theorem loop_poisons (d : BitVec 6) (o : BitVec 15) (tagged : g.st d = true) : ∃ t, exec (.loop d o) s = .next t ∧ Poisoned s t c g := by
  rw [exec_loop, execLoop, uniform_true s c g hI _ hG]
  exact orPoison_tagged _ hI.2.1 (by simpa [Group.st] using tagged)

end

/-- Settles O15: each branch moves its lanes and changes their return stacks as its own lemma says, or stops the group first. -/
theorem branches : Obligations.Branches := by
  unfold Obligations.Branches
  refine ⟨fun s c g hI hG => ?moves, fun s c g hI hG => ?stops⟩
  case moves =>
    refine ⟨bra_moves hI hG, call_moves hI hG, ?jumps, fun n o => jumpIf_moves hI hG n o true, jmpF_moves hI hG, ret_moves hI hG, loop_clean hI hG⟩
    intro a clean hc h4
    have good := (targetBad_eq_false_iff _).2 ⟨hc, h4⟩
    exact ⟨jmp_moves hI hG a clean good, jmpCall_moves hI hG a clean good⟩
  case stops =>
    refine ⟨fun full => ⟨fun o => call_traps hI hG o full, ?fullStack⟩, ret_traps hI hG, ?badTarget, ?taggedTarget, loop_poisons hI hG⟩
    case fullStack => exact fun a clean hc h4 => jmpCall_traps_full hI hG a clean ((targetBad_eq_false_iff _).2 ⟨hc, h4⟩) full
    case badTarget => exact fun a clean bad => ⟨jmp_traps hI hG a clean (targetBad_eq_true bad), jmpCall_traps hI hG a clean (targetBad_eq_true bad)⟩
    case taggedTarget => exact fun a tagged => ⟨jmp_poisons hI hG a tagged, jmpCall_poisons hI hG a tagged⟩

end Sys2Proof.Machine
end
